-- ==== Sys2Proof/Word.lean ====
section
/-! DEFINITION. The words of the machine (R4) and their plainest readings. -/

namespace Sys2Proof

/-- 8 bits (R4). -/
abbrev Byte := BitVec 8
/-- 64 bits, a doubleword (R4). -/
abbrev DWord := BitVec 64
/-- 128 bits, a quadword (R4): the width of a general register (R11). -/
abbrev QWord := BitVec 128
/-- A register number g0 to g31 (R145). -/
abbrev Reg := BitVec 5

end Sys2Proof
end

