-- ==== Sys2Proof/Config.lean ====
section
/-! DEFINITION. What an implementation fixes and the spec leaves open (constants without a body: nothing can prove a
value of one), and the fixed figures the spec gives the module (R9, R10, R29, R30). -/

namespace Sys2Proof.Config

/-- The cycles of the module clock that one step takes: the spec fixes no latency but the TCM's (R16). [log 4 DEDUCED] -/
opaque elapse : Nat → Nat
/-- What hardware reads from a table that lies at an address without a home or a mapping: the spec gives that read no
value. Applied to the step's tick and the address. [log 7 DESIGN CHOICE] -/
opaque strayWord : Nat → Nat → BitVec 64
/-- How EMSG holds a message identifier: SRC, SMOD, SCORE and SEQ (R59 gives no layout; bits 63 and 62 mark other starts). [log 12 DESIGN CHOICE] -/
opaque packId : BitVec 2 → BitVec 12 → BitVec 20 → BitVec 16 → BitVec 62
/-- The budget of a task whose message belongs to no launch of this module (R32 names the launch's). [log 24 DESIGN CHOICE] -/
opaque orphanBudget : Nat → Nat
/-- Which entry of a full panel or streamer translation cache gives way (R324 names no replacement). [log 44 DEDUCED] -/
opaque ptcVictim : Nat → Nat
/-- Which line of a full data cache gives way (R21: replacement changes timing only). [log 43 DEDUCED] -/
opaque lineVictim : Nat → Nat
/-- Which of several candidates an implementation names or takes, where the spec says only that there is one (the failing
element of R246, the streamer of R338). Applied to the step's tick. [log 52 DESIGN CHOICE] -/
opaque pickOne : Nat → Nat
/-- The units that the shipped kernel's own instructions add for one service (R119): its code is not given. [log 6 DESIGN CHOICE] -/
opaque kernelCost : Nat → Nat
/-- Which queues belong to the physical function (R318 names the case and gives no register for it). [log 70 DESIGN CHOICE] -/
opaque pfQueue : Nat → Bool
/-- What another module answers to a piece of a REMOTE command (R256): the failing cause or 0, and for a gathered piece
its bytes and its poison. Applied to the step's tick. [log 58 DEDUCED, log 100 DESIGN CHOICE] -/
opaque remotePiece : Nat → Nat × Nat × Bool
/-- Byte `k` of the HSS signature that the identity's leaf `q` gives over a message (R350, R351): DEVSECRET, from which the
identity is derived, is read by nothing. [log 89 DESIGN CHOICE] -/
opaque hssSign : Nat → List Byte → Nat → Byte
/-- Byte `k` of the identity's public key of 60 bytes (R349, R350). [log 89 DESIGN CHOICE] -/
opaque idPub : Nat → Byte
/-- The number that stage 1 assigns to the module (R14, R351). [log 92 DESIGN CHOICE] -/
opaque moduleNumber : BitVec 12
/-- Whether a module is reached through Trarum port `p` once that carries traffic (R14). [log 92 DESIGN CHOICE] -/
opaque peer : Nat → BitVec 12 → Bool
/-- BOOTSTAT.DETAIL where it names a die and a port (R351, R360): the spec gives it no layout. [log 92 DESIGN CHOICE] -/
opaque bootDetail : Nat → Nat → BitVec 16
/-- The module's draw in watts over the last 1 ms (R357). Applied to the step's tick. [log 94 DEDUCED] -/
opaque draw : Nat → BitVec 12
/-- Fuse KEYHASH0, set at manufacture (R343). [log 89 DESIGN CHOICE] -/
opaque keyHash0 : BitVec 256
/-- Fuse SERIAL (R343). [log 89 DESIGN CHOICE] -/
opaque serial : DWord
/-- ROMVER, the version number of the mask ROM (R343). [log 89 DESIGN CHOICE] -/
opaque romVersion : BitVec 32
/-- The fused voltage of rail `r` in clock state `c`, in mV (R355, R356). [log 87 DEDUCED] -/
opaque fusedVset : Nat → Nat → BitVec 16
/-- The set of a line in a way of the memory-side cache (R9 gives a way's size and no placement). [log 102 DESIGN CHOICE] -/
opaque mscSet : Nat → Nat
/-- Whether a walk uses the copy of a rule that the panel's pattern cache holds (R112, R120). Applied to the step's tick and the
rule's index. [log 103 DESIGN CHOICE] -/
opaque patternKept : Nat → Nat → Bool
/-- Where among the module physical addresses the flints reach the register windows of the physical function (R343 gives no place).
[log 104 DESIGN CHOICE] -/
opaque pfWindow : Nat
/-- Doubleword `k` of a function's configuration space outside the feature list (R29): Brixmal fixes it, the spec does not. [log 105 DESIGN CHOICE] -/
opaque configWord : Nat → Nat → DWord
/-- Where in die 0's SRAM stage 1 puts the copy of the configuration space, and a flint the results of its training (R352, R362).
[log 106 DESIGN CHOICE] -/
opaque featurePage : Nat
opaque resultPage : Nat → Nat
/-- The cores whose IMEM takes the code of the image of kernels or streamers at a flash offset, by KIND: CODELEN bytes of its body go to
IMEM, and R344 does not say whose. [log 106 DESIGN CHOICE] -/
opaque imageCores : Nat → Nat → List Nat
/-- The policy bytes that stage 1 extends MEAS4 with, for the flash offsets and KINDs of its images (R348 fixes no layout). [log 106 DESIGN CHOICE] -/
opaque policyBytes : List (Nat × Nat) → List Byte
/-- The physical column at fabrication in row `r` of die `d` (R15, R365). [log 89 DESIGN CHOICE] -/
opaque fabricated : Nat → Nat → Fin 65

/-- Cores of the module (R9). -/
def cores : Nat := 1048576
/-- The longest task budget in cycles (R55). -/
def maxBudget : Nat := 16777216
/-- Cycles after which queued work ages, and of a balancing round (R54, R57). -/
def ageing : Nat := 65536
/-- Cycles between automatic rounds of a blocked core (R286). -/
def roundCycles : Nat := 256
/-- Cycles after which the group watchdog cancels a BROT (R252). -/
def groupCycles : Nat := 1048576
/-- Cycles a save may overrun a slice (R369). -/
def saveCycles : Nat := 67108864
/-- Inbox slots, event-queue entries, send-buffer entries, store-buffer entries, fitting entries, cached lines (R10). -/
def inboxSlots : Nat := 32
def eventEntries : Nat := 64
def sendEntries : Nat := 16
def storeEntries : Nat := 8
def fitEntries : Nat := 32
def cacheLines : Nat := 64
/-- Entries of a panel translation cache and of a streamer's (R10, R324). -/
def ptcEntries : Nat := 1024
def streamerPtcEntries : Nat := 256

/-- The feature list of each function's configuration space (R29, R30, R362): (offset, word 0, word 1, word 2, word 3). -/
def featureList : List (Nat × Nat × Nat × Nat × Nat) :=
  [(0x100, 0x04010003, 0x00000110, 0x00000008, 0x00000020),
   (0x110, 0x04010001, 0x00000120, 0x00000040, 0x00000010),
   (0x120, 0x04010005, 0x00000130, 0x00000060, 0x0000FED4),
   (0x130, 0x04010002, 0x00000140, 0x00000008, 0x00000040),
   (0x140, 0x04010004, 0x00000000, 0x00000020, 0x00000040)]

end Sys2Proof.Config
end

