-- ==== Sys2Proof/Syntax.lean ====
section
/-! DEFINITION. The instructions: one constructor for each row of spec/opcode_table.json, with the operands that
the encoding of the row names (R145 to R148, R163 to R170), and for a row without an encoding (a step of another
agent) the operands that say which unit acts and what reaches it from outside the module. -/

namespace Sys2Proof

/-- The scope field of AMO and FENCE (R68, R166). -/
inductive Scope where
  | core | panel | die | mod | sys
deriving DecidableEq, Repr

/-- The order field of an AMO (R166). -/
inductive AmoOrder where
  | rlx | acq | rel | acqrel
deriving DecidableEq, Repr

/-- The type field of a vector instruction, in the order of the opcode map. -/
inductive VType where
  | i8 | i16 | i32 | i64 | f32 | f16 | bf16 | u8 | u16 | u32
deriving DecidableEq, Repr

/-- The addend format of ACCADD and ACCADDV (R169). -/
inductive AccFmt where
  | fp32 | e8m10 | bf16 | int32 | int64
deriving DecidableEq, Repr

/-- The target of ACCRND (R169). -/
inductive AccTarget where
  | fp32 | bf16 | fp16 | e8m10 | int32 | tbla | tblb
deriving DecidableEq, Repr

/-- A rounding mode (R125). -/
inductive RMode where
  | rne | rtz | rup | rdn
deriving DecidableEq, Repr

/-- A message with its trailer (R33, R34). `links` holds the chain of a message that comes from another module or
goes to one, outermost first, as (principal, fraction) (R104). `free` marks FREE work (R48), which balancing may move,
`waited` is the age that a moved task keeps (R57), and `poison` marks a payload that SENDD read from marked memory (R63). -/
structure Msg where
  hdr    : DWord
  words  : List DWord
  cap    : Option QWord
  env    : DWord
  work   : DWord
  launch : DWord
  links  : List (Nat × Nat)
  free   : Bool
  waited : Nat
  poison : Bool
deriving DecidableEq, Repr

/-- The unit that holds a message it has sent (R33): a core's send buffer, a core's NI for what it sends outside any
task, a die's front end, a die's duplex home. -/
inductive Sender where
  | core (n : Nat)
  | ni (n : Nat)
  | frontEnd (d : Nat)
  | home (d : Nat)
deriving DecidableEq, Repr

/-- Why a message was not delivered (R40, R41, R104). -/
inductive Reason where
  | gone | away | full | unreachable | nochain
deriving DecidableEq, Repr

/-- Where an arriving message comes from: a copy held by a unit of this module for a core of this module, a copy held
here whose destination lies in another module together with that module's answer, or a message off a Trarum port. [log 100 DESIGN CHOICE] -/
inductive MsgSrc where
  | held (u : Sender) (slot copy : Nat)
  | remote (u : Sender) (slot copy : Nat) (answer : Option Reason)
  | wire (m : Msg) (retry : Bool)
deriving DecidableEq, Repr

/-- The answer of a remote module to an RREAD (R222): the doubleword and its poison mark, or the failing cause. -/
inductive RReadAnswer where
  | value (v : DWord) (poison : Bool)
  | fails (cause : Nat)
deriving DecidableEq, Repr

/-- One side of an RREAD between modules (R222): the answer that reaches a waiting core, or a request of another module
that this one serves for a partition under a chain. -/
inductive RReadSide where
  | answer (core : Nat) (a : RReadAnswer)
  | request (part : Nat) (links : List (Nat × Nat)) (region : Nat) (addr : DWord) (src : BitVec 20) (ltag : BitVec 16)
deriving DecidableEq, Repr

/-- A host access through a Brixmal function (R91, R199). -/
inductive HostOp where
  | read
  | write (v : QWord)
  | swap (v : DWord)
  | fetchAdd (v : DWord)
  | fetchOr (v : DWord)
deriving DecidableEq, Repr

/-- A training block (R358): GDDR channel 0 to 127, Brixmal lane group 0 to 3, Trarum port 0 to 17. -/
inductive TrainBlock where
  | gddr (c : Nat)
  | brix (d : Nat)
  | trarum (p : Nat)
deriving DecidableEq, Repr

/-- What a device or a link peer answers to a training step (R359, R360): whether it answers or locks, the smallest
margin in 1/64 UI, the errors counted, and the settings found. -/
structure TrainResult where
  ok     : Bool
  margin : BitVec 16
  errs   : BitVec 32
  res    : DWord
deriving DecidableEq, Repr

/-- The unit that detects an error (R364). -/
inductive ErrUnit where
  | sram | gddr | mscClean | panel | core
deriving DecidableEq, Repr

/-- The link of a flit error (R364). -/
inductive ErrLink where
  | trarum (p : Nat)
  | brix
deriving DecidableEq, Repr

/-- Where a front end takes a packet from: the block its walker stands at on a run list (R309), or the device queue of
a partition (R319). -/
inductive PktSrc where
  | ring (die prio : Nat)
  | device (die part : Nat)
deriving DecidableEq, Repr

/-- What STORE_BUFFER_DRAIN does (R80, R88): the oldest store of a core's buffer leaves it, or the `i`-th store that has
left a buffer performs at the agent that serves it. -/
inductive Drain where
  | leave (core : Nat)
  | perform (i : Nat)
deriving DecidableEq, Repr

/-- A result of the security block that the module computes with its secret identity or reads from a fuse: which of the
two readings of the bit being blown comes back (R350). -/
inductive BlowResult where
  | verified | failed
deriving DecidableEq, Repr

/-- Who writes or reads a register (R306, R349, R353): a Brixmal function, the management interface, a die's flint. -/
inductive RegAgent where
  | pf
  | vf (n : Nat)
  | mgmt
  | flint (d : Nat)
deriving DecidableEq, Repr

/-- The instructions and the steps of the other agents, one constructor for each row of the opcode table. -/
inductive Instr where
  -- ALU (R174)
  | add (d a b : Reg)
  | sub (d a b : Reg)
  | and (d a b : Reg)
  | or (d a b : Reg)
  | xor (d a b : Reg)
  | andn (d a b : Reg)
  | sll (d a b : Reg)
  | srl (d a b : Reg)
  | sra (d a b : Reg)
  | rol (d a b : Reg)
  | slt (d a b : Reg)
  | sltu (d a b : Reg)
  | min (d a b : Reg)
  | max (d a b : Reg)
  | minu (d a b : Reg)
  | maxu (d a b : Reg)
  | mul (d a b : Reg)
  | mulh (d a b : Reg)
  | mulhu (d a b : Reg)
  | div (d a b : Reg)
  | divu (d a b : Reg)
  | rem (d a b : Reg)
  | remu (d a b : Reg)
  | clz (d a : Reg)
  | ctz (d a : Reg)
  | popc (d a : Reg)
  | sel (d a b : Reg)
  | mix (d a : Reg)
  -- immediate forms (R176 to R178)
  | addi (d a : Reg) (imm : BitVec 15)
  | andi (d a : Reg) (imm : BitVec 15)
  | ori (d a : Reg) (imm : BitVec 15)
  | xori (d a : Reg) (imm : BitVec 15)
  | slli (d a : Reg) (sh : BitVec 6)
  | srli (d a : Reg) (sh : BitVec 6)
  | srai (d a : Reg) (sh : BitVec 6)
  | roli (d a : Reg) (sh : BitVec 6)
  | slti (d a : Reg) (imm : BitVec 15)
  | sltiu (d a : Reg) (imm : BitVec 15)
  | li (d : Reg) (imm : BitVec 20)
  | lis (d : Reg) (imm : BitVec 20)
  -- loads and stores (R195, R196)
  | ld (d a : Reg) (sz : BitVec 3) (imm : BitVec 12)
  | ldna (d a : Reg) (sz : BitVec 3) (imm : BitVec 12)
  | st (b a : Reg) (sz : BitVec 3) (imm : BitVec 12)
  | stna (b a : Reg) (sz : BitVec 3) (imm : BitVec 12)
  -- atomics (R198); `dw` is the size bit
  | amoadd (d a b : Reg) (scope : Scope) (order : AmoOrder) (dw : Bool)
  | amoand (d a b : Reg) (scope : Scope) (order : AmoOrder) (dw : Bool)
  | amoor (d a b : Reg) (scope : Scope) (order : AmoOrder) (dw : Bool)
  | amoxor (d a b : Reg) (scope : Scope) (order : AmoOrder) (dw : Bool)
  | amomin (d a b : Reg) (scope : Scope) (order : AmoOrder) (dw : Bool)
  | amomax (d a b : Reg) (scope : Scope) (order : AmoOrder) (dw : Bool)
  | amominu (d a b : Reg) (scope : Scope) (order : AmoOrder) (dw : Bool)
  | amomaxu (d a b : Reg) (scope : Scope) (order : AmoOrder) (dw : Bool)
  | amoswp (d a b : Reg) (scope : Scope) (order : AmoOrder) (dw : Bool)
  | amocas (d a b : Reg) (scope : Scope) (order : AmoOrder) (dw : Bool)
  -- SC operations (R201)
  | scld (d a : Reg)
  | scst (a b : Reg)
  | scswp (d a b : Reg)
  | scadd (d a b : Reg)
  -- fences (R202)
  | fenceSl
  | fenceAcq (scope : Scope)
  | fenceRel (scope : Scope)
  | fenceAr (scope : Scope)
  | fenceEng
  -- branches, jumps and LOOP (R179 to R181)
  | beq (a b : Reg) (off : BitVec 15)
  | bne (a b : Reg) (off : BitVec 15)
  | blt (a b : Reg) (off : BitVec 15)
  | bge (a b : Reg) (off : BitVec 15)
  | bltu (a b : Reg) (off : BitVec 15)
  | bgeu (a b : Reg) (off : BitVec 15)
  | jal (d : Reg) (off : BitVec 20)
  | jalr (d a : Reg) (imm : BitVec 15)
  | loop (a : Reg) (imm : BitVec 15)
  -- capabilities (R183 to R189)
  | cgetbase (d a : Reg)
  | cgetlen (d a : Reg)
  | cgetperm (d a : Reg)
  | cgettype (d a : Reg)
  | cgetreg (d a : Reg)
  | cgettag (d a : Reg)
  | csetaddr (d a b : Reg)
  | cinc (d a b : Reg)
  | csetbnd (d a b : Reg)
  | candperm (d a b : Reg)
  | cseal (d a b : Reg)
  | cunseal (d a b : Reg)
  | cmov (d a : Reg)
  | ctestsub (d a b : Reg)
  | cclrtag (d a : Reg)
  | cinci (d a : Reg) (imm : BitVec 15)
  | csetbi (d a : Reg) (len : BitVec 15)
  -- messages (R218 to R224)
  | send (a b : Reg)
  | sendc (d a b : Reg)
  | sendk (a b : Reg)
  | sendd (a b : Reg)
  | post (d a b : Reg)
  | mcast (d a b : Reg)
  | rread (d a b : Reg)
  | sende (a b : Reg)
  | endTask
  | abort
  -- counters (R225 to R227)
  | ctrset (k : BitVec 6) (a : Reg)
  | ctrdec (k : BitVec 6) (a : Reg)
  | ctradd (k : BitVec 6) (a : Reg)
  | ctrget (k : BitVec 6) (d : Reg)
  | arrive (k : BitVec 6) (a b : Reg)
  | barlink (k : BitVec 6) (a : Reg)
  | ctrclr (k : BitVec 6)
  -- bound registers (R203 to R209)
  | sbind (d a b : Reg)
  | qbind (d : Reg) (q : BitVec 2) (pop : Bool)
  | lbind (d : Reg) (out fwd : Bool)
  | unbind (d : Reg)
  | bstat (d a : Reg)
  -- repetition (R210 to R213)
  | repb (d a b : Reg)
  | repe
  | repwait
  -- vector (R241 to R243)
  | vadd (t : VType) (d a b : Reg)
  | vsub (t : VType) (d a b : Reg)
  | vmul (t : VType) (d a b : Reg)
  | vfma (t : VType) (d a b : Reg)
  | vmin (t : VType) (d a b : Reg)
  | vmax (t : VType) (d a b : Reg)
  | vabs (t : VType) (d a : Reg)
  | vneg (t : VType) (d a : Reg)
  | vand (t : VType) (d a b : Reg)
  | vor (t : VType) (d a b : Reg)
  | vxor (t : VType) (d a b : Reg)
  | vshl (t : VType) (d a b : Reg)
  | vshr (t : VType) (d a b : Reg)
  | vsra (t : VType) (d a b : Reg)
  | vceq (t : VType) (d a b : Reg)
  | vclt (t : VType) (d a b : Reg)
  | vcle (t : VType) (d a b : Reg)
  | vsel (t : VType) (d a b : Reg)
  | vsplat (t : VType) (d a : Reg)
  | vext (t : VType) (d a b : Reg)
  | vins (t : VType) (d a b : Reg)
  | vshuf (t : VType) (d a b : Reg)
  | vrsum (t : VType) (d a : Reg)
  | vrmax (t : VType) (d a : Reg)
  | vcvt (t src : VType) (d a : Reg)
  | vdec (d a : Reg) (tblB : Bool)
  | venc (d a : Reg) (tblB : Bool)
  | vrcp (t : VType) (d a : Reg)
  | vrsq (t : VType) (d a : Reg)
  | vexp2 (t : VType) (d a : Reg)
  | vlog2 (t : VType) (d a : Reg)
  | vimax (t : VType) (d a : Reg)
  -- matrix engine (R245 to R251)
  | mma (d : Reg) (wa wc : BitVec 4) (a : Reg) (ks : BitVec 3)
  | bload (wa : BitVec 4) (a : Reg) (ks : BitVec 3)
  | brot
  | mxwait
  | mxspill
  | mxwt (a : Reg)
  -- accumulator (R253, R254)
  | accclr (w : BitVec 4) (a b : Reg)
  | accadd (w : BitVec 4) (a b : Reg) (fmt : AccFmt)
  | accaddv (w : BitVec 4) (a b : Reg) (fmt : AccFmt)
  | accfma (w : BitVec 4) (d a b : Reg)
  | acccmb (w : BitVec 4) (a b : Reg)
  | accrnd (d : Reg) (w : BitVec 4) (b : Reg) (fmt : AccTarget) (mode : RMode)
  | accst (w : BitVec 4) (a b : Reg)
  -- engine commands (R255 to R259)
  | cpy (d a b : Reg) (ch : BitVec 2)
  | gather (d a b : Reg) (ch : BitVec 2)
  | scatter (d a b : Reg) (ch : BitVec 2)
  | fill (d a b : Reg) (ch : BitVec 2)
  | wmset (ch : BitVec 2) (a b : Reg)
  | wmget (d : Reg) (ch : BitVec 2)
  -- chains (R228 to R230)
  | adopt (d a : Reg)
  | shed (d : Reg)
  | chnget (d a : Reg)
  | fit (d a : Reg)
  | unpick (d a : Reg)
  | charge (a : Reg)
  | chnset (a : Reg)
  -- local time (R231, R232)
  | lton (a : Reg)
  | ltoff
  | ltclk (d a : Reg)
  | ltchan (a : Reg)
  | ltann
  | ltnull (a : Reg)
  -- duplex streams (R234 to R236)
  | hem (d a b : Reg)
  | playadv (d a b : Reg)
  | frame (d a b : Reg)
  | genadv (d a b : Reg)
  | cmtadv (d a b : Reg)
  | ckpt (d a b : Reg)
  | dpxget (d a b : Reg)
  -- sampling (R237 to R239)
  | smparm (a b : Reg)
  | smpinj (a b : Reg)
  | smpget (d a : Reg)
  -- windows and decode tables (R215, R216)
  | wset (w : BitVec 4) (a : Reg)
  | wget (d : Reg) (w : BitVec 4)
  | dtload (a : Reg) (tblB : Bool)
  -- system (R260)
  | trap (n : BitVec 10)
  | sysc (n : BitVec 10)
  | eret
  | csrr (d : Reg) (csr : BitVec 10)
  | csrw (csr : BitVec 10) (d : Reg)
  | csrset (csr : BitVec 10) (d : Reg)
  | csrclr (csr : BitVec 10) (d : Reg)
  | halt
  | bkpt
  | clfl (a : Reg)
  | clinv
  | xlinv (a : Reg)
  | wfi
  -- hints (R164)
  | hint
  -- 16-bit forms (R148, R190)
  | cMov (x y : Reg)
  | cAddi (x : Reg) (imm : BitVec 6)
  | cLi (x : Reg) (imm : BitVec 6)
  | cAdd (x y : Reg)
  | cSub (x y : Reg)
  | cAnd (x y : Reg)
  | cSlli (x : Reg) (sh : BitVec 6)
  | cLdd (x : Reg) (off : BitVec 6)
  | cStd (x : Reg) (off : BitVec 6)
  | cBeqz (x : Reg) (off : BitVec 6)
  | cBnez (x : Reg) (off : BitVec 6)
  | cJ (off : BitVec 11)
  | cNop
  | cEnd
  | cBkpt
  | cMxwait
  | cRepwait
  | cHint
  -- steps of a core's scheduler, network interface and counter unit
  | taskDispatch (core : Nat)
  | activeMessage (src : MsgSrc)
  | countMessage (src : MsgSrc)
  | codeMessage (src : MsgSrc)
  | dataMessage (src : MsgSrc)
  | systemMessage (src : MsgSrc)
  | eventMessage (src : MsgSrc)
  | clockMessage (src : MsgSrc)
  | sampleMessage (src : MsgSrc)
  | routerSampleCombine (u v : Sender) (slotU copyU slotV copyV : Nat)
  | refusalReceived (u : Sender) (slot copy : Nat)
  | retryTimer (u : Sender) (slot copy : Nat)
  | counterDecrement (i : Nat)
  | downwardFlip (i : Nat)
  | queueAgeing (core q i : Nat)
  | budgetExpiry (core : Nat)
  | balancingRound (core : Nat)
  -- steps of the memory system
  | storeBufferDrain (what : Drain)
  | directoryRequest (core line : Nat) (fill : Bool)
  | remoteWordAccess (i : Nat)
  | lineEviction (core line : Nat)
  | scPresent (core : Nat)
  | scApply (die window : Nat)
  | fittingWalk (core region : Nat) (need : BitVec 4)
  -- steps of the engines
  | matrixEngineStep (core : Nat)
  | brotRotate (core : Nat)
  | groupWatchdog (core : Nat)
  | streamerPiece (job byte : Nat)
  | unpickPresent (i : Nat)
  | unpickReceive (i core : Nat)
  | unpickComplete (i : Nat)
  -- local time
  | automaticRound (core : Nat)
  | eventDispatch (core : Nat)
  | zerolaEntry (core : Nat)
  -- other modules and the host
  | rreadServe (side : RReadSide)
  | hostAccess (fn mpa bytes : Nat) (op : HostOp)
  -- front ends
  | widx (agent : RegAgent) (queue : Nat) (v : BitVec 32)
  | queueErrClear (queue : Nat)
  | walkerStep (die prio : Nat)
  | nop (src : PktSrc)
  | install (src : PktSrc)
  | dispatch (src : PktSrc) (tag : Nat)
  | postPacket (src : PktSrc) (tag : Nat)
  | copy (src : PktSrc) (tag : Nat)
  | signal (src : PktSrc)
  | write (src : PktSrc)
  | stamp (src : PktSrc)
  | uninstall (src : PktSrc)
  | sendkRequest (core slot : Nat)
  | launchTaskSend (part tag : Nat)
  | coreInstall (core : Nat)
  | launchComplete (part tag : Nat)
  -- translation and partitions
  | prqridx (part : Nat) (v : BitVec 32)
  | rpwidx (part : Nat) (v : BitVec 32)
  | kernelReply (core : Nat)
  | xlflush (part : Nat)
  | bookflush (part : Nat)
  | en (part : Nat) (v : Bool)
  | panelRemove (die part panel : Nat)
  | panelAdd (die part panel : Nat)
  | save (part : Nat)
  | restore (part : Nat)
  | sqwidx (die : Nat) (v : BitVec 32)
  | scrubEntry (die : Nat)
  | waydisClear (die : Nat) (ways : BitVec 16)
  | sliceExpiry (die group : Nat)
  | saveTimeout (die group : Nat)
  -- boot and the security block
  | moduleReset
  | romImageCheck
  | recovgo
  | flintStart (d : Nat) (entry : BitVec 12)
  | measExtend (i : BitVec 3)
  | mlock (bits : Byte)
  | fusecmd (field : BitVec 6) (index : BitVec 16)
  | fuselock
  | qgo (blow : BlowResult)
  -- power and clocks
  | railEn (n : Nat) (v : Bool)
  | railPgoodTimeout (n : Nat)
  | railFault (n : Nat)
  | clkstateReq (v : BitVec 2)
  | clockChange
  | powerWindow (estimate : Nat)
  -- training
  | gddrInit (c : Nat) (r : TrainResult)
  | catrain (c : Nat) (r : TrainResult)
  | wckalign (c : Nat) (r : TrainResult)
  | rdtrain (c : Nat) (r : TrainResult)
  | wrtrain (c : Nat) (r : TrainResult)
  | verify (c : Nat) (r : TrainResult)
  | gddrOnline (c : Nat)
  | eqTrain (b : TrainBlock) (r : TrainResult)
  | prbs (b : TrainBlock) (r : TrainResult)
  | deskew (b : TrainBlock) (r : TrainResult)
  | flitlock (b : TrainBlock) (r : TrainResult)
  | linkOnline (b : TrainBlock)
  | trainingDone (b : TrainBlock)
  -- errors
  | errorDetect (u : ErrUnit) (mpa : Nat) (place : Nat) (retryOk : Bool)
  | cacheDirtyLineError (die : Nat) (line : Nat)
  | ownerTagParityError (die : Nat) (line : Nat)
  | panelRetirement (panel : Nat)
  | linkFlitError (l : ErrLink) (retryOk : Bool)
  -- register writes and reports
  | registerWrite (agent : RegAgent) (offset : Nat) (v : DWord)
  | unreachable (m : BitVec 12)
  | domainUnpick (part p : Nat)
  | failureReport (i : Nat)
  | pgood (n : Nat)
deriving DecidableEq, Repr

end Sys2Proof
end

