-- ==== Sys2Proof/WellFormed.lean ====
section
/-! DEFINITION. Which terms of Instr an encoding can produce (R155, R165 to R169), and for a step of another agent which
units exist (R9, R10, R306). -/

namespace Sys2Proof

/-- The code of a vector type in F[25:22]. -/
def VType.code : VType → Nat
  | .i8 => 0 | .i16 => 1 | .i32 => 2 | .i64 => 3 | .f32 => 4 | .f16 => 5 | .bf16 => 6 | .u8 => 7 | .u16 => 8 | .u32 => 9

/-- The floating types. -/
def VType.isFloat : VType → Bool
  | .f32 | .f16 | .bf16 => true
  | _ => false

/-- The signed integer types. -/
def VType.isSigned : VType → Bool
  | .i8 | .i16 | .i32 | .i64 => true
  | _ => false

/-- The op and type pairs of R167. -/
def vecPair (op : Nat) (t : VType) : Bool :=
  if op = 3 ∨ op = 27 ∨ op = 28 ∨ op = 29 ∨ op = 30 then t.isFloat
  else if op = 6 ∨ op = 7 then t.isFloat || t.isSigned
  else if op = 8 ∨ op = 9 ∨ op = 10 ∨ op = 11 ∨ op = 12 then !t.isFloat
  else if op = 13 then t.isSigned
  else if op = 25 ∨ op = 26 then t == .f32
  else true

/-- A core number, the flints' included (R13, R343). -/
def coreOk (n : Nat) : Bool := n < 1048580
/-- A streamer as a unit of the announcement network, by its key past the cores (R113). -/
def streamerUnit (key : Nat) : Nat := 2097152 + key
/-- A core or a streamer: panels' streamers first, then 96 of each die (R10). -/
def unitOk (n : Nat) : Bool := coreOk n || (2097152 ≤ n && n < 2097152 + 16384 + 4 * 96)
/-- A die number (R9). -/
def dieOk (d : Nat) : Bool := d < 4
/-- A partition number (R9). -/
def partOk (p : Nat) : Bool := p < 64

/-- A sending unit that exists (R33). -/
def Sender.ok : Sender → Bool
  | .core n => coreOk n
  | .ni n => coreOk n
  | .frontEnd d => dieOk d
  | .home d => dieOk d

/-- A message has as many payload words as its LEN says (R33). -/
def Msg.ok (m : Msg) : Bool := m.words.length == (m.hdr.extractLsb' 43 3).toNat

/-- A message source that exists. -/
def MsgSrc.ok : MsgSrc → Bool
  | .held u _ _ => u.ok
  | .remote u _ _ _ => u.ok
  | .wire m _ => m.ok

/-- A training block that exists (R358). -/
def TrainBlock.ok : TrainBlock → Bool
  | .gddr c => c < 128
  | .brix d => d < 4
  | .trarum p => p < 18

/-- A link's training block. -/
def TrainBlock.isLink : TrainBlock → Bool
  | .gddr _ => false
  | _ => true

/-- A packet source that exists. -/
def PktSrc.ok : PktSrc → Bool
  | .ring d p => dieOk d && p < 4
  | .device d p => dieOk d && partOk p

/-- A register agent that exists. -/
def RegAgent.ok : RegAgent → Bool
  | .pf => true
  | .vf n => partOk n
  | .mgmt => true
  | .flint d => dieOk d

/-- The well-formed instructions: those that some encoding decodes to, and the steps of units that exist. -/
def wellFormed : Instr → Bool
  | .st _ _ sz _ => !(sz == 4 || sz == 5 || sz == 6)
  | .stna _ _ sz _ => !(sz == 4 || sz == 5 || sz == 6)
  | .repb d _ b => (16 ≤ d.toNat && d.toNat ≤ 23) && (1 ≤ b.toNat && b.toNat ≤ 8)
  | .vfma t _ _ _ => vecPair 3 t
  | .vabs t _ _ => vecPair 6 t
  | .vneg t _ _ => vecPair 7 t
  | .vand t _ _ _ => vecPair 8 t
  | .vor t _ _ _ => vecPair 9 t
  | .vxor t _ _ _ => vecPair 10 t
  | .vshl t _ _ _ => vecPair 11 t
  | .vshr t _ _ _ => vecPair 12 t
  | .vsra t _ _ _ => vecPair 13 t
  | .vcvt t src _ _ => t != src
  | .vrcp t _ _ => vecPair 27 t
  | .vrsq t _ _ => vecPair 28 t
  | .vexp2 t _ _ => vecPair 29 t
  | .vlog2 t _ _ => vecPair 30 t
  | .taskDispatch n => coreOk n
  | .activeMessage m => m.ok
  | .countMessage m => m.ok
  | .codeMessage m => m.ok
  | .dataMessage m => m.ok
  | .systemMessage m => m.ok
  | .eventMessage m => m.ok
  | .clockMessage m => m.ok
  | .sampleMessage m => m.ok
  | .routerSampleCombine u v _ _ _ _ => u.ok && v.ok
  | .refusalReceived u _ _ => u.ok
  | .retryTimer u _ _ => u.ok
  | .queueAgeing n q _ => coreOk n && q < 4
  | .budgetExpiry n => coreOk n
  | .balancingRound n => coreOk n
  | .storeBufferDrain (.leave n) => coreOk n
  | .directoryRequest n _ _ => coreOk n
  | .lineEviction n _ => coreOk n
  | .scPresent n => coreOk n
  | .scApply d _ => dieOk d
  | .fittingWalk n r _ => coreOk n && r < 1024
  | .matrixEngineStep n => coreOk n
  | .brotRotate n => coreOk n
  | .groupWatchdog n => coreOk n
  | .unpickReceive _ n => unitOk n
  | .automaticRound n => coreOk n
  | .eventDispatch n => coreOk n
  | .zerolaEntry n => coreOk n
  | .rreadServe (.answer n _) => coreOk n
  | .rreadServe (.request p _ r _ _ _) => partOk p && r < 1024
  | .hostAccess fn _ bytes _ => fn < 65 && (bytes == 1 || bytes == 2 || bytes == 4 || bytes == 8 || bytes == 16)
  | .widx ag q _ => ag.ok && q < 8192
  | .queueErrClear q => q < 8192
  | .walkerStep d p => dieOk d && p < 4
  | .nop s => s.ok
  | .install s => s.ok
  | .dispatch s _ => s.ok
  | .postPacket s _ => s.ok
  | .copy s _ => s.ok
  | .signal s => s.ok
  | .write s => s.ok
  | .stamp s => s.ok
  | .uninstall s => s.ok
  | .sendkRequest n _ => coreOk n
  | .launchTaskSend p _ => partOk p
  | .coreInstall n => coreOk n
  | .launchComplete p _ => partOk p
  | .prqridx p _ => partOk p
  | .rpwidx p _ => partOk p
  | .kernelReply n => coreOk n
  | .xlflush p => partOk p
  | .bookflush p => partOk p
  | .en p _ => partOk p
  | .panelRemove d p pan => dieOk d && partOk p && pan < 4096
  | .panelAdd d p pan => dieOk d && partOk p && pan < 4096
  | .save p => partOk p
  | .restore p => partOk p
  | .sqwidx d _ => dieOk d
  | .scrubEntry d => dieOk d
  | .waydisClear d _ => dieOk d
  | .sliceExpiry d g => dieOk d && g < 16
  | .saveTimeout d g => dieOk d && g < 16
  | .flintStart d _ => 1 ≤ d && d < 4
  | .railEn n _ => n < 9
  | .railPgoodTimeout n => n < 9
  | .railFault n => n < 9
  | .pgood n => n < 9
  | .gddrInit c _ => c < 128
  | .catrain c _ => c < 128
  | .wckalign c _ => c < 128
  | .rdtrain c _ => c < 128
  | .wrtrain c _ => c < 128
  | .verify c _ => c < 128
  | .gddrOnline c => c < 128
  | .eqTrain b _ => b.ok && b.isLink
  | .prbs b _ => b.ok && b.isLink
  | .deskew b _ => b.ok && b.isLink
  | .flitlock b _ => b.ok && b.isLink
  | .linkOnline b => b.ok && b.isLink
  | .trainingDone b => b.ok
  | .cacheDirtyLineError d _ => dieOk d
  | .ownerTagParityError d _ => dieOk d
  | .panelRetirement p => p < 16384
  | .linkFlitError (.trarum p) _ => p < 18
  | .registerWrite ag _ _ => ag.ok
  | .domainUnpick p _ => partOk p
  | _ => true

end Sys2Proof
end

