-- ==== Sys2Proof/Decode.lean ====
section
/-! DEFINITION. The decoder, total on any bits, and the encoder (R144 to R148, R162 to R170). A word is read as a natural
number whose bit 0 is the least significant bit of its first parcel. -/

namespace Sys2Proof

/-- Why a word is no instruction: each is a step of R162, and the machine takes ILLEGAL for every one. -/
inductive Reject where
  /-- fewer bytes than the instruction has -/
  | short
  /-- a major opcode marked reserved (R163) -/
  | reserved (major : Nat)
  /-- an undefined selector value (R166 to R170) -/
  | selector (major : Nat)
  /-- an undefined value in a checked field (R155, R165 to R169) -/
  | field (major : Nat)
  /-- an undefined 16-bit pattern (R170) -/
  | parcel (op : Nat)
deriving DecidableEq, Repr

/-- Bits [lo+n−1:lo] of a word (R3). -/
def fld (w lo n : Nat) : Nat := w / 2 ^ lo % 2 ^ n

/-- The 5-bit register number at bit `lo`. [log 104 DESIGN CHOICE] -/
def regAt (w lo : Nat) : Reg := BitVec.ofNat 5 (fld w lo 5)

/-- The scope a scope field names; 5 to 7 name none (R166). -/
def scopeOf (n : Nat) : Option Scope :=
  match n with
  | 0 => some .core | 1 => some .panel | 2 => some .die | 3 => some .mod | 4 => some .sys
  | _ => none

/-- The code of a scope. -/
def Scope.code : Scope → Nat
  | .core => 0 | .panel => 1 | .die => 2 | .mod => 3 | .sys => 4

/-- The order an order field names (R166). -/
def orderOf (n : Nat) : AmoOrder :=
  match n with
  | 0 => .rlx | 1 => .acq | 2 => .rel
  | _ => .acqrel

/-- The code of an order. -/
def AmoOrder.code : AmoOrder → Nat
  | .rlx => 0 | .acq => 1 | .rel => 2 | .acqrel => 3

/-- The vector type a type field names; 10 to 15 name none. -/
def vtypeOf (n : Nat) : Option VType :=
  match n with
  | 0 => some .i8 | 1 => some .i16 | 2 => some .i32 | 3 => some .i64 | 4 => some .f32 | 5 => some .f16
  | 6 => some .bf16 | 7 => some .u8 | 8 => some .u16 | 9 => some .u32
  | _ => none

/-- The addend format of R169. -/
def accFmtOf (n : Nat) : Option AccFmt :=
  match n with
  | 0 => some .fp32 | 1 => some .e8m10 | 2 => some .bf16 | 3 => some .int32 | 4 => some .int64
  | _ => none

/-- The code of an addend format. -/
def AccFmt.code : AccFmt → Nat
  | .fp32 => 0 | .e8m10 => 1 | .bf16 => 2 | .int32 => 3 | .int64 => 4

/-- The target of R169. -/
def accTargetOf (n : Nat) : Option AccTarget :=
  match n with
  | 0 => some .fp32 | 1 => some .bf16 | 2 => some .fp16 | 3 => some .e8m10 | 4 => some .int32 | 5 => some .tbla
  | 6 => some .tblb
  | _ => none

/-- The code of a target. -/
def AccTarget.code : AccTarget → Nat
  | .fp32 => 0 | .bf16 => 1 | .fp16 => 2 | .e8m10 => 3 | .int32 => 4 | .tbla => 5 | .tblb => 6

/-- The rounding mode of A[17:16] (R169) and of RMODE (R125). -/
def modeOf (n : Nat) : RMode :=
  match n with
  | 0 => .rne | 1 => .rtz | 2 => .rup
  | _ => .rdn

/-- The code of a rounding mode. -/
def RMode.code : RMode → Nat
  | .rne => 0 | .rtz => 1 | .rup => 2 | .rdn => 3

/-- ALU, major 1 (R166, R174). -/
def decodeAlu (f : Nat) (d a b : Reg) : Except Reject Instr :=
  match f with
  | 0 => .ok (.add d a b)
  | 1 => .ok (.sub d a b)
  | 2 => .ok (.and d a b)
  | 3 => .ok (.or d a b)
  | 4 => .ok (.xor d a b)
  | 5 => .ok (.andn d a b)
  | 6 => .ok (.sll d a b)
  | 7 => .ok (.srl d a b)
  | 8 => .ok (.sra d a b)
  | 9 => .ok (.rol d a b)
  | 10 => .ok (.slt d a b)
  | 11 => .ok (.sltu d a b)
  | 12 => .ok (.min d a b)
  | 13 => .ok (.max d a b)
  | 14 => .ok (.minu d a b)
  | 15 => .ok (.maxu d a b)
  | 16 => .ok (.mul d a b)
  | 17 => .ok (.mulh d a b)
  | 18 => .ok (.mulhu d a b)
  | 19 => .ok (.div d a b)
  | 20 => .ok (.divu d a b)
  | 21 => .ok (.rem d a b)
  | 22 => .ok (.remu d a b)
  | 23 => .ok (.clz d a)
  | 24 => .ok (.ctz d a)
  | 25 => .ok (.popc d a)
  | 26 => .ok (.sel d a b)
  | 27 => .ok (.mix d a)
  | _ => .error (.selector 1)

/-- SYS, major 0: F selects, [21:12] is the CSR number or the code (R166). -/
def decodeSys (f : Nat) (d a : Reg) (n : BitVec 10) : Except Reject Instr :=
  match f with
  | 0 => .ok (.trap n)
  | 1 => .ok (.sysc n)
  | 2 => .ok .eret
  | 3 => .ok (.csrr d n)
  | 4 => .ok (.csrw n d)
  | 5 => .ok (.csrset n d)
  | 6 => .ok (.csrclr n d)
  | 7 => .ok .halt
  | 8 => .ok .bkpt
  | 9 => .ok (.clfl a)
  | 10 => .ok .clinv
  | 11 => .ok (.xlinv a)
  | 12 => .ok .wfi
  | _ => .error (.selector 0)

/-- SHFI, major 6 (R177). -/
def decodeShfi (sub : Nat) (d a : Reg) (sh : BitVec 6) : Except Reject Instr :=
  match sub with
  | 0 => .ok (.slli d a sh)
  | 1 => .ok (.srli d a sh)
  | 2 => .ok (.srai d a sh)
  | 3 => .ok (.roli d a sh)
  | _ => .error (.selector 6)

/-- AMO, major 15 (R166, R198). -/
def decodeAmo (op scope order size : Nat) (d a b : Reg) : Except Reject Instr :=
  match scopeOf scope with
  | none => if op < 10 then .error (.field 15) else .error (.selector 15)
  | some sc =>
    let o := orderOf order
    let dw := size == 1
    match op with
    | 0 => .ok (.amoadd d a b sc o dw)
    | 1 => .ok (.amoand d a b sc o dw)
    | 2 => .ok (.amoor d a b sc o dw)
    | 3 => .ok (.amoxor d a b sc o dw)
    | 4 => .ok (.amomin d a b sc o dw)
    | 5 => .ok (.amomax d a b sc o dw)
    | 6 => .ok (.amominu d a b sc o dw)
    | 7 => .ok (.amomaxu d a b sc o dw)
    | 8 => .ok (.amoswp d a b sc o dw)
    | 9 => .ok (.amocas d a b sc o dw)
    | _ => .error (.selector 15)

/-- SCOP, major 16 (R201). -/
def decodeScop (f : Nat) (d a b : Reg) : Except Reject Instr :=
  match f with
  | 0 => .ok (.scld d a)
  | 1 => .ok (.scst a b)
  | 2 => .ok (.scswp d a b)
  | 3 => .ok (.scadd d a b)
  | _ => .error (.selector 16)

/-- FENCE, major 17: the scope is ignored for kinds 0 and 4 (R166, R202). -/
def decodeFence (kind scope : Nat) : Except Reject Instr :=
  match kind with
  | 0 => .ok .fenceSl
  | 1 => match scopeOf scope with
    | some s => .ok (.fenceAcq s)
    | none => .error (.field 17)
  | 2 => match scopeOf scope with
    | some s => .ok (.fenceRel s)
    | none => .error (.field 17)
  | 3 => match scopeOf scope with
    | some s => .ok (.fenceAr s)
    | none => .error (.field 17)
  | 4 => .ok .fenceEng
  | _ => .error (.selector 17)

/-- CAP, major 27 (R166). -/
def decodeCap (f : Nat) (d a b : Reg) : Except Reject Instr :=
  match f with
  | 0 => .ok (.cgetbase d a)
  | 1 => .ok (.cgetlen d a)
  | 2 => .ok (.cgetperm d a)
  | 3 => .ok (.cgettype d a)
  | 4 => .ok (.cgetreg d a)
  | 5 => .ok (.cgettag d a)
  | 6 => .ok (.csetaddr d a b)
  | 7 => .ok (.cinc d a b)
  | 8 => .ok (.csetbnd d a b)
  | 9 => .ok (.candperm d a b)
  | 10 => .ok (.cseal d a b)
  | 11 => .ok (.cunseal d a b)
  | 12 => .ok (.cmov d a)
  | 13 => .ok (.ctestsub d a b)
  | 14 => .ok (.cclrtag d a)
  | _ => .error (.selector 27)

/-- MSG, major 30 (R166, R219). -/
def decodeMsg (f : Nat) (d a b : Reg) : Except Reject Instr :=
  match f with
  | 0 => .ok (.send a b)
  | 1 => .ok (.sendc d a b)
  | 2 => .ok (.sendk a b)
  | 3 => .ok (.sendd a b)
  | 4 => .ok (.post d a b)
  | 5 => .ok (.mcast d a b)
  | 6 => .ok (.rread d a b)
  | 7 => .ok (.sende a b)
  | 8 => .ok .endTask
  | 9 => .ok .abort
  | _ => .error (.selector 30)

/-- CTR, major 31: F[24:22] selects, F[30:25] is the counter (R146). -/
def decodeCtr (f : Nat) (k : BitVec 6) (d a b : Reg) : Except Reject Instr :=
  match f with
  | 0 => .ok (.ctrset k a)
  | 1 => .ok (.ctrdec k a)
  | 2 => .ok (.ctradd k a)
  | 3 => .ok (.ctrget k d)
  | 4 => .ok (.arrive k a b)
  | 5 => .ok (.barlink k a)
  | 6 => .ok (.ctrclr k)
  | _ => .error (.selector 31)

/-- STRM, major 32 (R203 to R209). -/
def decodeStrm (f : Nat) (d a b : Reg) : Except Reject Instr :=
  match f with
  | 0 => .ok (.sbind d a b)
  | 1 => .ok (.qbind d (b.extractLsb' 0 2) (b.getLsbD 2))
  | 2 => .ok (.lbind d (b.getLsbD 0) (b.getLsbD 1))
  | 3 => .ok (.unbind d)
  | 4 => .ok (.bstat d a)
  | _ => .error (.selector 32)

/-- REP, major 33: F[24:22] selects; REPB's D is 16 to 23 and its B 1 to 8 (R155). -/
def decodeRep (f : Nat) (d a b : Reg) : Except Reject Instr :=
  match f with
  | 0 => if (16 ≤ d.toNat && d.toNat ≤ 23) && (1 ≤ b.toNat && b.toNat ≤ 8) then .ok (.repb d a b)
         else .error (.field 33)
  | 1 => .ok .repe
  | 2 => .ok .repwait
  | _ => .error (.selector 33)

/-- The vector instruction of an op and a type, both defined, whatever the pair (R166). -/
def vecInstr (op : Nat) (t : VType) (d a b : Reg) : Except Reject Instr :=
  match op with
  | 0 => .ok (.vadd t d a b)
  | 1 => .ok (.vsub t d a b)
  | 2 => .ok (.vmul t d a b)
  | 3 => .ok (.vfma t d a b)
  | 4 => .ok (.vmin t d a b)
  | 5 => .ok (.vmax t d a b)
  | 6 => .ok (.vabs t d a)
  | 7 => .ok (.vneg t d a)
  | 8 => .ok (.vand t d a b)
  | 9 => .ok (.vor t d a b)
  | 10 => .ok (.vxor t d a b)
  | 11 => .ok (.vshl t d a b)
  | 12 => .ok (.vshr t d a b)
  | 13 => .ok (.vsra t d a b)
  | 14 => .ok (.vceq t d a b)
  | 15 => .ok (.vclt t d a b)
  | 16 => .ok (.vcle t d a b)
  | 17 => .ok (.vsel t d a b)
  | 18 => .ok (.vsplat t d a)
  | 19 => .ok (.vext t d a b)
  | 20 => .ok (.vins t d a b)
  | 21 => .ok (.vshuf t d a b)
  | 22 => .ok (.vrsum t d a)
  | 23 => .ok (.vrmax t d a)
  | 24 => match vtypeOf (b.toNat % 16) with
    | some src => if t = src then .error (.field 34) else .ok (.vcvt t src d a)
    | none => .error (.field 34)
  | 25 => .ok (.vdec d a (b.getLsbD 0))
  | 26 => .ok (.venc d a (b.getLsbD 0))
  | 27 => .ok (.vrcp t d a)
  | 28 => .ok (.vrsq t d a)
  | 29 => .ok (.vexp2 t d a)
  | 30 => .ok (.vlog2 t d a)
  | 31 => .ok (.vimax t d a)
  | _ => .error (.selector 34)

/-- VEC, major 34 (R166 to R168). -/
def decodeVec (op ty : Nat) (d a b : Reg) : Except Reject Instr :=
  match vtypeOf ty with
  | none => .error (.selector 34)
  | some t => if op < 32 ∧ vecPair op t = false then .error (.selector 34) else vecInstr op t d a b

/-- MXE, major 35, format W (R145, R166). -/
def decodeMxe (sub : Nat) (d : Reg) (wa wc : BitVec 4) (a : Reg) (ks : BitVec 3) : Except Reject Instr :=
  match sub with
  | 0 => .ok (.mma d wa wc a ks)
  | 1 => .ok (.bload wa a ks)
  | 2 => .ok .brot
  | 3 => .ok .mxwait
  | 4 => .ok .mxspill
  | 5 => .ok (.mxwt a)
  | _ => .error (.selector 35)

/-- ACC, major 36, format X (R145, R169). -/
def decodeAcc (sub x : Nat) (d : Reg) (w : BitVec 4) (a b : Reg) : Except Reject Instr :=
  match sub with
  | 0 => .ok (.accclr w a b)
  | 1 => match accFmtOf x with
    | some fm => .ok (.accadd w a b fm)
    | none => .error (.field 36)
  | 2 => match accFmtOf x with
    | some fm => .ok (.accaddv w a b fm)
    | none => .error (.field 36)
  | 3 => .ok (.accfma w d a b)
  | 4 => .ok (.acccmb w a b)
  | 5 => match accTargetOf x with
    | some tg => .ok (.accrnd d w b tg (modeOf (a.toNat % 4)))
    | none => .error (.field 36)
  | 6 => .ok (.accst w a b)
  | _ => .error (.selector 36)

/-- ENG, major 37: F[25:22] selects, F[27:26] is the channel (R166). -/
def decodeEng (f : Nat) (ch : BitVec 2) (d a b : Reg) : Except Reject Instr :=
  match f with
  | 0 => .ok (.cpy d a b ch)
  | 1 => .ok (.gather d a b ch)
  | 2 => .ok (.scatter d a b ch)
  | 3 => .ok (.fill d a b ch)
  | 4 => .ok (.wmset ch a b)
  | 5 => .ok (.wmget d ch)
  | _ => .error (.selector 37)

/-- CHN, major 38 (R166). -/
def decodeChn (f : Nat) (d a : Reg) : Except Reject Instr :=
  match f with
  | 0 => .ok (.adopt d a)
  | 1 => .ok (.shed d)
  | 2 => .ok (.chnget d a)
  | 3 => .ok (.fit d a)
  | 4 => .ok (.unpick d a)
  | 5 => .ok (.charge a)
  | 6 => .ok (.chnset a)
  | _ => .error (.selector 38)

/-- LTM, major 39 (R166). -/
def decodeLtm (f : Nat) (d a : Reg) : Except Reject Instr :=
  match f with
  | 0 => .ok (.lton a)
  | 1 => .ok .ltoff
  | 2 => .ok (.ltclk d a)
  | 3 => .ok (.ltchan a)
  | 4 => .ok .ltann
  | 5 => .ok (.ltnull a)
  | _ => .error (.selector 39)

/-- DPX, major 40 (R166). -/
def decodeDpx (f : Nat) (d a b : Reg) : Except Reject Instr :=
  match f with
  | 0 => .ok (.hem d a b)
  | 1 => .ok (.playadv d a b)
  | 2 => .ok (.frame d a b)
  | 3 => .ok (.genadv d a b)
  | 4 => .ok (.cmtadv d a b)
  | 5 => .ok (.ckpt d a b)
  | 6 => .ok (.dpxget d a b)
  | _ => .error (.selector 40)

/-- SMP, major 41 (R166). -/
def decodeSmp (f : Nat) (d a b : Reg) : Except Reject Instr :=
  match f with
  | 0 => .ok (.smparm a b)
  | 1 => .ok (.smpinj a b)
  | 2 => .ok (.smpget d a)
  | _ => .error (.selector 41)

/-- WIN, major 42: WSET's window is D[10:7], WGET's A[15:12], DTLOAD's table B[17] (R215, R216). -/
def decodeWin (f : Nat) (d a b : Reg) : Except Reject Instr :=
  match f with
  | 0 => .ok (.wset (d.extractLsb' 0 4) a)
  | 1 => .ok (.wget d (a.extractLsb' 0 4))
  | 2 => .ok (.dtload a (b.getLsbD 0))
  | _ => .error (.selector 42)

/-- A 32-bit instruction (R145, R162 steps 2 to 4, R163). -/
def decode32 (w : Nat) : Except Reject Instr :=
  let m := fld w 1 6
  let d := regAt w 7
  let a := regAt w 12
  let b := regAt w 17
  let i15 := BitVec.ofNat 15 (fld w 17 15)
  let i12 := BitVec.ofNat 12 (fld w 20 12)
  let i20 := BitVec.ofNat 20 (fld w 12 20)
  let sz := BitVec.ofNat 3 (fld w 17 3)
  if m = 0 then decodeSys (fld w 22 10) d a (BitVec.ofNat 10 (fld w 12 10))
  else if m = 1 then decodeAlu (fld w 22 10) d a b
  else if m = 2 then .ok (.addi d a i15)
  else if m = 3 then .ok (.andi d a i15)
  else if m = 4 then .ok (.ori d a i15)
  else if m = 5 then .ok (.xori d a i15)
  else if m = 6 then decodeShfi (fld w 29 3) d a (BitVec.ofNat 6 (fld w 17 6))
  else if m = 7 then .ok (.slti d a i15)
  else if m = 8 then .ok (.sltiu d a i15)
  else if m = 9 then .ok (.li d i20)
  else if m = 10 then .ok (.lis d i20)
  else if m = 11 then .ok (.ld d a sz i12)
  else if m = 12 then .ok (.ldna d a sz i12)
  else if m = 13 then
    if sz == 4 || sz == 5 || sz == 6 then .error (.field 13) else .ok (.st d a sz i12)
  else if m = 14 then
    if sz == 4 || sz == 5 || sz == 6 then .error (.field 14) else .ok (.stna d a sz i12)
  else if m = 15 then decodeAmo (fld w 22 4) (fld w 26 3) (fld w 29 2) (fld w 31 1) d a b
  else if m = 16 then decodeScop (fld w 22 10) d a b
  else if m = 17 then decodeFence (fld w 22 4) (fld w 26 3)
  else if m = 18 then .ok (.beq d a i15)
  else if m = 19 then .ok (.bne d a i15)
  else if m = 20 then .ok (.blt d a i15)
  else if m = 21 then .ok (.bge d a i15)
  else if m = 22 then .ok (.bltu d a i15)
  else if m = 23 then .ok (.bgeu d a i15)
  else if m = 24 then .ok (.jal d i20)
  else if m = 25 then .ok (.jalr d a i15)
  else if m = 26 then .ok (.loop a i15)
  else if m = 27 then decodeCap (fld w 22 10) d a b
  else if m = 28 then .ok (.cinci d a i15)
  else if m = 29 then .ok (.csetbi d a i15)
  else if m = 30 then decodeMsg (fld w 22 4) d a b
  else if m = 31 then decodeCtr (fld w 22 3) (BitVec.ofNat 6 (fld w 25 6)) d a b
  else if m = 32 then decodeStrm (fld w 22 10) d a b
  else if m = 33 then decodeRep (fld w 22 3) d a b
  else if m = 34 then decodeVec (fld w 26 6) (fld w 22 4) d a b
  else if m = 35 then
    decodeMxe (fld w 28 4) d (BitVec.ofNat 4 (fld w 12 4)) (BitVec.ofNat 4 (fld w 16 4)) (regAt w 20)
      (BitVec.ofNat 3 (fld w 25 3))
  else if m = 36 then
    decodeAcc (fld w 29 3) (fld w 26 3) d (BitVec.ofNat 4 (fld w 12 4)) (regAt w 16) (regAt w 21)
  else if m = 37 then decodeEng (fld w 22 4) (BitVec.ofNat 2 (fld w 26 2)) d a b
  else if m = 38 then decodeChn (fld w 22 10) d a
  else if m = 39 then decodeLtm (fld w 22 10) d a
  else if m = 40 then decodeDpx (fld w 22 10) d a b
  else if m = 41 then decodeSmp (fld w 22 10) d a b
  else if m = 42 then decodeWin (fld w 22 10) d a b
  else if 48 ≤ m ∧ m ≤ 55 then .ok .hint
  else .error (.reserved m)

/-- C.MISC, OP 12 (R170). -/
def decodeMisc (x : Nat) : Except Reject Instr :=
  match x with
  | 0 => .ok .cNop
  | 1 => .ok .cEnd
  | 2 => .ok .cBkpt
  | 3 => .ok .cMxwait
  | 4 => .ok .cRepwait
  | _ => .error (.parcel 12)

/-- A 16-bit instruction (R148, R170). -/
def decode16 (w : Nat) : Except Reject Instr :=
  let x := regAt w 5
  let y := regAt w 10
  let y6 := BitVec.ofNat 6 (fld w 10 6)
  match fld w 1 4 with
  | 0 => if w % 65536 = 0 then .error (.parcel 0) else .ok (.cMov x y)
  | 1 => .ok (.cAddi x y6)
  | 2 => .ok (.cLi x y6)
  | 3 => .ok (.cAdd x y)
  | 4 => .ok (.cSub x y)
  | 5 => .ok (.cAnd x y)
  | 6 => .ok (.cSlli x y6)
  | 7 => .ok (.cLdd x y6)
  | 8 => .ok (.cStd x y6)
  | 9 => .ok (.cBeqz x y6)
  | 10 => .ok (.cBnez x y6)
  | 11 => .ok (.cJ (BitVec.ofNat 11 (fld w 5 11)))
  | 12 => decodeMisc (fld w 5 5)
  | 13 => .ok .cHint
  | n => .error (.parcel n)

/-- The length of an instruction in parcels, from its first parcel (R144). -/
def parcels (w : Nat) : Nat := if w % 2 = 0 then 1 else 2

/-- The instruction a word holds, by the length its first parcel gives it. -/
def decodeWord (w : Nat) : Except Reject Instr :=
  if w % 2 = 0 then decode16 w else decode32 w

/-- The word of a list of bytes, the first at the lowest address (R4). -/
def wordOfBytes : List Byte → Nat
  | [] => 0
  | b :: bs => b.toNat + 256 * wordOfBytes bs

/-- The bytes of a word, `n` of them, the first at the lowest address (R4). -/
def bytesOfWord : Nat → Nat → List Byte
  | 0, _ => []
  | n + 1, w => BitVec.ofNat 8 (w % 256) :: bytesOfWord n (w / 256)

/-- The instruction at the front of a list of bytes, and the bytes after it. [log 48 DEDUCED] -/
def decode (bs : List Byte) : Except Reject (Instr × List Byte) :=
  match bs with
  | b0 :: b1 :: rest =>
    let p0 := wordOfBytes [b0, b1]
    if p0 % 2 = 0 then
      match decode16 p0 with
      | .ok i => .ok (i, rest)
      | .error e => .error e
    else
      match rest with
      | b2 :: b3 :: rest' =>
        match decode32 (wordOfBytes [b0, b1, b2, b3]) with
        | .ok i => .ok (i, rest')
        | .error e => .error e
      | _ => .error .short
  | _ => .error .short

/-- The instruction of a row's word, its bits above `nbits` zero up to the longest instruction. -/
def decodeTableWord (nbits w : Nat) : Option Instr :=
  match decode (bytesOfWord 4 (w % 2 ^ nbits)) with
  | .ok (i, _) => some i
  | .error _ => none

/-- Format R (R145). -/
def encR (major f : Nat) (d a b : Reg) : Nat :=
  1 + 2 * major + 2 ^ 7 * d.toNat + 2 ^ 12 * a.toNat + 2 ^ 17 * b.toNat + 2 ^ 22 * f

/-- Format I, with B's place taken by the immediate (R145); format B is the same layout. -/
def encI (major : Nat) (d a : Reg) (imm : Nat) : Nat :=
  1 + 2 * major + 2 ^ 7 * d.toNat + 2 ^ 12 * a.toNat + 2 ^ 17 * imm

/-- Formats L and S (R145). -/
def encL (major : Nat) (d a : Reg) (sz : BitVec 3) (imm : BitVec 12) : Nat :=
  1 + 2 * major + 2 ^ 7 * d.toNat + 2 ^ 12 * a.toNat + 2 ^ 17 * sz.toNat + 2 ^ 20 * imm.toNat

/-- Formats U and J (R145). -/
def encU (major : Nat) (d : Reg) (imm : BitVec 20) : Nat :=
  1 + 2 * major + 2 ^ 7 * d.toNat + 2 ^ 12 * imm.toNat

/-- Format W (R145). -/
def encW (sub : Nat) (d : Reg) (wa wc : BitVec 4) (a : Reg) (ks : BitVec 3) : Nat :=
  1 + 2 * 35 + 2 ^ 7 * d.toNat + 2 ^ 12 * wa.toNat + 2 ^ 16 * wc.toNat + 2 ^ 20 * a.toNat + 2 ^ 25 * ks.toNat
    + 2 ^ 28 * sub

/-- Format X (R145). -/
def encX (sub x : Nat) (d : Reg) (w : BitVec 4) (a b : Reg) : Nat :=
  1 + 2 * 36 + 2 ^ 7 * d.toNat + 2 ^ 12 * w.toNat + 2 ^ 16 * a.toNat + 2 ^ 21 * b.toNat + 2 ^ 26 * x + 2 ^ 29 * sub

/-- SYS with a CSR number or a code (R166). -/
def encSys (f : Nat) (d : Reg) (n : BitVec 10) : Nat :=
  1 + 2 ^ 7 * d.toNat + 2 ^ 12 * n.toNat + 2 ^ 22 * f

/-- The 16-bit forms with X and Y (R148). -/
def encC (op : Nat) (x : Reg) (y : Nat) : Nat := 2 * op + 2 ^ 5 * x.toNat + 2 ^ 10 * y

/-- An AMO's F field (R166). -/
def amoF (op : Nat) (sc : Scope) (o : AmoOrder) (dw : Bool) : Nat :=
  op + 2 ^ 4 * sc.code + 2 ^ 7 * o.code + 2 ^ 9 * (if dw then 1 else 0)

/-- A VEC F field (R166). -/
def vecF (op : Nat) (t : VType) : Nat := t.code + 2 ^ 4 * op

/-- The bit of a flag. -/
def flagBit (b : Bool) : Nat := if b then 1 else 0

/-- The word of an instruction, with its length in bits; a step of another agent has none. [log 48 DEDUCED] -/
def encode : Instr → Option (Nat × Nat)
  | .add d a b => some (32, encR 1 0 d a b)
  | .sub d a b => some (32, encR 1 1 d a b)
  | .and d a b => some (32, encR 1 2 d a b)
  | .or d a b => some (32, encR 1 3 d a b)
  | .xor d a b => some (32, encR 1 4 d a b)
  | .andn d a b => some (32, encR 1 5 d a b)
  | .sll d a b => some (32, encR 1 6 d a b)
  | .srl d a b => some (32, encR 1 7 d a b)
  | .sra d a b => some (32, encR 1 8 d a b)
  | .rol d a b => some (32, encR 1 9 d a b)
  | .slt d a b => some (32, encR 1 10 d a b)
  | .sltu d a b => some (32, encR 1 11 d a b)
  | .min d a b => some (32, encR 1 12 d a b)
  | .max d a b => some (32, encR 1 13 d a b)
  | .minu d a b => some (32, encR 1 14 d a b)
  | .maxu d a b => some (32, encR 1 15 d a b)
  | .mul d a b => some (32, encR 1 16 d a b)
  | .mulh d a b => some (32, encR 1 17 d a b)
  | .mulhu d a b => some (32, encR 1 18 d a b)
  | .div d a b => some (32, encR 1 19 d a b)
  | .divu d a b => some (32, encR 1 20 d a b)
  | .rem d a b => some (32, encR 1 21 d a b)
  | .remu d a b => some (32, encR 1 22 d a b)
  | .clz d a => some (32, encR 1 23 d a 0)
  | .ctz d a => some (32, encR 1 24 d a 0)
  | .popc d a => some (32, encR 1 25 d a 0)
  | .sel d a b => some (32, encR 1 26 d a b)
  | .mix d a => some (32, encR 1 27 d a 0)
  | .addi d a i => some (32, encI 2 d a i.toNat)
  | .andi d a i => some (32, encI 3 d a i.toNat)
  | .ori d a i => some (32, encI 4 d a i.toNat)
  | .xori d a i => some (32, encI 5 d a i.toNat)
  | .slli d a sh => some (32, encI 6 d a (sh.toNat + 2 ^ 12 * 0))
  | .srli d a sh => some (32, encI 6 d a (sh.toNat + 2 ^ 12 * 1))
  | .srai d a sh => some (32, encI 6 d a (sh.toNat + 2 ^ 12 * 2))
  | .roli d a sh => some (32, encI 6 d a (sh.toNat + 2 ^ 12 * 3))
  | .slti d a i => some (32, encI 7 d a i.toNat)
  | .sltiu d a i => some (32, encI 8 d a i.toNat)
  | .li d i => some (32, encU 9 d i)
  | .lis d i => some (32, encU 10 d i)
  | .ld d a sz i => some (32, encL 11 d a sz i)
  | .ldna d a sz i => some (32, encL 12 d a sz i)
  | .st b a sz i => some (32, encL 13 b a sz i)
  | .stna b a sz i => some (32, encL 14 b a sz i)
  | .amoadd d a b s o w => some (32, encR 15 (amoF 0 s o w) d a b)
  | .amoand d a b s o w => some (32, encR 15 (amoF 1 s o w) d a b)
  | .amoor d a b s o w => some (32, encR 15 (amoF 2 s o w) d a b)
  | .amoxor d a b s o w => some (32, encR 15 (amoF 3 s o w) d a b)
  | .amomin d a b s o w => some (32, encR 15 (amoF 4 s o w) d a b)
  | .amomax d a b s o w => some (32, encR 15 (amoF 5 s o w) d a b)
  | .amominu d a b s o w => some (32, encR 15 (amoF 6 s o w) d a b)
  | .amomaxu d a b s o w => some (32, encR 15 (amoF 7 s o w) d a b)
  | .amoswp d a b s o w => some (32, encR 15 (amoF 8 s o w) d a b)
  | .amocas d a b s o w => some (32, encR 15 (amoF 9 s o w) d a b)
  | .scld d a => some (32, encR 16 0 d a 0)
  | .scst a b => some (32, encR 16 1 0 a b)
  | .scswp d a b => some (32, encR 16 2 d a b)
  | .scadd d a b => some (32, encR 16 3 d a b)
  | .fenceSl => some (32, encR 17 0 0 0 0)
  | .fenceAcq s => some (32, encR 17 (1 + 2 ^ 4 * s.code) 0 0 0)
  | .fenceRel s => some (32, encR 17 (2 + 2 ^ 4 * s.code) 0 0 0)
  | .fenceAr s => some (32, encR 17 (3 + 2 ^ 4 * s.code) 0 0 0)
  | .fenceEng => some (32, encR 17 4 0 0 0)
  | .beq a b o => some (32, encI 18 a b o.toNat)
  | .bne a b o => some (32, encI 19 a b o.toNat)
  | .blt a b o => some (32, encI 20 a b o.toNat)
  | .bge a b o => some (32, encI 21 a b o.toNat)
  | .bltu a b o => some (32, encI 22 a b o.toNat)
  | .bgeu a b o => some (32, encI 23 a b o.toNat)
  | .jal d o => some (32, encU 24 d o)
  | .jalr d a i => some (32, encI 25 d a i.toNat)
  | .loop a i => some (32, encI 26 0 a i.toNat)
  | .cgetbase d a => some (32, encR 27 0 d a 0)
  | .cgetlen d a => some (32, encR 27 1 d a 0)
  | .cgetperm d a => some (32, encR 27 2 d a 0)
  | .cgettype d a => some (32, encR 27 3 d a 0)
  | .cgetreg d a => some (32, encR 27 4 d a 0)
  | .cgettag d a => some (32, encR 27 5 d a 0)
  | .csetaddr d a b => some (32, encR 27 6 d a b)
  | .cinc d a b => some (32, encR 27 7 d a b)
  | .csetbnd d a b => some (32, encR 27 8 d a b)
  | .candperm d a b => some (32, encR 27 9 d a b)
  | .cseal d a b => some (32, encR 27 10 d a b)
  | .cunseal d a b => some (32, encR 27 11 d a b)
  | .cmov d a => some (32, encR 27 12 d a 0)
  | .ctestsub d a b => some (32, encR 27 13 d a b)
  | .cclrtag d a => some (32, encR 27 14 d a 0)
  | .cinci d a i => some (32, encI 28 d a i.toNat)
  | .csetbi d a i => some (32, encI 29 d a i.toNat)
  | .send a b => some (32, encR 30 0 0 a b)
  | .sendc d a b => some (32, encR 30 1 d a b)
  | .sendk a b => some (32, encR 30 2 0 a b)
  | .sendd a b => some (32, encR 30 3 0 a b)
  | .post d a b => some (32, encR 30 4 d a b)
  | .mcast d a b => some (32, encR 30 5 d a b)
  | .rread d a b => some (32, encR 30 6 d a b)
  | .sende a b => some (32, encR 30 7 0 a b)
  | .endTask => some (32, encR 30 8 0 0 0)
  | .abort => some (32, encR 30 9 0 0 0)
  | .ctrset k a => some (32, encR 31 (0 + 2 ^ 3 * k.toNat) 0 a 0)
  | .ctrdec k a => some (32, encR 31 (1 + 2 ^ 3 * k.toNat) 0 a 0)
  | .ctradd k a => some (32, encR 31 (2 + 2 ^ 3 * k.toNat) 0 a 0)
  | .ctrget k d => some (32, encR 31 (3 + 2 ^ 3 * k.toNat) d 0 0)
  | .arrive k a b => some (32, encR 31 (4 + 2 ^ 3 * k.toNat) 0 a b)
  | .barlink k a => some (32, encR 31 (5 + 2 ^ 3 * k.toNat) 0 a 0)
  | .ctrclr k => some (32, encR 31 (6 + 2 ^ 3 * k.toNat) 0 0 0)
  | .sbind d a b => some (32, encR 32 0 d a b)
  | .qbind d q pop => some (32, encR 32 1 d 0 (BitVec.ofNat 5 (q.toNat + 2 ^ 2 * flagBit pop)))
  | .lbind d out fwd => some (32, encR 32 2 d 0 (BitVec.ofNat 5 (flagBit out + 2 * flagBit fwd)))
  | .unbind d => some (32, encR 32 3 d 0 0)
  | .bstat d a => some (32, encR 32 4 d a 0)
  | .repb d a b => some (32, encR 33 0 d a b)
  | .repe => some (32, encR 33 1 0 0 0)
  | .repwait => some (32, encR 33 2 0 0 0)
  | .vadd t d a b => some (32, encR 34 (vecF 0 t) d a b)
  | .vsub t d a b => some (32, encR 34 (vecF 1 t) d a b)
  | .vmul t d a b => some (32, encR 34 (vecF 2 t) d a b)
  | .vfma t d a b => some (32, encR 34 (vecF 3 t) d a b)
  | .vmin t d a b => some (32, encR 34 (vecF 4 t) d a b)
  | .vmax t d a b => some (32, encR 34 (vecF 5 t) d a b)
  | .vabs t d a => some (32, encR 34 (vecF 6 t) d a 0)
  | .vneg t d a => some (32, encR 34 (vecF 7 t) d a 0)
  | .vand t d a b => some (32, encR 34 (vecF 8 t) d a b)
  | .vor t d a b => some (32, encR 34 (vecF 9 t) d a b)
  | .vxor t d a b => some (32, encR 34 (vecF 10 t) d a b)
  | .vshl t d a b => some (32, encR 34 (vecF 11 t) d a b)
  | .vshr t d a b => some (32, encR 34 (vecF 12 t) d a b)
  | .vsra t d a b => some (32, encR 34 (vecF 13 t) d a b)
  | .vceq t d a b => some (32, encR 34 (vecF 14 t) d a b)
  | .vclt t d a b => some (32, encR 34 (vecF 15 t) d a b)
  | .vcle t d a b => some (32, encR 34 (vecF 16 t) d a b)
  | .vsel t d a b => some (32, encR 34 (vecF 17 t) d a b)
  | .vsplat t d a => some (32, encR 34 (vecF 18 t) d a 0)
  | .vext t d a b => some (32, encR 34 (vecF 19 t) d a b)
  | .vins t d a b => some (32, encR 34 (vecF 20 t) d a b)
  | .vshuf t d a b => some (32, encR 34 (vecF 21 t) d a b)
  | .vrsum t d a => some (32, encR 34 (vecF 22 t) d a 0)
  | .vrmax t d a => some (32, encR 34 (vecF 23 t) d a 0)
  | .vcvt t src d a => some (32, encR 34 (vecF 24 t) d a (BitVec.ofNat 5 src.code))
  | .vdec d a tb => some (32, encR 34 (vecF 25 .f32) d a (BitVec.ofNat 5 (flagBit tb)))
  | .venc d a tb => some (32, encR 34 (vecF 26 .f32) d a (BitVec.ofNat 5 (flagBit tb)))
  | .vrcp t d a => some (32, encR 34 (vecF 27 t) d a 0)
  | .vrsq t d a => some (32, encR 34 (vecF 28 t) d a 0)
  | .vexp2 t d a => some (32, encR 34 (vecF 29 t) d a 0)
  | .vlog2 t d a => some (32, encR 34 (vecF 30 t) d a 0)
  | .vimax t d a => some (32, encR 34 (vecF 31 t) d a 0)
  | .mma d wa wc a ks => some (32, encW 0 d wa wc a ks)
  | .bload wa a ks => some (32, encW 1 0 wa 0 a ks)
  | .brot => some (32, encW 2 0 0 0 0 0)
  | .mxwait => some (32, encW 3 0 0 0 0 0)
  | .mxspill => some (32, encW 4 0 0 0 0 0)
  | .mxwt a => some (32, encW 5 0 0 0 a 0)
  | .accclr w a b => some (32, encX 0 0 0 w a b)
  | .accadd w a b fm => some (32, encX 1 fm.code 0 w a b)
  | .accaddv w a b fm => some (32, encX 2 fm.code 0 w a b)
  | .accfma w d a b => some (32, encX 3 0 d w a b)
  | .acccmb w a b => some (32, encX 4 0 0 w a b)
  | .accrnd d w b tg md => some (32, encX 5 tg.code d w (BitVec.ofNat 5 md.code) b)
  | .accst w a b => some (32, encX 6 0 0 w a b)
  | .cpy d a b ch => some (32, encR 37 (0 + 2 ^ 4 * ch.toNat) d a b)
  | .gather d a b ch => some (32, encR 37 (1 + 2 ^ 4 * ch.toNat) d a b)
  | .scatter d a b ch => some (32, encR 37 (2 + 2 ^ 4 * ch.toNat) d a b)
  | .fill d a b ch => some (32, encR 37 (3 + 2 ^ 4 * ch.toNat) d a b)
  | .wmset ch a b => some (32, encR 37 (4 + 2 ^ 4 * ch.toNat) 0 a b)
  | .wmget d ch => some (32, encR 37 (5 + 2 ^ 4 * ch.toNat) d 0 0)
  | .adopt d a => some (32, encR 38 0 d a 0)
  | .shed d => some (32, encR 38 1 d 0 0)
  | .chnget d a => some (32, encR 38 2 d a 0)
  | .fit d a => some (32, encR 38 3 d a 0)
  | .unpick d a => some (32, encR 38 4 d a 0)
  | .charge a => some (32, encR 38 5 0 a 0)
  | .chnset a => some (32, encR 38 6 0 a 0)
  | .lton a => some (32, encR 39 0 0 a 0)
  | .ltoff => some (32, encR 39 1 0 0 0)
  | .ltclk d a => some (32, encR 39 2 d a 0)
  | .ltchan a => some (32, encR 39 3 0 a 0)
  | .ltann => some (32, encR 39 4 0 0 0)
  | .ltnull a => some (32, encR 39 5 0 a 0)
  | .hem d a b => some (32, encR 40 0 d a b)
  | .playadv d a b => some (32, encR 40 1 d a b)
  | .frame d a b => some (32, encR 40 2 d a b)
  | .genadv d a b => some (32, encR 40 3 d a b)
  | .cmtadv d a b => some (32, encR 40 4 d a b)
  | .ckpt d a b => some (32, encR 40 5 d a b)
  | .dpxget d a b => some (32, encR 40 6 d a b)
  | .smparm a b => some (32, encR 41 0 0 a b)
  | .smpinj a b => some (32, encR 41 1 0 a b)
  | .smpget d a => some (32, encR 41 2 d a 0)
  | .wset w a => some (32, encR 42 0 (w.setWidth 5) a 0)
  | .wget d w => some (32, encR 42 1 d (w.setWidth 5) 0)
  | .dtload a tb => some (32, encR 42 2 0 a (BitVec.ofNat 5 (flagBit tb)))
  | .trap n => some (32, encSys 0 0 n)
  | .sysc n => some (32, encSys 1 0 n)
  | .eret => some (32, encSys 2 0 0)
  | .csrr d n => some (32, encSys 3 d n)
  | .csrw n d => some (32, encSys 4 d n)
  | .csrset n d => some (32, encSys 5 d n)
  | .csrclr n d => some (32, encSys 6 d n)
  | .halt => some (32, encSys 7 0 0)
  | .bkpt => some (32, encSys 8 0 0)
  | .clfl a => some (32, encSys 9 0 (a.setWidth 10))
  | .clinv => some (32, encSys 10 0 0)
  | .xlinv a => some (32, encSys 11 0 (a.setWidth 10))
  | .wfi => some (32, encSys 12 0 0)
  | .hint => some (32, encR 48 0 0 0 0)
  | .cMov x y => some (16, encC 0 x (if x = 0 ∧ y = 0 then 32 else y.toNat))
  | .cAddi x i => some (16, encC 1 x i.toNat)
  | .cLi x i => some (16, encC 2 x i.toNat)
  | .cAdd x y => some (16, encC 3 x y.toNat)
  | .cSub x y => some (16, encC 4 x y.toNat)
  | .cAnd x y => some (16, encC 5 x y.toNat)
  | .cSlli x sh => some (16, encC 6 x sh.toNat)
  | .cLdd x o => some (16, encC 7 x o.toNat)
  | .cStd x o => some (16, encC 8 x o.toNat)
  | .cBeqz x o => some (16, encC 9 x o.toNat)
  | .cBnez x o => some (16, encC 10 x o.toNat)
  | .cJ o => some (16, 2 * 11 + 2 ^ 5 * o.toNat)
  | .cNop => some (16, encC 12 0 0)
  | .cEnd => some (16, encC 12 1 0)
  | .cBkpt => some (16, encC 12 2 0)
  | .cMxwait => some (16, encC 12 3 0)
  | .cRepwait => some (16, encC 12 4 0)
  | .cHint => some (16, encC 13 0 0)
  | _ => none

end Sys2Proof
end

