-- ==== Sys2Proof/Machine/Num.lean ====
section
/-! DEFINITION. Number formats, the one rounding, the correctly rounded functions, decode tables, block scales and the
accumulator record (R121 to R142). Values are exact; only roundTo, encodeTbl and the integer conversions round. -/

namespace Sys2Proof.Machine

/-- A value: NaN, an infinity, or (−1)^neg × m × 2^e exactly. -/
inductive Num where
  | nan
  | inf (neg : Bool)
  | fin (neg : Bool) (m : Nat) (e : Int)
deriving DecidableEq, Repr

/-- The flags of FFLAGS (R126). -/
abbrev Flags := BitVec 6
def flagNX : Flags := 1
def flagUF : Flags := 2
def flagOF : Flags := 4
def flagDZ : Flags := 8
def flagNV : Flags := 16
def flagRG : Flags := 32

/-- A floating format that RoundTo rounds to: precision, exponent range, exponent field width (R123, R127). -/
structure FFmt where
  p     : Nat
  emin  : Int
  emax  : Int
  ebits : Nat
deriving DecidableEq, Repr

def fp32 : FFmt := ⟨24, -126, 127, 8⟩
def fp16 : FFmt := ⟨11, -14, 15, 5⟩
def bf16 : FFmt := ⟨8, -126, 127, 8⟩
def e8m10 : FFmt := ⟨11, -126, 127, 8⟩

/-- The sign bit's place. -/
def FFmt.signPos (f : FFmt) : Nat := f.ebits + f.p - 1
/-- The top exponent field. -/
def FFmt.top (f : FFmt) : Nat := 2 ^ f.ebits - 1
/-- The sign bit of a sign. -/
def FFmt.sign (f : FFmt) (neg : Bool) : Nat := if neg then 2 ^ f.signPos else 0
/-- The infinity of a sign (R123). -/
def FFmt.infBits (f : FFmt) (neg : Bool) : Nat := f.sign neg + f.top * 2 ^ (f.p - 1)
/-- The largest finite value of a sign. -/
def FFmt.maxBits (f : FFmt) (neg : Bool) : Nat := f.infBits neg - 1
/-- The canonical NaN (R123). -/
def FFmt.nanBits (f : FFmt) : Nat := f.top * 2 ^ (f.p - 1) + 2 ^ (f.p - 2)

/-- Val(fmt, bits) of a floating format with infinities (R123). -/
def FFmt.val (f : FFmt) (bits : Nat) : Num :=
  let neg := bits / 2 ^ f.signPos % 2 == 1
  let ex := bits / 2 ^ (f.p - 1) % 2 ^ f.ebits
  let fr := bits % 2 ^ (f.p - 1)
  if ex = f.top then (if fr = 0 then .inf neg else .nan)
  else if ex = 0 then .fin neg fr (f.emin - (f.p - 1 : Nat))
  else .fin neg (2 ^ (f.p - 1) + fr) (f.emin - (f.p - 1 : Nat) + (ex - 1 : Nat))

/-- A signalling NaN: a NaN whose top fraction bit is clear (R139). -/
def FFmt.isSignalling (f : FFmt) (bits : Nat) : Bool :=
  f.val bits == .nan && bits / 2 ^ (f.p - 2) % 2 == 0

/-- Val(E5M2, code), an 8-bit OCP format (R123). -/
def valE5M2 (c : Nat) : Num := (⟨3, -14, 15, 5⟩ : FFmt).val (c % 256)

/-- Val(E4M3, code): no infinity, only 0x7F and 0xFF are NaN (R123). -/
def valE4M3 (c : Nat) : Num :=
  let neg := c / 128 % 2 == 1
  let ex := c / 8 % 16
  let fr := c % 8
  if ex = 15 ∧ fr = 7 then .nan
  else if ex = 0 then .fin neg fr (-9)
  else .fin neg (8 + fr) ((ex : Int) - 10)

/-- Rounds n + rest / 2^s, with 0 ≤ rest < 2^s, to an integer under a mode, the sign known (R127). -/
def roundInt (mode : RMode) (neg : Bool) (n rest s : Nat) : Nat :=
  if rest = 0 then n
  else match mode with
    | .rne => if 2 * rest > 2 ^ s then n + 1 else if 2 * rest < 2 ^ s then n else n + n % 2
    | .rtz => n
    | .rup => if neg then n else n + 1
    | .rdn => if neg then n + 1 else n

/-- What RoundTo answers on overflow (R127). -/
def FFmt.overflow (f : FFmt) (mode : RMode) (neg : Bool) : Nat :=
  match mode with
  | .rne => f.infBits neg
  | .rtz => f.maxBits neg
  | .rup => if neg then f.maxBits neg else f.infBits neg
  | .rdn => if neg then f.infBits neg else f.maxBits neg

/-- RoundTo(v, fmt, mode): the bits and the flags raised (R127). A zero keeps the sign it carries. -/
def roundTo (f : FFmt) (mode : RMode) (v : Num) : Nat × Flags :=
  match v with
  | .nan => (f.nanBits, 0)
  | .inf neg => (f.infBits neg, 0)
  | .fin neg m e =>
    if m = 0 then (f.sign neg, 0)
    else
      let ev : Int := (Nat.log2 m : Int) + e
      let q : Int := max ev f.emin - (f.p - 1 : Nat)
      let exact := decide (q ≤ e)
      let s := (q - e).toNat
      let rest := if exact then 0 else m % 2 ^ s
      let n := if exact then m * 2 ^ (e - q).toNat else roundInt mode neg (m / 2 ^ s) rest s
      let nx : Flags := if rest = 0 then 0 else flagNX ||| (if ev < f.emin then flagUF else 0)
      if n ≠ 0 ∧ f.emax + 1 ≤ (Nat.log2 n : Int) + q then (f.overflow mode neg, flagOF ||| flagNX)
      else if n < 2 ^ (f.p - 1) then (f.sign neg + n, nx)
      else
        let ex := (q - (f.emin - (f.p - 1 : Nat))).toNat + 1
        (f.sign neg + ex * 2 ^ (f.p - 1) + (n - 2 ^ (f.p - 1)), nx)

/-- The signed numerator of a finite value at scale 2^e', for e' at or below its exponent. -/
def numerAt (neg : Bool) (m : Nat) (e e' : Int) : Int :=
  let k : Int := (m * 2 ^ (e - e').toNat : Nat)
  if neg then -k else k

/-- A finite value from a signed numerator; `zneg` is the sign a zero takes. -/
def Num.ofInt (k : Int) (e : Int) (zneg : Bool) : Num :=
  if k = 0 then .fin zneg 0 e else .fin (decide (k < 0)) k.natAbs e

/-- The exact sum of two finite values; the sign of an exact zero is that of IEEE 754-2019 in `mode` (R139). -/
def finAdd (mode : RMode) (n1 : Bool) (m1 : Nat) (e1 : Int) (n2 : Bool) (m2 : Nat) (e2 : Int) : Num :=
  let e := min e1 e2
  let zneg := if m1 = 0 ∧ m2 = 0 ∧ n1 = n2 then n1 else decide (mode = .rdn)
  Num.ofInt (numerAt n1 m1 e1 e + numerAt n2 m2 e2 e) e zneg

/-- The exact sum; the flag is NV for Inf − Inf (R139). -/
def numAdd (mode : RMode) (x y : Num) : Num × Flags :=
  match x, y with
  | .nan, _ => (.nan, 0)
  | _, .nan => (.nan, 0)
  | .inf a, .inf b => if a = b then (.inf a, 0) else (.nan, flagNV)
  | .inf a, .fin .. => (.inf a, 0)
  | .fin .., .inf b => (.inf b, 0)
  | .fin n1 m1 e1, .fin n2 m2 e2 => (finAdd mode n1 m1 e1 n2 m2 e2, 0)

/-- The exact product; the flag is NV for 0 × Inf (R139). -/
def numMul (x y : Num) : Num × Flags :=
  match x, y with
  | .nan, _ => (.nan, 0)
  | _, .nan => (.nan, 0)
  | .inf a, .inf b => (.inf (a != b), 0)
  | .inf a, .fin b m _ => if m = 0 then (.nan, flagNV) else (.inf (a != b), 0)
  | .fin a m _, .inf b => if m = 0 then (.nan, flagNV) else (.inf (a != b), 0)
  | .fin a m1 e1, .fin b m2 e2 => (.fin (a != b) (m1 * m2) (e1 + e2), 0)

/-- A value with its sign inverted. -/
def Num.neg : Num → Num
  | .nan => .nan
  | .inf a => .inf !a
  | .fin a m e => .fin (!a) m e

/-- Exact comparison of two values that are no NaN: −Inf below every number, −0 == +0. -/
def numLt (x y : Num) : Bool :=
  match x, y with
  | .nan, _ => false
  | _, .nan => false
  | .inf a, .inf b => a && !b
  | .inf a, .fin .. => a
  | .fin .., .inf b => !b
  | .fin n1 m1 e1, .fin n2 m2 e2 =>
    let e := min e1 e2
    numerAt n1 m1 e1 e < numerAt n2 m2 e2 e

/-- Exact equality of two values that are no NaN. -/
def numEq (x y : Num) : Bool :=
  match x, y with
  | .nan, _ => false
  | _, .nan => false
  | _, _ => !numLt x y && !numLt y x

/-- The value that lies strictly between k × 2^e and (k + 1) × 2^e, as the model rounds it: a value halfway rounds as
every value of that open interval does, wherever the quantum is above 2^e. -/
def between (k : Int) (e : Int) : Num := Num.ofInt (2 * k + 1) (e - 1) false

/-- floor(sqrt n) by Newton's iteration from above, with fuel. -/
def isqrtGo : Nat → Nat → Nat → Nat
  | 0, _, x => x
  | k + 1, n, x =>
    let y := (x + n / x) / 2
    if y < x then isqrtGo k n y else x

/-- floor(sqrt n). -/
def isqrt (n : Nat) : Nat := if n = 0 then 0 else isqrtGo 64 n (2 ^ (Nat.log2 n / 2 + 1))

/-- 1/x before rounding, and the flags (R140): exact, or a value between two neighbours 2^-(p+3) apart. -/
def numRcp (p : Nat) (x : Num) : Num × Flags :=
  match x with
  | .nan => (.nan, 0)
  | .inf a => (.fin a 0 0, 0)
  | .fin a m e =>
    if m = 0 then (.inf a, flagDZ)
    else
      let k := Nat.log2 m + p + 3
      let n := 2 ^ k / m
      let e' : Int := -e - k
      if 2 ^ k % m = 0 then (.fin a n e', 0) else (.fin a (2 * n + 1) (e' - 1), 0)

/-- 1/√x before rounding, and the flags (R140). -/
def numRsq (p : Nat) (x : Num) : Num × Flags :=
  match x with
  | .nan => (.nan, 0)
  | .inf a => if a then (.nan, flagNV) else (.fin false 0 0, 0)
  | .fin a m e =>
    if m = 0 then (.inf a, flagDZ)
    else if a then (.nan, flagNV)
    else
      let odd := e % 2 ≠ 0
      let m' := if odd then 2 * m else m
      let e' := if odd then e - 1 else e
      let k := Nat.log2 m' / 2 + p + 4
      let n := isqrt (2 ^ (2 * k) / m')
      let e'' : Int := -(e' / 2) - k
      if n * n * m' = 2 ^ (2 * k) then (.fin false n e'', 0) else (.fin false (2 * n + 1) (e'' - 1), 0)

/-- The roots 2^(2^-j) in [lo, hi] at scale 2^-w, and the product of those whose bit is set in the fraction. `bits` lists
the bits of the fraction from the highest down. -/
def exp2Go (w : Nat) : List Bool → Nat → Nat → Nat → Nat → Nat × Nat
  | [], _, _, lo, hi => (lo, hi)
  | b :: bs, rl, rh, lo, hi =>
    let rl' := isqrt (rl * 2 ^ w)
    let rh' := isqrt (rh * 2 ^ w) + 1
    if b then exp2Go w bs rl' rh' (lo * rl' / 2 ^ w) (hi * rh' / 2 ^ w + 1) else exp2Go w bs rl' rh' lo hi

/-- The `k` bits of a fraction r / 2^k from the highest down. -/
def fracBits : Nat → Nat → List Bool
  | 0, _ => []
  | k + 1, r => (r / 2 ^ k % 2 == 1) :: fracBits k r

/-- The least n from `n` up, within `fuel`, such that 2^(r + P × 2^k) < (n + 1)^(2^k): floor(2^(r/2^k + P)) exactly. -/
def exp2Exact (r k p : Nat) : Nat → Nat → Nat
  | 0, n => n
  | fuel + 1, n => if (n + 1) ^ 2 ^ k ≤ 2 ^ (r + p * 2 ^ k) then exp2Exact r k p fuel (n + 1) else n

/-- floor(2^(r / 2^k) × 2^P) for 0 < r < 2^k: an enclosure, cut to [2^P, 2^(P + 1)), decides it, and where the enclosure does
not, the exact comparison of powers. -/
def exp2Floor (r k p : Nat) : Nat :=
  let w := p + 96
  let bounds := exp2Go w (fracBits k r) (2 ^ (w + 1)) (2 ^ (w + 1)) (2 ^ w) (2 ^ w)
  let lo := max (bounds.1 / 2 ^ (w - p)) (2 ^ p)
  let hi := min (bounds.2 / 2 ^ (w - p)) (2 ^ (p + 1) - 1)
  if lo = hi then lo else exp2Exact r k p (hi - lo) lo

/-- 2^x before rounding (R140). A result whose exponent lies beyond 2^12 either way stands for every one beyond. [log 51 DEDUCED] -/
def numExp2 (p : Nat) (x : Num) : Num × Flags :=
  match x with
  | .nan => (.nan, 0)
  | .inf a => (if a then .fin false 0 0 else .inf false, 0)
  | .fin a m e =>
    if m = 0 then (.fin false 1 0, 0)
    else if 12 ≤ (Nat.log2 m : Int) + e then (if a then .fin false 1 (-4096) else .fin false 1 4096, 0)
    else if 0 ≤ e then (.fin false 1 (numerAt a m e 0), 0)
    else
      let k := (-e).toNat
      let z := numerAt a m 0 0
      let i := z / (2 ^ k : Nat)
      let r := (z % (2 ^ k : Nat)).toNat
      if r = 0 then (.fin false 1 i, 0)
      else (between (exp2Floor r k (p + 3)) (i - (p + 3 : Nat)), 0)

/-- The bits of log2 of a value in [1, 2) enclosed by [lo, hi] at scale 2^-w: none where the enclosure straddles 2. -/
def log2Go (w : Nat) : Nat → Nat → Nat → Nat → Option Nat
  | 0, _, _, acc => some acc
  | k + 1, lo, hi, acc =>
    let l := lo * lo / 2 ^ w
    let h := hi * hi / 2 ^ w + 1
    if 2 ^ (w + 1) ≤ l then log2Go w k (l / 2) (h / 2 + 1) (2 * acc + 1)
    else if h < 2 ^ (w + 1) then log2Go w k l h (2 * acc)
    else none

/-- floor(log2(m / 2^log2 m) × 2^F): the enclosure, or the exact power where it does not decide. -/
def log2Floor (m fbits : Nat) : Nat :=
  let l := Nat.log2 m
  let w := fbits + 104
  let y := m * 2 ^ w / 2 ^ l
  match log2Go w fbits y (y + 1) 0 with
  | some n => n
  | none => Nat.log2 (m ^ 2 ^ fbits) - l * 2 ^ fbits

/-- log2 x before rounding, and the flags (R140). [log 51 DEDUCED] -/
def numLog2 (x : Num) : Num × Flags :=
  match x with
  | .nan => (.nan, 0)
  | .inf a => if a then (.nan, flagNV) else (.inf false, 0)
  | .fin a m e =>
    if m = 0 then (.inf true, flagDZ)
    else if a then (.nan, flagNV)
    else
      let l := Nat.log2 m
      let i : Int := l + e
      if m = 2 ^ l then (Num.ofInt i 0 false, 0)
      else (between (i * 2 ^ 56 + (log2Floor m 56 : Int)) (-56), 0)

/-- The E8M10 bits of an exactly representable value (R124). -/
def toE8M10 (v : Num) : BitVec 19 := BitVec.ofNat 19 (roundTo e8m10 .rne v).1

/-- Val(E8M10, bits). -/
def valE8M10 (b : BitVec 19) : Num := e8m10.val b.toNat

/-- The FP32 bits of an E8M10 value, exactly (R25): fraction shifted left by 13; any NaN gives the canonical NaN. -/
def e8m10ToFp32 (b : BitVec 19) : BitVec 32 :=
  if valE8M10 b == .nan then 0x7FC00000 else b.setWidth 32 <<< 13

/-- FP32 to E8M10, RNE, whatever RMODE holds (R128, R129). -/
def fp32ToE8M10 (w : BitVec 32) : BitVec 19 × Flags :=
  let r := roundTo e8m10 .rne (fp32.val w.toNat)
  (BitVec.ofNat 19 r.1, r.2)

/-- A window format by its FMT code (R25). -/
def fmtRaw : Nat := 0
def fmtAcc : Nat := 12

/-- esize of a window format (R25); a code without a format, which only the window defaults of an installed image can hold (R24), has
96. [log 121 DESIGN CHOICE] -/
def esize (fmt : Nat) : Nat :=
  match fmt with
  | 0 => 4 | 1 => 1 | 2 => 1 | 3 => 2 | 4 => 4 | 5 => 2 | 6 => 2 | 7 => 4 | 8 => 1 | 9 => 1 | 10 => 1 | 11 => 1
  | _ => 96

/-- The operand formats of the matrix instructions (R134). -/
def operandFmt (fmt : Nat) : Bool :=
  fmt == 1 || fmt == 2 || fmt == 5 || fmt == 6 || fmt == 8 || fmt == 9 || fmt == 10 || fmt == 11

/-- The "24" formats, with a scale byte (R25). -/
def scaledFmt (fmt : Nat) : Bool := fmt == 10 || fmt == 11

/-- A block-scaled table entry (R133): the E8M10 value and RG. -/
def scaleEntry (d : BitVec 19) (s : Nat) : BitVec 19 × Bool :=
  if s = 255 then (BitVec.ofNat 19 e8m10.nanBits, false)
  else match valE8M10 d with
    | .fin neg m e =>
      if m = 0 then (d, false)
      else
        let e' : Int := e + s - 127
        let v := Num.fin neg m e'
        let top : Int := (Nat.log2 m : Int) + e'
        if 128 ≤ top then (BitVec.ofNat 19 (e8m10.infBits neg), true)
        else (toE8M10 v, decide (top < -126))
    | _ => (d, false)

/-- Decode(fmt, bytes, s): a window element's E8M10 value and RG (R133). -/
def decodeElem (tblA tblB : Vector (BitVec 19) 256) (fmt : Nat) (bytes s : Nat) : BitVec 19 × Bool :=
  let entry (t : Vector (BitVec 19) 256) : BitVec 19 := t[bytes % 256]?.getD 0
  match fmt with
  | 1 => (toE8M10 (Num.ofInt (BitVec.ofNat 8 bytes).toInt 0 false), false)
  | 2 => (toE8M10 (Num.fin false (bytes % 256) 0), false)
  | 5 => (toE8M10 (fp16.val (bytes % 65536)), false)
  | 6 => (toE8M10 (bf16.val (bytes % 65536)), false)
  | 8 => (entry tblA, false)
  | 9 => (entry tblB, false)
  | 10 => scaleEntry (entry tblA) s
  | 11 => scaleEntry (entry tblB) s
  | _ => (0, false)

/-- AliasValue(FMT, bytes, s): the 32-bit word an alias read returns, and RG (R25, R26); a code without a format reads as RAW does.
[log 121 DESIGN CHOICE] -/
def aliasValue (tblA tblB : Vector (BitVec 19) 256) (fmt : Nat) (bytes s : Nat) : BitVec 32 × Bool :=
  match fmt with
  | 1 => ((BitVec.ofNat 8 bytes).signExtend 32, false)
  | 2 => (BitVec.ofNat 32 (bytes % 256), false)
  | 3 => ((BitVec.ofNat 16 bytes).signExtend 32, false)
  | 5 => (BitVec.ofNat 32 (roundTo fp32 .rne (fp16.val (bytes % 65536))).1, false)
  | 6 => (BitVec.ofNat 32 (roundTo fp32 .rne (bf16.val (bytes % 65536))).1, false)
  | 8 => let d := decodeElem tblA tblB 8 bytes s; (e8m10ToFp32 d.1, d.2)
  | 9 => let d := decodeElem tblA tblB 9 bytes s; (e8m10ToFp32 d.1, d.2)
  | 10 => let d := decodeElem tblA tblB 10 bytes s; (e8m10ToFp32 d.1, d.2)
  | 11 => let d := decodeElem tblA tblB 11 bytes s; (e8m10ToFp32 d.1, d.2)
  | _ => (BitVec.ofNat 32 bytes, false)

/-- The lowest code whose entry satisfies a test. -/
def lowestCode (test : Num → Bool) : List (BitVec 19) → Nat → Option Nat
  | [], _ => none
  | d :: ds, c => if test (valE8M10 d) then some c else lowestCode test ds (c + 1)

/-- A code and its value as a signed multiple of 2^-136: every finite E8M10 value is one (R124, R130). -/
def finiteEntries : List (BitVec 19) → Nat → List (Nat × Int)
  | [], _ => []
  | d :: ds, c =>
    match valE8M10 d with
    | .fin neg m e => (c, numerAt neg m e (-136)) :: finiteEntries ds (c + 1)
    | _ => finiteEntries ds (c + 1)

/-- The element of a list of (code, value) that a preference keeps, the first one on ties: since the codes rise, the
lowest code of each value is the one the view holds (R130). -/
def bestBy (better : Int → Int → Bool) : List (Nat × Int) → Option (Nat × Int)
  | [] => none
  | x :: xs =>
    match bestBy better xs with
    | none => some x
    | some y => if better y.2 x.2 then some y else some x

/-- Distance of a view value from x, both at scale 2^e (e at or below −136). -/
def viewDist (x : Int) (shift : Nat) (v : Int) : Nat := (v * (2 ^ shift : Nat) - x).natAbs

/-- The nearest code, ties to the lower code (R131). -/
def nearestCode (x : Int) (shift : Nat) : List (Nat × Int) → Option (Nat × Int)
  | [] => none
  | y :: ys =>
    match nearestCode x shift ys with
    | none => some y
    | some z =>
      let dy := viewDist x shift y.2
      let dz := viewDist x shift z.2
      if dz < dy then some z else some y

/-- NX and OF of an encode that chose value `c` for x (R131, R137): all at scale 2^(−136−shift). -/
def encodeFlags (x : Int) (shift : Nat) (es : List (Nat × Int)) (c : Int) : Flags :=
  let k : Int := (2 ^ shift : Nat)
  let above := es.all fun y => decide (y.2 * k < x)
  let below := es.all fun y => decide (x < y.2 * k)
  (if c * k = x then 0 else flagNX) ||| (if above || below then flagOF else 0)

/-- Encode(tbl, x) for a value x (R131): the code and the flags. -/
def encodeTbl (tbl : Vector (BitVec 19) 256) (x : Num) : Byte × Flags :=
  let es := finiteEntries tbl.toList 0
  let code (c : Nat) : Byte := BitVec.ofNat 8 c
  match x with
  | .nan =>
    match lowestCode (fun v => v == .nan) tbl.toList 0 with
    | some c => (code c, 0)
    | none => (0, flagNV)
  | .inf neg =>
    match lowestCode (fun v => v == .inf neg) tbl.toList 0 with
    | some c => (code c, 0)
    | none =>
      match bestBy (fun y z => if neg then decide (y < z) else decide (z < y)) es with
      | some c => (code c.1, flagNX ||| flagOF)
      | none => (0, flagNV)
  | .fin neg m e =>
    let e' := min e (-136)
    let shift := (-136 - e').toNat
    let xi := numerAt neg m e e'
    match nearestCode xi shift es with
    | some c => (code c.1, encodeFlags xi shift es c.2)
    | none => (0, flagNV)

/-- The record of R135: VAL as a 640-bit integer and the status bits RANGE, NINF, PINF, NAN in [3:0]. -/
structure Record where
  val    : BitVec 640
  status : BitVec 4
deriving DecidableEq, Repr

/-- A term (R135): the integer in units of 2^-300, and the status bits it raises. -/
structure Term where
  int    : Int
  status : BitVec 4
deriving DecidableEq, Repr

/-- The term of an exact value. -/
def termOf (v : Num) : Term :=
  match v with
  | .nan => ⟨0, 1⟩
  | .inf neg => ⟨0, if neg then 4 else 2⟩
  | .fin neg m e => ⟨numerAt neg m e (-300), 0⟩

/-- Term of a product (R135): ±Inf × 0 is NAN. -/
def termMul (a b : Num) : Term := termOf (numMul a b).1

/-- Adds an integer to VAL; RANGE when the exact result leaves [−2^339, 2^339) × 2^300 (R136). -/
def Record.addInt (r : Record) (k : Int) : Record :=
  let exact := r.val.toInt + k
  let inRange := decide (-(2 ^ 639 : Nat) ≤ exact) && decide (exact < (2 ^ 639 : Nat))
  ⟨BitVec.ofInt 640 exact, r.status ||| (if inRange then 0 else 8)⟩

/-- Adds a term (R136). -/
def Record.addTerm (r : Record) (t : Term) : Record :=
  let r' := r.addInt t.int
  { r' with status := r'.status ||| t.status }

/-- ACCCMB: VAL modulo 2^640, status ORed, RANGE if the exact sum leaves the range (R136). -/
def Record.combine (r s : Record) : Record :=
  let r' := r.addInt s.val.toInt
  { r' with status := r'.status ||| s.status }

/-- A value rounded to an integer: the integer and whether it is inexact (R127 with q = 0). -/
def roundToInt (mode : RMode) (neg : Bool) (m : Nat) (e : Int) : Int × Bool :=
  let s := (-e).toNat
  let rest := m % 2 ^ s
  let n := if 0 ≤ e then m * 2 ^ e.toNat else roundInt mode neg (m / 2 ^ s) rest s
  let inexact := decide (e < 0) && decide (rest ≠ 0)
  (if neg then -(n : Int) else (n : Int), inexact)

/-- The result of ACCRND before it is placed in a register, and the flags; an INT32 result is sign-extended to 64 bits
(R137). -/
def accRound (tblA tblB : Vector (BitVec 19) 256) (r : Record) (t : AccTarget) (mode : RMode) : DWord × Flags :=
  let isNan := r.status.getLsbD 0
  let pinf := r.status.getLsbD 1
  let ninf := r.status.getLsbD 2
  let rg : Flags := if r.status.getLsbD 3 then flagRG else 0
  let k := r.val.toInt
  let v := Num.ofInt k (-300) false
  let asFloat (f : FFmt) : DWord × Flags :=
    if isNan || (pinf && ninf) then (BitVec.ofNat 64 f.nanBits, if isNan then 0 else flagNV)
    else if pinf then (BitVec.ofNat 64 (f.infBits false), 0)
    else if ninf then (BitVec.ofNat 64 (f.infBits true), 0)
    else let q := roundTo f mode v; (BitVec.ofNat 64 q.1, q.2)
  let asTable (tbl : Vector (BitVec 19) 256) : DWord × Flags :=
    if isNan || (pinf && ninf) then
      let c := encodeTbl tbl .nan
      (c.1.setWidth 64, c.2 ||| (if isNan then 0 else flagNV))
    else if pinf then let c := encodeTbl tbl (.inf false); (c.1.setWidth 64, c.2)
    else if ninf then let c := encodeTbl tbl (.inf true); (c.1.setWidth 64, c.2)
    else
      let es := finiteEntries tbl.toList 0
      let shift := 164
      let at_ (y : Int) : Int := y * (2 ^ shift : Nat)
      let down := bestBy (fun y z => decide (z < y)) (es.filter fun y => decide (at_ y.2 ≤ k))
      let up := bestBy (fun y z => decide (y < z)) (es.filter fun y => decide (k ≤ at_ y.2))
      let chosen := match mode with
        | .rne => nearestCode k shift es
        | .rtz => if 0 ≤ k then down else up
        | .rup => up
        | .rdn => down
      let inexact (y : Int) : Flags := if at_ y = k then 0 else flagNX
      match chosen with
      | some c => (BitVec.ofNat 64 c.1, if mode = .rne then encodeFlags k shift es c.2 else inexact c.2)
      | none =>
        match nearestCode k shift es with
        | some c => (BitVec.ofNat 64 c.1, flagOF ||| inexact c.2)
        | none => (0, flagNV)
  let out := match t with
    | .fp32 => asFloat fp32
    | .bf16 => asFloat bf16
    | .fp16 => asFloat fp16
    | .e8m10 => asFloat e8m10
    | .int32 =>
      if isNan || (pinf && ninf) then (0, flagNV)
      else if pinf then ((0x7FFFFFFF : DWord), flagNV)
      else if ninf then ((0xFFFFFFFF80000000 : DWord), flagNV)
      else
        let q := roundToInt mode (decide (k < 0)) k.natAbs (-300)
        if (2 ^ 31 : Int) ≤ q.1 then ((0x7FFFFFFF : DWord), flagNV ||| (if q.2 then flagNX else 0))
        else if q.1 < -(2 ^ 31 : Int) then
          ((0xFFFFFFFF80000000 : DWord), flagNV ||| (if q.2 then flagNX else 0))
        else (BitVec.ofInt 64 q.1, if q.2 then flagNX else 0)
    | .tbla => asTable tblA
    | .tblb => asTable tblB
  (out.1, out.2 ||| rg)

/-- MIX(x) (R142). -/
def mix64 (x : DWord) : DWord :=
  let x := x ^^^ (x >>> 30)
  let x := x * 0xBF58476D1CE4E5B9
  let x := x ^^^ (x >>> 27)
  let x := x * 0x94D049BB133111EB
  x ^^^ (x >>> 31)

/-- CapBounds(cap): base and top as unbounded integers (R142). -/
def capBounds (c : QWord) : Int × Int :=
  let e := (c.extractLsb' 98 6).toNat
  let b := (c.extractLsb' 80 16).toNat
  let l := (c.extractLsb' 64 16).toNat
  let a := (c.extractLsb' 0 64).toNat
  let mid := a / 2 ^ e % 65536
  let hi : Int := (a / 2 ^ (e + 16) : Nat)
  let hi := if mid < b then hi - 1 else hi
  let base := hi * (2 ^ (e + 16) : Nat) + (b * 2 ^ e : Nat)
  (base, base + (l * 2 ^ e : Nat))

/-- A vector from a function of the index. -/
def vtab {α : Type} (n : Nat) (f : Nat → α) : Vector α n := ⟨((List.range n).map f).toArray, by simp⟩

/-- A function applied to each entry of a vector. -/
def vmap {α β : Type} {n : Nat} (f : α → β) (v : Vector α n) : Vector β n := ⟨(v.toList.map f).toArray, by simp⟩

/-- The table that DTLOAD makes of an image of FP32 values, given by their exact values (R129, R132). -/
def presetTable (val : Nat → Num) : Vector (BitVec 19) 256 :=
  vtab 256 fun c => toE8M10 (val c)

/-- Table A as the kernel presets it: E4M3 (R132). -/
def presetA : Vector (BitVec 19) 256 := presetTable valE4M3

/-- Table B as the kernel presets it: E5M2 (R132). -/
def presetB : Vector (BitVec 19) 256 := presetTable valE5M2

end Sys2Proof.Machine
end

