-- ==== Sys2Proof/Machine/State.lean ====
section
/-! DEFINITION. The state of the module: every piece of state the spec names, as plain data, and the state right after
reset. The focus core is held in `core`, every other core that differs from its reset state in `others`. -/

namespace Sys2Proof.Machine

/-- Why a step stops the model with a fault: nothing does. Every failure that the spec describes is a trap or an answer
of the machine and so a next state (R58, R60); a hardware table that lies at an address without a home is read as a free
value. -/
inductive Fault where
deriving DecidableEq, Repr

/-- Why a step refuses an instruction. -/
inductive Refusal where
  /-- An instruction that has no meaning yet, by its mnemonic. Raised by the arms of exec alone; safe. -/
  | notModelled (mnemonic : String)
deriving DecidableEq, Repr

/-- A general register: 128 bits, the tag and the poison bit (R11). -/
structure Val where
  bits   : QWord
  tag    : Bool
  poison : Bool
deriving DecidableEq, Repr

/-- Memory by location: bytes, tagged quadwords, poisoned doublewords (R194, R63). Each list is strictly rising; no byte
is listed that equals what an unlisted byte reads as. -/
structure Memory where
  cells  : List Host.Cell
  tags   : List Nat
  poison : List Nat
deriving DecidableEq, Repr

/-- What a register of g16 to g31 is bound to (R203 to R207). -/
inductive Binding where
  | gen (cap : Val) (count : BitVec 32) (stride : BitVec 24) (write desc : Bool) (esz : BitVec 3) (x : Nat)
  | queue (q : BitVec 2) (pop : Bool)
  | link (out fwd : Bool)
deriving DecidableEq, Repr

/-- Which stream issues an instruction of a core: its two agents (R66, R73). -/
inductive Stream where
  | control | body
deriving DecidableEq, Repr

/-- A store waiting in a core's store buffer (R70, R80): location, width in bytes, value, poison, tag, whether it allocates its
global line, and the scope of the release that it is after a FENCE.REL (R89). -/
structure StoreEntry where
  loc    : Nat
  bytes  : Nat
  value  : QWord
  poison : Bool
  tag    : Bool
  alloc  : Bool
  rel    : Option Scope
deriving DecidableEq, Repr

/-- A store that has left the buffer of core `core` and has not yet performed at the agent that serves it (R88). -/
structure Flight where
  core  : Nat
  store : StoreEntry
deriving DecidableEq, Repr

/-- A load that has performed ahead of its instruction, before earlier accesses of its agent (R88): the stream that it belongs to, the
location and width, what it returned, whether it fills its line (R18), and the step in which it performed. -/
structure Early where
  stream : Stream
  loc    : Nat
  bytes  : Nat
  value  : Nat
  poison : Bool
  tag    : Bool
  alloc  : Bool
  tick   : Nat
deriving DecidableEq, Repr

/-- A rule of a partition's pattern book as a panel's pattern cache holds it (R109, R112): its four doublewords. -/
structure BookLine where
  part  : Nat
  index : Nat
  words : List DWord
deriving DecidableEq, Repr

/-- A global line of 32 bytes held in a data cache (R17, R18). -/
structure Line where
  line   : Nat
  holder : Nat
  dirty  : Bool
deriving DecidableEq, Repr

/-- An entry of a fitting cache (R111). -/
structure FitEntry where
  handle : BitVec 16
  region : BitVec 10
  perms  : BitVec 4
  depth  : Nat
  prins  : List Nat
deriving DecidableEq, Repr

/-- An entry of a translation cache (R324). -/
structure PtcEntry where
  part  : Nat
  page  : Nat
  frame : Nat
  r     : Bool
  w     : Bool
  scrub : Bool
deriving DecidableEq, Repr

/-- A counter (R42), and the parent under which BARLINK has registered it (R45). -/
structure Counter where
  reload : BitVec 32
  count  : BitVec 32
  hen    : Bool
  pen    : Bool
  phase  : Bool
  prio   : BitVec 2
  pctr   : BitVec 6
  pcore  : BitVec 20
  ovr    : Bool
  chain  : BitVec 16
  pc     : BitVec 12
  arg    : DWord
  work   : DWord
  pend   : BitVec 16
  ltag   : BitVec 16
  parent : Option (Nat × Nat)
deriving DecidableEq, Repr

/-- A sampling slot (R237, R238). -/
structure SampleSlot where
  armed    : Bool
  tag      : BitVec 32
  expect   : BitVec 16
  cls      : BitVec 6
  prio     : BitVec 2
  best     : Option (BitVec 32 × BitVec 32)
  count    : BitVec 32
  complete : Bool
  chain    : BitVec 16
  ltag     : BitVec 16
  work     : DWord
deriving DecidableEq, Repr

/-- A watermark channel (R97): `got` holds the delivered byte ranges of [B, B + LEN) as rising disjoint intervals, from
which the reorder bitmap is read. -/
structure Watermark where
  base    : BitVec 15
  len     : BitVec 16
  w       : Nat
  got     : List (Nat × Nat)
  stopped : Bool
deriving DecidableEq, Repr

/-- An input channel of local-time mode (R231, R281). -/
structure InChan where
  valid : Bool
  la    : BitVec 16
  mod   : BitVec 12
  core  : BitVec 20
  last  : DWord
  seq   : BitVec 32
deriving DecidableEq, Repr

/-- An output channel of local-time mode (R231), and the initiators whose probes it has carried (R288). -/
structure OutChan where
  valid : Bool
  la    : BitVec 16
  mod   : BitVec 12
  core  : BitVec 20
deriving DecidableEq, Repr

/-- Local-time state of a core (R231, R286, R288): `seen` counts the rounds since S last changed (the start of blocking
is one), `record` holds the initiators whose probes have been sent with the channels that carried them. -/
structure LocalTime where
  on        : Bool
  clock     : DWord
  promise   : DWord
  ins       : Vector InChan 8
  outs      : Vector OutChan 8
  blocked   : Option Nat
  rounds    : Nat
  seen      : Nat
  record    : List (Nat × List Nat)
  pending   : Option Nat
deriving DecidableEq, Repr

/-- Where an event-queue entry stands (R280, R282, R284). -/
inductive EvPhase where
  | waiting | ready | late
deriving DecidableEq, Repr

/-- An entry of the event queue: the message, its channel sequence (R281) and where it stands. -/
structure EvEntry where
  msg   : Msg
  seq   : BitVec 32
  phase : EvPhase
deriving DecidableEq, Repr

/-- What starts a task (R31): an inbox slot, a counter, a sampling slot, an event-queue entry. -/
inductive Trigger where
  | slot (i : Nat)
  | counter (k : Nat)
  | sample (i : Nat)
  | event (i : Nat)
deriving DecidableEq, Repr

/-- Work in a priority queue with the cycle at which it joined that queue (R53, R54). -/
structure QItem where
  what  : Trigger
  since : Nat
deriving DecidableEq, Repr

/-- Kernel work of a core (R53). -/
inductive KWork where
  | system (slot : Nat)
  | undelivered (m : Msg) (refusals : Nat) (why : Reason)
  | reply (tag : BitVec 12) (retry : Bool)
  | preempt
  | zerola (initiator : Nat)
deriving DecidableEq, Repr

/-- The kind of an engine command (R255 to R258, R236, R235). -/
inductive EngKind where
  | cpy | gather | scatter | fill
  | ckpt (dsd : Nat) (slot : Nat) (pos : BitVec 16)
  | restore
deriving DecidableEq, Repr

/-- An engine command as it is sent: its capabilities, geometry, completion, and the chain, partition, launch tag and
price it carries (R255 to R257, R119). -/
structure EngCmd where
  kind   : EngKind
  core   : Nat
  part   : Nat
  chain  : BitVec 16
  ltag   : BitVec 16
  work   : DWord
  eng64  : BitVec 16
  src    : QWord
  dst    : QWord
  desc   : QWord
  rows   : Nat
  rowLen : Nat
  idxOff : DWord
  sStep  : Nat
  dStep  : Nat
  remote : Option (BitVec 12)
  wmen   : Bool
  chan   : BitVec 2
  cen    : Bool
  cctr   : BitVec 6
  ccore  : BitVec 20
  mbox   : Option Nat
deriving DecidableEq, Repr

/-- Where one copy of a sent message stands (R39 to R41). -/
inductive CopyPhase where
  | ready
  | nacked (why : Reason)
  | waiting (due : Nat)
deriving DecidableEq, Repr

/-- One copy of a message that waits for its destination to accept it (R39, R220). -/
structure Copy where
  dmod     : BitVec 12
  dcore    : BitVec 20
  refusals : Nat
  phase    : CopyPhase
deriving DecidableEq, Repr

/-- What a send-buffer entry holds (R38). -/
inductive SendBody where
  | msg (m : Msg)
  | launch (die : Nat) (ltag : BitVec 16) (words : List DWord)
  | engine (e : EngCmd)
deriving DecidableEq, Repr

/-- An entry of a send buffer (R38, R39): its place in the release order, whether END has released it, its copies, and
for a task that balancing moves the inbox slot where it keeps its place until the neighbour has taken it (R57). -/
structure SendEntry where
  order    : Nat
  released : Bool
  body     : SendBody
  copies   : List Copy
  back     : Option Nat
deriving DecidableEq, Repr

/-- A piece of a command that has been read and not yet written (R66, R94): its first byte and length, what was read with its poison, and
its destination; none in another module. -/
structure HeldPiece where
  start  : Nat
  len    : Nat
  value  : Nat
  poison : Bool
  loc    : Option Nat
deriving DecidableEq, Repr

/-- A command that a streamer runs (R258): the streamer's key, whether it has begun (R94), the pieces in flight, the bytes done as rising
disjoint intervals, the cause with which it fails and whether it has finished. The page requests hold the pieces that are set aside (R325). -/
structure EngJob where
  cmd      : EngCmd
  streamer : Nat
  begun    : Bool
  held     : List HeldPiece
  done     : List (Nat × Nat)
  failed   : Option Nat
  finished : Bool
deriving DecidableEq, Repr

/-- The operand latch (R244): row k, column j at 8 k + j, and a poison bit for each row. -/
structure Latch where
  vals   : Vector (BitVec 19) 512
  poison : BitVec 64
deriving DecidableEq, Repr

/-- An exact partial sum of a matrix command: the sum in units of 2^-300 and the status bits RANGE, NINF, PINF, NAN. -/
structure Partial where
  sum    : Int
  status : BitVec 4
deriving DecidableEq, Repr

/-- An MMA in a core's queue (R248): its descriptors as they stood at issue, the steps of which all operands have been read, the operand
elements read so far, and, once every operand has been read, the sums and the 16-byte parts of its records that are still to be written
(R66, R77). -/
structure Mma where
  wa     : QWord
  wc     : QWord
  offs   : DWord
  spec   : DWord
  ks     : Nat
  step   : Nat
  got    : List (Nat × BitVec 19)
  sums   : List Partial
  range  : Bool
  poison : Bool
  parts  : Option (List (Nat × QWord × Bool))
deriving DecidableEq, Repr

/-- The elements that a BLOAD has read before it fills the latch (R249, R77, R129): the stream that issues it, its window, row, column and
number of rows, and for each element its number, its value, whether its decoding raised RG, and its poison. -/
structure LatchRead where
  stream : Stream
  win    : QWord
  row    : Nat
  col    : Nat
  k      : Nat
  got    : List (Nat × BitVec 19 × Bool × Bool)
deriving DecidableEq, Repr

/-- A matrix command in a core's queue (R245): an MMA, a BROT with the time at which it reached the head and whether it has sent its
image, an MXSPILL. The time is a cycle and the cycles of trap service that the seam had counted then (R252). -/
inductive MxOp where
  | mma (m : Mma)
  | brot (head : Option (Nat × Nat)) (sent : Bool)
  | spill
deriving DecidableEq, Repr

/-- A tile slot of a seam's engine in use (R244): its number, the TCM offset of the record that it mirrors, whether it is dirty. -/
structure TileSlot where
  index : Nat
  tile  : Nat
  dirty : Bool
deriving DecidableEq, Repr

/-- The engine of a seam (R251, R252): the core that the arbiter visits, by its place in the ring, the steps that this visit may
still issue, and the cycles counted so far during which some core of the seam was in kernel trap service. -/
structure Seam where
  served  : Nat
  left    : Nat
  service : Nat
deriving DecidableEq, Repr

/-- A queued matrix command: its operation, the task that issued it, its chain and launch tag, and its PC and SUB
(R246, R247). -/
structure MxCmd where
  op    : MxOp
  task  : Nat
  chain : BitVec 16
  ltag  : BitVec 16
  cpc   : BitVec 12
  sub   : BitVec 4
deriving DecidableEq, Repr

/-- A captured body instruction: its PC, its bits and its length in parcels. -/
structure BodyInsn where
  pc   : BitVec 12
  bits : BitVec 32
  long : Bool
deriving DecidableEq, Repr

/-- A trap of the control stream that waits for the end of the iteration in progress (R86): cause, EVAL, pc, the tag of its page
request and the DSD that a FRAME names. -/
structure Stored where
  cause : Nat
  eval  : DWord
  pc    : BitVec 12
  tag   : Option (BitVec 12)
  dsd   : Option DWord
deriving DecidableEq, Repr

/-- A repetition (R210 to R214): capturing its body or running it. `stop` holds the control stream's trap while the
iteration in progress finishes (R86). -/
structure Rep where
  base      : BitVec 5
  size      : Nat
  count     : DWord
  body      : List BodyInsn
  capturing : Bool
  iter      : Nat
  pos       : Nat
  stop      : Option Stored
deriving DecidableEq, Repr

/-- A routine that a core has installed (R157, R318). -/
structure Routine where
  index   : Byte
  imemOff : Nat
  nparc   : Nat
  tb      : Nat
  rbytes  : Nat
  region  : BitVec 10
  windows : Vector QWord 16
deriving DecidableEq, Repr

/-- The running task (R31, R32): what started it, its number, its routine data capability, its work identifier, launch
tag, envelope and message identifier, the inbox slot and length of a CODE message, whether it may be re-run, the cycle
it started at. -/
structure Task where
  trigger : Trigger
  number  : Nat
  rgn     : Val
  work    : DWord
  ltag    : BitVec 16
  msrc    : DWord
  emsg    : DWord
  code    : Option (Nat × Nat)
  restart : Bool
  started : Nat
deriving DecidableEq, Repr

/-- The trap that the kernel is serving (R61, R374): its cause, what started the task, whether its handler may be
re-run, its launch tag, chain, work identifier, EVAL, the tag of the page request it made, and what the FRAME disposition needs. [log 5 DEDUCED] -/
structure Service where
  cause   : Nat
  trigger : Trigger
  restart : Bool
  ltag    : BitVec 16
  chain   : BitVec 16
  work    : DWord
  eval    : DWord
  reqTag  : Option (BitVec 12)
  dsd     : Option DWord
deriving DecidableEq, Repr

/-- An SC operation of a core (R84): the stream that issued it, the function, the location, the operand, the window it was presented
in and the result once it has been applied. -/
structure ScOp where
  stream : Stream
  fn     : Nat
  loc    : Nat
  val    : DWord
  poison : Bool
  window : Option Nat
  result : Option Val
deriving DecidableEq, Repr

/-- An RREAD that waits for its module (R222). -/
structure RReadWait where
  mod    : BitVec 12
  addr   : DWord
  answer : Option RReadAnswer
deriving DecidableEq, Repr

/-- Special registers of a core (R262, R263) and the last fetched instruction. `km` is STATUS.KM, `nest` STATUS.NEST.
`kmeter` is the meter of kernel-bank work (R119). -/
structure Csrs where
  fflags  : BitVec 6
  rmode   : BitVec 2
  meter   : DWord
  kmeter  : DWord
  budget  : BitVec 25
  instret : DWord
  sbudget : BitVec 25
  km      : Bool
  nest    : Bool
  tvec    : BitVec 12
  epc     : DWord
  ecause  : DWord
  eval    : DWord
  emsg    : DWord
  echn    : DWord
  price0  : DWord
  price1  : DWord
deriving DecidableEq, Repr

/-- A core (R10, R11): `out` is set once it has been taken out of service (R62), `stalled` while its last attempt to
run had to wait, `early` holds the loads that have performed ahead of their instructions, `deps` for each register the step in which the
latest load that its value comes from performed, `loadAt` that of the running instruction's own loads (R88), `marked` the streams whose
access waits on a watermark (R97), `pendRel` and `bodyRel` the release that a FENCE.REL of the control stream and of the body has left
to its agent's next store (R89), `parked` holds the starts that the kernel has parked with their page-request tags (R327), `install` the images that
wait for a task boundary by partition, routine and install (R318). -/
structure Core where
  regs     : Vector Val 32
  kregs    : Vector Val 32
  pc       : BitVec 12
  kpc      : BitVec 12
  chn      : DWord
  csr      : Csrs
  insn     : BitVec 32
  stream   : Stream
  turn     : Stream
  task     : Option Task
  svc      : Option Service
  out      : Bool
  stalled  : Bool
  resetAt  : Nat
  tasks    : Nat
  binds    : List (Nat × Binding)
  rep      : Option Rep
  aqs      : Vector (List Val) 4
  link     : List Val
  stores   : List StoreEntry
  early    : List Early
  deps     : Vector Nat 32
  loadAt   : Nat
  marked   : List Stream
  pendRel  : Option Scope
  bodyRel  : Option Scope
  counters : Vector Counter 64
  handlers : Vector DWord 64
  windows  : Vector QWord 16
  tblA     : Vector (BitVec 19) 256
  tblB     : Vector (BitVec 19) 256
  fit      : List FitEntry
  wms      : Vector Watermark 4
  samples  : Vector SampleSlot 64
  lt       : LocalTime
  inbox    : Vector (Option Msg) 32
  parked   : List (Trigger × BitVec 12)
  evq      : Vector (Option EvEntry) 64
  queues   : Vector (List QItem) 4
  kwork    : List KWork
  sendBuf  : List SendEntry
  ni       : List SendEntry
  sendNo   : BitVec 16
  orders   : Nat
  latch    : Latch
  inbound  : Option Latch
  loading  : Option LatchRead
  mxq      : List MxCmd
  slots    : List TileSlot
  weight   : BitVec 4
  mxFault  : Option DWord
  sc       : Option ScOp
  rread    : Option RReadWait
  unpick   : Option (Nat × BitVec 2)
  routines : List Routine
  install  : List (Nat × Byte × Nat)
  reported : List (Nat × Nat)
  hold     : Option (BitVec 16 × DWord)
  discards : Nat
deriving DecidableEq, Repr

/-- A decrement on its way to a counter (R43). -/
structure Decrement where
  core : Nat
  ctr  : Nat
  by_  : Nat
  ltag : BitVec 16
deriving DecidableEq, Repr

/-- An unpick or a book flush that is outstanding in the module (R112, R113): `prin` is none for a book flush. -/
structure Unpick where
  id        : Nat
  part      : Nat
  prin      : Option Nat
  issuer    : Option Nat
  presented : Bool
  received  : List Nat
  peers     : List (BitVec 12)
deriving DecidableEq, Repr

/-- A failure report on its way to a front end (R317). -/
structure Report where
  part  : Nat
  ltag  : BitVec 16
  kind  : Nat
  cause : Nat
deriving DecidableEq, Repr

/-- A queue window (R307). -/
structure QWindow where
  widx   : BitVec 32
  ridx   : BitVec 32
  tokens : DWord
  fidx   : BitVec 32
  reason : Byte
  err    : Bool
  part   : Byte
deriving DecidableEq, Repr

/-- A ring slot that has been taken while an older one has not, by its index; RIDX passes it later (R312). -/
structure TakenSlot where
  queue : Nat
  index : BitVec 32
deriving DecidableEq, Repr

/-- What a taken packet still waits for (R311): the install of an image on every core, the launches that name a routine to
be uninstalled, a store under a chain whose translation waits (STAMP has no value of its own). -/
inductive PendBody where
  | install (routine : Byte) (job : Nat)
  | uninstall (routine : Byte) (tags : List (BitVec 16))
  | store (chain : BitVec 16) (addr : DWord) (value : Option DWord)
deriving DecidableEq, Repr

/-- The packet of a launch or of a pending action: its queue and ring index, none for a packet of a device queue, and its
SET mask (R311, R312). -/
structure Packet where
  slot : Option (Nat × BitVec 32)
  set  : DWord
  part : Nat
deriving DecidableEq, Repr

/-- A taken packet that has not completed and is no launch (R311). -/
structure Pending where
  packet : Packet
  body   : PendBody
deriving DecidableEq, Repr

/-- What a front end's access waits for a page for (R308, R311, R317, R318, R297): a ring slot or an image of a queue, a
WRITE or STAMP, a completion record, a `stream` key. -/
inductive FrontWait where
  | slot (queue : Nat) (index : BitVec 32)
  | image (queue : Nat) (index : BitVec 32)
  | store (queue : Nat) (index : BitVec 32)
  | record (part : Nat) (tag : BitVec 16)
  | key (part : Nat) (tag : BitVec 16)
deriving DecidableEq, Repr

/-- The `stream` key of a launch (R297): the storage's address and length, and the address of the DSD. -/
structure StreamKey where
  s : DWord
  l : Nat
  d : DWord
deriving DecidableEq, Repr

/-- A launch (R47, R313 to R317, R339, R340): its tag, what its tasks carry, how many identifiers there are and the next to
send, where its completion goes, its packet and what has been reported of it. `held` keeps a launch whose `stream` key is
not settled; `post` holds the owner and the payload of a POST; a COPY has no identifiers; `aside` holds the panels whose saved
context holds parts of it (R333), `rtag` the region tag of its routine. -/
structure Launch where
  tag     : BitVec 16
  part    : Nat
  die     : Nat
  chain   : BitVec 16
  routine : Byte
  cls     : BitVec 6
  prio    : BitVec 2
  prog    : BitVec 2
  gang    : Nat
  budget  : BitVec 25
  widths  : List Nat
  levels  : List Nat
  extents : List Nat
  total   : Nat
  next    : Nat
  held    : Bool
  stream  : Option StreamKey
  post    : Option (Nat × List DWord)
  cap     : Option QWord
  revoke  : Bool
  arg     : Option QWord
  done    : DWord
  packet  : Packet
  nfail   : Nat
  first   : Nat
  cause   : Nat
  status  : Nat
  aside   : List Nat
  rtag    : BitVec 10
deriving DecidableEq, Repr

/-- A routine of a partition as its front end knows it (R318): its image, its ranges and classes, whether it has been
installed on every core (`ready`) and whether an UNINSTALL has been taken (`gone`). -/
structure RoutineInfo where
  routine : Routine
  image   : DWord
  bytes   : Nat
  classes : List (Nat × DWord)
  ready   : Bool
  gone    : Bool
deriving DecidableEq, Repr

/-- A page request that is outstanding or held (R325): its tag once given, the record's words, who asked for it. -/
structure PageReq where
  tag   : Option (BitVec 12)
  words : List DWord
  page  : Nat
  wr    : Bool
  cores : List Nat
  jobs  : List (Nat × Nat)
  front : List FrontWait
deriving DecidableEq, Repr

/-- The context command of a partition (R333): none, a save that waits, a restore. -/
inductive Context where
  | idle | saving | restoring
deriving DecidableEq, Repr

/-- A partition block (R328, R371), with G1ROOT as walks use it until the next XLFLUSH, the second copy of WAYMASK
(R330), the next reply to read, its page requests, routines and launches, the thimbles that its cores hold (R273), its
context, whether it is being terminated (R367) or will be once its SAVE has completed (R373). -/
structure Part where
  en        : Bool
  s2root    : DWord
  g1root    : DWord
  g1live    : DWord
  psbase    : DWord
  ptbase    : DWord
  ptcount   : BitVec 24
  ctbase    : DWord
  pbbase    : DWord
  pbcount   : BitVec 16
  acbase    : DWord
  bookflush : Bool
  xlflush   : Bool
  waymask   : DWord
  waymask2  : DWord
  price0    : DWord
  price1    : DWord
  prqbase   : DWord
  prqwidx   : BitVec 32
  prqlog    : BitVec 5
  prqridx   : BitVec 32
  rpbase    : DWord
  rpwidx    : BitVec 32
  rpridx    : BitVec 32
  rplog     : BitVec 5
  peerbase  : DWord
  peercount : BitVec 16
  sabase    : DWord
  context   : Context
  out       : Bool
  featcopy  : DWord
  dmbase    : DWord
  dmen      : Bool
  reqs      : List PageReq
  routines  : List RoutineInfo
  zeroMap   : List (Nat × List Nat)
  holders   : List (Nat × Msg)
  dying     : Bool
  doomed    : Bool
deriving DecidableEq, Repr

/-- What a panel command does (R331), or the retirement of a panel (R366). -/
inductive PanelOp where
  | remove | add | retire
deriving DecidableEq, Repr

/-- A panel command (R329, R331): whether it has begun, its panel being out of the core list from then on, whether it has
come to fill the panel, the images being installed, and the STAMP clock at which it was given, a retirement's detection (R365, R366). -/
structure PanelCmd where
  part  : Nat
  op    : PanelOp
  panel : Nat
  begun : Bool
  fill  : Bool
  since : DWord
deriving DecidableEq, Repr

/-- A time-share group (R369). -/
structure Group where
  en        : Bool
  slice     : BitVec 32
  ents      : Vector (Bool × BitVec 6) 8
  gsbase    : DWord
  switching : Bool
  cur       : BitVec 3
  since     : Nat
deriving DecidableEq, Repr

/-- A line of a die's memory-side cache that is tracked (R330, R367). -/
structure MscLine where
  line  : Nat
  way   : Nat
  owner : Byte
  dirty : Bool
deriving DecidableEq, Repr

/-- A way of a die's memory-side cache that is being emptied (R367 step 4), with what the record of its event holds: the line that
failed, the class, the owner tag read and the partitions terminated. -/
structure WayWalk where
  way   : Nat
  since : DWord
  line  : Nat
  cls   : Nat
  owner : Byte
  term  : List Nat
deriving DecidableEq, Repr

/-- A die window and the die's own units (R309, R329, R365, R369): run lists with their walkers, the packets a walker
may still take at its block and the WIDX that it has read there (R321), panel commands, the scrub queue, occupants, owners, walkers' serial numbers, errors with the
cycles of each unit's transients and the records that wait for the partitions they name to end (R364, R367), groups, the front end's and the duplex home's outgoing messages and send numbers, the cycle at which the die was reset. -/
structure Die where
  lhead    : Vector DWord 4
  wcur     : Vector DWord 4
  quota    : Vector Nat 4
  seen     : Vector (BitVec 32) 4
  cmds     : List PanelCmd
  mscways  : BitVec 5
  sqbase   : DWord
  sqwidx   : BitVec 32
  sqlog    : BitVec 5
  sqridx   : BitVec 32
  sqdone   : List (BitVec 32)
  demand   : List Nat
  occ      : List (Nat × BitVec 6)
  owner    : List (Nat × BitVec 6)
  serials  : List (Nat × BitVec 32)
  errbase  : DWord
  errwidx  : BitVec 32
  errlog   : BitVec 5
  errridx  : BitVec 32
  waydis   : BitVec 16
  corrcnt  : BitVec 32
  transcnt : BitVec 32
  lastcnt  : BitVec 32
  lost     : BitVec 32
  trans    : List (Nat × List Nat)
  recs     : List (List Nat × List DWord)
  filter   : Vector (Bool × BitVec 32) 64
  spent    : BitVec 64
  discol   : List (Nat × BitVec 7)
  dead     : List Nat
  groups   : Vector Group 16
  msc      : List MscLine
  walks    : List WayWalk
  devq     : List (Nat × List DWord)
  fe       : List SendEntry
  feNo     : BitVec 16
  home     : List SendEntry
  homeNo   : BitVec 16
  orders   : Nat
deriving DecidableEq, Repr

/-- A training block (R358): `result` is what an OP has found before it reports it, `passed` the last step of the sequence
that has passed, `wrote` which of RES0 to RES5 have been written since, `online` whether the channel or link has been
handed over, `fails` the attempts that have failed. -/
structure Train where
  go     : Bool
  arg    : Byte
  op     : Byte
  done   : Bool
  pass   : Bool
  margin : BitVec 16
  errs   : BitVec 32
  res    : Vector DWord 6
  result : Option (Bool × BitVec 16 × BitVec 32)
  passed : Nat
  wrote  : BitVec 6
  online : Bool
  fails  : Nat
deriving DecidableEq, Repr

/-- A rail (R355). -/
structure Rail where
  pgood : Bool
  fault : Bool
  vset  : BitVec 16
  en    : Bool
deriving DecidableEq, Repr

/-- Where a flint stands (R353); `rom` while die 0's flint runs the mask ROM (R343), `recover` while it waits for a
recovery image (R345). -/
inductive FlintState where
  | held | rom | recover | running | halted | failed
deriving DecidableEq, Repr

/-- The fuses that can be blown (R343, R346) and IDCTR. -/
structure Fuses where
  keyhash   : Vector (BitVec 256) 4
  keyrev    : BitVec 5
  ownerlock : Bool
  minsvn    : DWord
  idctr     : Nat
deriving DecidableEq, Repr

/-- A request that waits at the security block (R347, R363): an extend with its datum, a quote and whether the management
interface asked for it. -/
inductive SecReq where
  | extend (i : BitVec 3) (d : BitVec 256)
  | quote (mgmt : Bool)
deriving DecidableEq, Repr

/-- The security block (R347 to R351). `tree` holds the lower tree in use and its next leaf (R350), `queue` the extends and quotes in
the order in which they came, `fgo` GO of FUSECMD, `entry` ENTRY of the stage-1 image, `images` the flash offset and the KIND of
every image that stage 1 has loaded (R348, R352). -/
structure Security where
  meas     : Vector (BitVec 256) 8
  mcount   : Vector (BitVec 32) 8
  mextdata : BitVec 256
  idx      : BitVec 3
  merr     : Bool
  lock     : Byte
  fuselock : Bool
  field    : BitVec 6
  index    : BitVec 16
  qnonce   : BitVec 256
  qgo      : Bool
  qdone    : Bool
  qok      : Bool
  qreason  : Byte
  qbuf     : List Byte
  boot     : DWord
  featmpa  : DWord
  tree     : Option (Nat × Nat)
  svn      : BitVec 32
  keyslot  : BitVec 3
  recover  : Bool
  queue    : List SecReq
  fgo      : Bool
  entry    : BitVec 12
  images   : List (Nat × Nat)
deriving DecidableEq, Repr

/-- What comes about in the module without a row of the table of events: a read of a register or of a function's configuration space,
a write to the recovery buffer (R345), what a sensor or a memory reports (R364, R372), an acknowledgement of another module's
(R113), a line of a way that is being emptied (R367), a load that performs early (R88), an operand element that a BLOAD reads (R249), the stream of a core that issues next (R75),
and the steps of the shipped stage 1 (R352). -/
inductive Input where
  | registerRead (agent : RegAgent) (off : Nat)
  | configRead (fn : Nat) (off : Nat)
  | recoveryWrite (off : Nat) (v : DWord)
  | temperature (die : Nat) (v : BitVec 12)
  | corrected (die : Nat)
  | lineRetried (die line : Nat)
  | tagRetried (die line : Nat)
  | peerAck (unpick : Nat) (m : BitVec 12)
  | wayStep (die : Nat)
  | earlyLoad (core : Nat) (st : Stream) (ea : DWord) (bytes : Nat) (alloc : Bool)
  | latchRead (core : Nat) (st : Stream) (x : Nat)
  | turn (core : Nat) (st : Stream)
  | stage
  | stagePanel (panel : Nat)
  | stageImage (flashOff kind : Nat)
  | stageLoaded
  | flintTrains (d : Nat)
  | stageTrain (d : Nat) (b : TrainBlock) (arg : Byte)
deriving DecidableEq, Repr

/-- Which agent moves next (an input of the model). -/
inductive Agent where
  | event (i : Instr)
  | core (n : Nat)
  | input (x : Input)
deriving DecidableEq, Repr

/-- A write of the hardware's to a partition's table at a guest offset that waits for the scrub of its frame (R332). -/
structure TableWrite where
  part  : Nat
  off   : Nat
  value : DWord
deriving DecidableEq, Repr

/-- The module. `patterns` holds the panels' pattern caches (R10, R112), `posted` the flints' register writes that have left their store
buffers by die, offset and value, `seams` the matrix engines' arbiters. `flitFails` counts the failed retries of the flit that a link carries (R364), `dark` stands once a rail's FAULT
has powered the module down (R355). -/
structure State where
  agenda  : List Agent
  waiting : Bool
  tick    : Nat
  clock   : Nat
  ref24   : Nat
  epoch   : Nat
  focus   : Nat
  core    : Core
  others  : List (Nat × Core)
  mem     : Memory
  flight  : List Flight
  lines   : List Line
  decs    : List Decrement
  flips   : List (Nat × Nat)
  jobs    : List EngJob
  unpicks : List Unpick
  nextId  : Nat
  reports : List Report
  hemWait : List (Nat × Nat)
  queues  : List (Nat × QWindow)
  taken   : List TakenSlot
  pending : List Pending
  launches : List Launch
  parts   : List (Nat × Part)
  dies    : Vector Die 4
  ptcs    : List (Nat × List PtcEntry)
  patterns : List (Nat × List BookLine)
  posted  : List (Nat × Nat × DWord)
  tableWrites : List TableWrite
  seams   : List (Nat × Seam)
  strFit  : List (Nat × List FitEntry)
  modnum  : BitVec 12
  reach   : List (BitVec 12)
  hostIn  : Option Val
  sentOut : List RReadAnswer
  flints  : Vector FlintState 4
  flash   : List Byte
  fuses   : Fuses
  sec     : Security
  rails   : Vector Rail 9
  clkCur  : BitVec 2
  clkReq  : BitVec 2
  clkTo   : BitVec 2
  clkBusy : Bool
  pwrlim  : BitVec 12
  pwrnow  : BitVec 12
  throt   : BitVec 32
  rate    : Nat
  temps   : Vector (BitVec 12) 4
  trains  : List (TrainBlock × Train)
  porten  : BitVec 18
  flitFails : List (Nat × Nat)
  brixDown : Bool
  dark     : Bool
deriving DecidableEq, Repr

/-- A clean untagged register of zero (R32). -/
def Val.zero : Val := ⟨0, false, false⟩

/-- Clean data of 64 bits: bits [127:64] zero, untagged (R172). -/
def Val.ofDWord (x : DWord) (poison : Bool) : Val := ⟨x.setWidth 128, false, poison⟩

/-- Memory with nothing listed. [log 3 DESIGN CHOICE] -/
def Memory.empty : Memory := ⟨[], [], []⟩

/-- A counter at its reset values (R42). -/
def Counter.zero : Counter :=
  ⟨0, 0, false, false, false, 0, 0, 0, false, 0, 0, 0, 0, 0, 0, none⟩

/-- A sampling slot that is not armed. -/
def SampleSlot.zero : SampleSlot := ⟨false, 0, 0, 0, 0, none, 0, false, 0, 0, 0⟩

/-- A disarmed watermark channel. -/
def Watermark.zero : Watermark := ⟨0, 0, 0, [], false⟩

/-- An input channel that is not declared (R231). -/
def InChan.zero : InChan := ⟨false, 0, 0, 0, 0, 0⟩

/-- An output channel that is not declared (R231). -/
def OutChan.zero : OutChan := ⟨false, 0, 0, 0⟩

/-- Local-time state at core reset (R231). -/
def LocalTime.zero : LocalTime :=
  { on := false, clock := 0, promise := 0, ins := Vector.replicate 8 InChan.zero,
    outs := Vector.replicate 8 OutChan.zero, blocked := none, rounds := 0, seen := 0, record := [],
    pending := none }

/-- The operand latch at core reset: every value +0 (R244). -/
def Latch.zero : Latch := ⟨Vector.replicate 512 0, 0⟩

/-- PRICE0 at reset: MXSTEP 64, MSG 8, GMEM 4, INSN 1 (R117). -/
def price0Reset : DWord := 0x0040000800040001

/-- PRICE1 at reset: ADOPT 16, ENG64 1 (R117). -/
def price1Reset : DWord := 0x0000000000100001

/-- The special registers at core reset (R117, R125, R126, R262, R263). [log 2 DESIGN CHOICE] -/
def Csrs.reset : Csrs :=
  { fflags := 0, rmode := 0, meter := 0, kmeter := 0, budget := 0, instret := 0, sbudget := 0x1000000,
    km := false, nest := false, tvec := 0, epc := 0, ecause := 0, eval := 0, emsg := 0, echn := 0,
    price0 := price0Reset, price1 := price1Reset }

/-- A core at core reset: idle, with empty queues, buffers and caches (R10, R42, R36, R206, R244). [log 2 DESIGN CHOICE] -/
def Core.reset : Core :=
  { regs := Vector.replicate 32 Val.zero, kregs := Vector.replicate 32 Val.zero, pc := 0, kpc := 0, chn := 0,
    csr := Csrs.reset, insn := 0, stream := .control, turn := .control, task := none, svc := none, out := false,
    stalled := false, resetAt := 0, tasks := 0, binds := [], rep := none, aqs := Vector.replicate 4 [], link := [],
    stores := [], early := [], deps := Vector.replicate 32 0, loadAt := 0, marked := [], pendRel := none, bodyRel := none, counters := Vector.replicate 64 Counter.zero, handlers := Vector.replicate 64 0,
    windows := Vector.replicate 16 0, tblA := presetA, tblB := presetB, fit := [],
    wms := Vector.replicate 4 Watermark.zero, samples := Vector.replicate 64 SampleSlot.zero, lt := LocalTime.zero,
    inbox := Vector.replicate 32 none, evq := Vector.replicate 64 none, queues := Vector.replicate 4 [], kwork := [], parked := [],
    sendBuf := [], ni := [], sendNo := 0, orders := 0, latch := Latch.zero, inbound := none, loading := none, mxq := [], slots := [], weight := 1,
    mxFault := none, sc := none, rread := none, unpick := none, routines := [], install := [], reported := [],
    hold := none, discards := 0 }

/-- A flint at reset: a core that runs in kernel mode only (R343). [log 91 DEDUCED] -/
def Core.flintReset : Core := { Core.reset with csr := { Csrs.reset with km := true } }

/-- The number under which the model holds the flint of die `d`, outside the 20-bit core numbers (R343). -/
def flintNo (d : Nat) : Nat := 1048576 + d

/-- A queue window at reset (R307). [log 2 DESIGN CHOICE] -/
def QWindow.zero : QWindow := ⟨0, 0, 0, 0, 0, false, 0⟩

/-- A partition block at reset (R328). [log 2 DESIGN CHOICE] -/
def Part.zero : Part :=
  { en := false, s2root := 0, g1root := 0, g1live := 0, psbase := 0, ptbase := 0, ptcount := 0, ctbase := 0,
    pbbase := 0, pbcount := 0, acbase := 0, bookflush := false, xlflush := false, waymask := 0, waymask2 := 0,
    price0 := price0Reset, price1 := price1Reset, prqbase := 0, prqwidx := 0, prqlog := 0, prqridx := 0, rpbase := 0,
    rpwidx := 0, rpridx := 0, rplog := 0, peerbase := 0, peercount := 0, sabase := 0, context := .idle, out := false,
    featcopy := 0, dmbase := 0, dmen := false, reqs := [], routines := [], zeroMap := [], holders := [], dying := false,
    doomed := false }

/-- A time-share group at reset (R369). [log 2 DESIGN CHOICE] -/
def Group.zero : Group :=
  { en := false, slice := 0, ents := Vector.replicate 8 (false, 0), gsbase := 0, switching := false, cur := 0, since := 0 }

/-- A die window at reset (R309, R329, R365). [log 2 DESIGN CHOICE] -/
def Die.zero : Die :=
  { lhead := Vector.replicate 4 0, wcur := Vector.replicate 4 0, quota := Vector.replicate 4 0, seen := Vector.replicate 4 0, cmds := [],
    mscways := 0, sqbase := 0, sqwidx := 0, sqlog := 0, sqridx := 0, sqdone := [], demand := [], occ := [], owner := [], serials := [],
    errbase := 0, errwidx := 0, errlog := 0, errridx := 0, waydis := 0, corrcnt := 0, transcnt := 0, lastcnt := 0,
    lost := 0, trans := [], recs := [], filter := Vector.replicate 64 (false, 0), spent := 0, discol := [], dead := [],
    groups := Vector.replicate 16 Group.zero, msc := [], walks := [], devq := [], fe := [], feNo := 0, home := [], homeNo := 0,
    orders := 0 }

/-- A training block at reset (R358). [log 2 DESIGN CHOICE] -/
def Train.zero : Train :=
  { go := false, arg := 0, op := 0, done := false, pass := false, margin := 0, errs := 0, res := Vector.replicate 6 0,
    result := none, passed := 0, wrote := 0, online := false, fails := 0 }

/-- Fuses as the model starts with them: none of those that can be blown (R343). -/
def Fuses.blank : Fuses :=
  { keyhash := Vector.replicate 4 0, keyrev := 0, ownerlock := false, minsvn := 0, idctr := 0 }

/-- The security block at module reset (R347, R349). [log 2 DESIGN CHOICE] -/
def Security.zero : Security :=
  { meas := Vector.replicate 8 0, mcount := Vector.replicate 8 0, mextdata := 0, idx := 0, merr := false, lock := 0,
    fuselock := false, field := 0, index := 0, qnonce := 0, qgo := false, qdone := false, qok := false, qreason := 0,
    qbuf := [], boot := 0, featmpa := 0, tree := none, svn := 0, keyslot := 0, recover := false,
    queue := [], fgo := false, entry := 0, images := [] }

/-- The rails at reset: only AON, which the board raises, is enabled; none is in regulation yet (R354, R355). -/
def railsReset : Vector Rail 9 :=
  (Vector.replicate 9 (⟨false, false, 0, false⟩ : Rail)).set 0 ⟨false, false, 0, true⟩

/-- The module after a reset, with the fuses and the boot flash that a reset keeps: die 0's flint runs the mask ROM, the
other flints are held, every core is idle, nothing else has started (R343, R345). [log 2 DESIGN CHOICE] -/
def State.afterReset (fuses : Fuses) (flash : List Byte) : State :=
  { agenda := [], waiting := false, tick := 0, clock := 0, ref24 := 0, epoch := 0, focus := flintNo 0, core := Core.flintReset,
    others := [], mem := Memory.empty, flight := [], lines := [], decs := [], flips := [], jobs := [], unpicks := [],
    nextId := 0, reports := [], hemWait := [], queues := [], taken := [], pending := [], launches := [], parts := [],
    dies := Vector.replicate 4 Die.zero, ptcs := [], patterns := [], posted := [], tableWrites := [], seams := [], strFit := [], modnum := 0, reach := [], hostIn := none,
    sentOut := [], flints := (Vector.replicate 4 FlintState.held).set 0 .rom, flash := flash, fuses := fuses,
    sec := Security.zero, rails := railsReset, clkCur := 3, clkReq := 3, clkTo := 3, clkBusy := false, pwrlim := 3600, pwrnow := 0,
    throt := 0, rate := 64, temps := Vector.replicate 4 0, trains := [], porten := 0x3FFFF, flitFails := [], brixDown := false, dark := false }

/-- The module right after reset (R343), with blank fuses and an empty boot flash. [log 2 DESIGN CHOICE] -/
def State.reset : State := State.afterReset Fuses.blank []

end Sys2Proof.Machine
end

