-- ==== Sys2Proof/Machine/Memory.lean ====
section
/-! DEFINITION. Memory by location: bytes, capability tags and poison marks in one canonical form (R4, R63, R194), and
which memory a location belongs to (R10, R22, R28, R79). -/

namespace Sys2Proof.Machine

/-- What an address that the list does not name reads as: the spec gives memory no reset contents (log 3). [log 3 DESIGN CHOICE] -/
def unlistedByte : Byte := 0

/-- The byte a list of cells holds at an address. -/
def cellsGet (a : Nat) : List Host.Cell → Byte
  | [] => unlistedByte
  | (b, w) :: r => if b = a then w else cellsGet a r

/-- A byte in front of a list of cells, unless it is what an unlisted address reads as. -/
def cellsCons (a : Nat) (v : Byte) (r : List Host.Cell) : List Host.Cell :=
  if v = unlistedByte then r else (a, v) :: r

/-- Cells with one byte written; the form stays canonical. -/
def cellsSet (a : Nat) (v : Byte) : List Host.Cell → List Host.Cell
  | [] => cellsCons a v []
  | (b, w) :: r =>
    if a < b then cellsCons a v ((b, w) :: r)
    else if a = b then cellsCons a v r
    else (b, w) :: cellsSet a v r

/-- A strictly rising list with a number added. -/
def setInsert (a : Nat) : List Nat → List Nat
  | [] => [a]
  | b :: r => if a < b then a :: b :: r else if a = b then b :: r else b :: setInsert a r

/-- A list with a number removed. -/
def setErase (a : Nat) : List Nat → List Nat
  | [] => []
  | b :: r => if a = b then r else b :: setErase a r

/-- Whether cells are strictly rising from `lo` on and list no byte that an unlisted address reads as. -/
def cellsWf : Nat → List Host.Cell → Bool
  | _, [] => true
  | lo, (a, v) :: r => decide (lo ≤ a) && decide (v ≠ unlistedByte) && cellsWf (a + 1) r

/-- Whether numbers are strictly rising from `lo` on. -/
def setWf : Nat → List Nat → Bool
  | _, [] => true
  | lo, a :: r => decide (lo ≤ a) && setWf (a + 1) r

/-- The canonical form of memory. [log 99 DESIGN CHOICE] -/
def Memory.wf (m : Memory) : Bool := cellsWf 0 m.cells && setWf 0 m.tags && setWf 0 m.poison

/-- The byte at a location. -/
def Memory.byte (m : Memory) (a : Nat) : Byte := cellsGet a m.cells

/-- `n` bytes from `a` up, little-endian (R4). -/
def Memory.read (m : Memory) (a : Nat) : Nat → Nat
  | 0 => 0
  | n + 1 => (m.byte a).toNat + 256 * m.read (a + 1) n

/-- One byte written. -/
def Memory.setByte (m : Memory) (a : Nat) (v : Byte) : Memory := { m with cells := cellsSet a v m.cells }

/-- `n` bytes written from `a` up, little-endian (R4). -/
def Memory.write (m : Memory) (a : Nat) : Nat → Nat → Memory
  | 0, _ => m
  | n + 1, v => (m.setByte a (BitVec.ofNat 8 v)).write (a + 1) n (v / 256)

/-- The quadword that holds a location. -/
def quadOf (a : Nat) : Nat := a / 16 * 16
/-- The doubleword that holds a location. -/
def dwordOf (a : Nat) : Nat := a / 8 * 8

/-- Whether the quadword at a location is tagged (R194). -/
def Memory.tagged (m : Memory) (a : Nat) : Bool := m.tags.contains (quadOf a)
/-- Whether the doubleword that holds a location is marked (R63). -/
def Memory.poisoned (m : Memory) (a : Nat) : Bool := m.poison.contains (dwordOf a)

/-- Whether any doubleword of [a, a + n) is marked. -/
def Memory.anyPoison (m : Memory) (a n : Nat) : Bool := m.poison.any fun d => decide (d < a + n) && decide (a < d + 8)

/-- Host memory (R28). -/
def isHost (loc : Nat) : Bool := decide (2 ^ 47 ≤ loc) && decide (loc < 2 ^ 48)

/-- Host memory and IMEM carry neither tags nor marks (R63, R194). -/
def unmarked (loc : Nat) : Bool := isHost loc || decide (2 ^ 53 ≤ loc)

/-- Sets or clears the tag of the quadword at a location. -/
def Memory.setTag (m : Memory) (a : Nat) (t : Bool) : Memory :=
  { m with tags := if t then setInsert (quadOf a) m.tags else setErase (quadOf a) m.tags }

/-- Sets or clears the mark of the doubleword that holds a location. -/
def Memory.setPoison (m : Memory) (a : Nat) (p : Bool) : Memory :=
  { m with poison := if p then setInsert (dwordOf a) m.poison else setErase (dwordOf a) m.poison }

/-- The marks after a store to [a, a + n), doubleword by doubleword from `d` up: a poisoned store marks all it touches, a
clean one clears those it writes whole (R63). -/
def Memory.markStore (m : Memory) (a n : Nat) (p : Bool) (d : Nat) : Nat → Memory
  | 0 => m
  | k + 1 =>
    let touched := decide (d < a + n) && decide (a < d + 8)
    let whole := decide (a ≤ d) && decide (d + 8 ≤ a + n)
    let m' := if touched && p then m.setPoison d true else if whole && !p then m.setPoison d false else m
    m'.markStore a n p (d + 8) k

/-- The tags after a store to [a, a + n) that moves no tag: those of every quadword it touches are cleared (R194). -/
def Memory.untag (m : Memory) (a n : Nat) : Memory :=
  { m with tags := m.tags.filter fun q => !(decide (q < a + n) && decide (a < q + 16)) }

/-- A store of `n` bytes (R63, R194): bytes, marks and tags. `tag` is set for a tag-moving store of a whole quadword. -/
def Memory.store (m : Memory) (a n : Nat) (v : Nat) (p tag : Bool) : Memory :=
  let m := m.write a n v
  let m := (m.untag a n)
  let m := if tag && !unmarked a then m.setTag a true else m
  if unmarked a then m else m.markStore a n p (dwordOf a) (n / 8 + 2)

/-- Zeros over [a, a + n): every byte, tag and mark of the range is gone (R332). -/
def Memory.clear (m : Memory) (a n : Nat) : Memory :=
  { cells := m.cells.filter fun c => !(decide (a ≤ c.1) && decide (c.1 < a + n)),
    tags := m.tags.filter fun q => !(decide (a ≤ q) && decide (q < a + n)),
    poison := m.poison.filter fun d => !(decide (a ≤ d) && decide (d < a + n)) }

/-- Performs a buffered store. -/
def Memory.perform (m : Memory) (e : StoreEntry) : Memory := m.store e.loc e.bytes e.value.toNat e.poison e.tag

/-- Where a core's TCM starts among the locations. -/
def tcmBase (n : Nat) : Nat := 2 ^ 48 + n * 2 ^ 16
/-- Where a panel's scratchpad starts. -/
def spadBase (p : Nat) : Nat := 2 ^ 52 + p * 2 ^ 18
/-- Where a core's IMEM starts. -/
def imemBase (n : Nat) : Nat := 2 ^ 53 + n * 2 ^ 13

/-- A location that is a module physical address. -/
def isMpa (loc : Nat) : Bool := decide (loc < 2 ^ 48)
/-- A location in some core's TCM, and the core. -/
def tcmCore (loc : Nat) : Option Nat :=
  if 2 ^ 48 ≤ loc ∧ loc < 2 ^ 52 then some ((loc - 2 ^ 48) / 2 ^ 16) else none
/-- A location in some panel's scratchpad, and the panel. -/
def spadPanel (loc : Nat) : Option Nat :=
  if 2 ^ 52 ≤ loc ∧ loc < 2 ^ 53 then some ((loc - 2 ^ 52) / 2 ^ 18) else none

/-- The panel of a core (R13). -/
def panelOf (core : Nat) : Nat := core / 64
/-- The die of a panel (R13). -/
def dieOfPanel (p : Nat) : Nat := p / 4096
/-- The die of a core (R13), a flint's included (R343). -/
def dieOfCore (core : Nat) : Nat := if core < 1048576 then core / 262144 else core - 1048576
/-- The seam-mates' ring: the successor of a core (R10). -/
def successor (core : Nat) : Nat := core / 8 * 8 + (core % 8 + 1) % 8
/-- The ring predecessor of a core (R10). -/
def predecessor (core : Nat) : Nat := core / 8 * 8 + (core % 8 + 7) % 8

/-- The GDDR channel of an MPA (R28). -/
def gddrChannel (mpa : Nat) : Nat := (mix64 (BitVec.ofNat 64 (mpa / 256 % 2 ^ 30))).toNat % 128

/-- A kind of home (R28): die SRAM with its die, a GDDR channel, host memory. -/
inductive Home where
  | sram (die : Nat)
  | gddr (channel : Nat)
  | host
deriving DecidableEq, Repr

/-- The home of an MPA, before the memory-side cache takes its part of die SRAM (R28). -/
def rawHome (mpa : Nat) : Option Home :=
  if mpa < 2 ^ 33 then some (.sram (mpa / 2 ^ 31))
  else if 2 ^ 38 ≤ mpa ∧ mpa < 2 ^ 39 then some (.gddr (gddrChannel mpa))
  else if 2 ^ 47 ≤ mpa ∧ mpa < 2 ^ 48 then some .host
  else none

/-- Where register `off` of the physical function stands among the locations, as flint `d` names it (R343). -/
def regLoc (d off : Nat) : Nat := 2 ^ 60 + d * 2 ^ 32 + off
/-- The flint and the offset of a location that names a register. -/
def regAt (loc : Nat) : Option (Nat × Nat) :=
  if 2 ^ 60 ≤ loc then some ((loc - 2 ^ 60) / 2 ^ 32, (loc - 2 ^ 60) % 2 ^ 32) else none

/-- The die whose cores find a location die-local (R79); a core's IMEM counts as its TCM does. [log 111 DESIGN CHOICE] -/
def localDie (loc : Nat) : Option Nat :=
  if isMpa loc then
    match rawHome loc with
    | some (.sram d) => some d
    | _ => none
  else
    match tcmCore loc, spadPanel loc with
    | some n, _ => some (dieOfCore n)
    | _, some p => some (dieOfPanel p)
    | _, _ => if loc < 2 ^ 60 then some (dieOfCore ((loc - 2 ^ 53) / 2 ^ 13)) else none

/-- The global line of an MPA (R17). -/
def lineOf (mpa : Nat) : Nat := mpa / 32 * 32

end Sys2Proof.Machine
end

