-- ==== Sys2Proof/Machine/Chip.lean ====
section
/-! DEFINITION. Reaching the parts of the module's state: cores, dies, partitions, panel sets, the tables that hardware
reads (pages, principals, chains, patterns, accounts), interning and the split of a meter (R48 to R50, R100 to R119, R322
to R330). -/

namespace Sys2Proof.Machine

/-- The value under a key of a sparse table. -/
def alookup {α : Type} (k : Nat) : List (Nat × α) → Option α
  | [] => none
  | (j, v) :: r => if j = k then some v else alookup k r

/-- A sparse table, kept rising by key, with one value written. -/
def aset {α : Type} (k : Nat) (v : α) : List (Nat × α) → List (Nat × α)
  | [] => [(k, v)]
  | (j, w) :: r => if k < j then (k, v) :: (j, w) :: r else if k = j then (k, v) :: r else (j, w) :: aset k v r

/-- A sparse table without a key. -/
def aerase {α : Type} (k : Nat) : List (Nat × α) → List (Nat × α)
  | [] => []
  | (j, w) :: r => if k = j then r else (j, w) :: aerase k r

/-- A core that nothing has written yet. -/
def coreAtReset (n : Nat) : Core := if n < 1048576 then Core.reset else Core.flintReset

/-- Core `n`. -/
def State.getCore (s : State) (n : Nat) : Core :=
  if n = s.focus then s.core else (alookup n s.others).getD (coreAtReset n)

/-- The module with core `n` replaced. -/
def State.setCore (s : State) (n : Nat) (c : Core) : State :=
  if n = s.focus then { s with core := c } else { s with others := aset n c s.others }

/-- The module with core `n` changed. -/
def State.modCore (s : State) (n : Nat) (f : Core → Core) : State := s.setCore n (f (s.getCore n))

/-- The module with core `n` in focus; nothing else changes. -/
def State.focusOn (s : State) (n : Nat) : State :=
  if n = s.focus then s
  else { s with core := s.getCore n, focus := n, others := aset s.focus s.core (aerase n s.others) }

/-- The cores that the state holds, rising. -/
def State.coreNos (s : State) : List Nat := setInsert s.focus (s.others.map fun c => c.1)

/-- Die `d`. -/
def State.die (s : State) (d : Nat) : Die := s.dies[d]?.getD Die.zero
/-- The module with die `d` changed. -/
def State.modDie (s : State) (d : Nat) (f : Die → Die) : State :=
  { s with dies := s.dies.setIfInBounds d (f (s.die d)) }

/-- Partition `p`. -/
def State.part (s : State) (p : Nat) : Part := (alookup p s.parts).getD Part.zero
/-- The module with partition `p` changed. -/
def State.modPart (s : State) (p : Nat) (f : Part → Part) : State := { s with parts := aset p (f (s.part p)) s.parts }

/-- The occupant of a panel (R329, R330). -/
def State.occupant (s : State) (panel : Nat) : Option Nat :=
  (alookup (panel % 4096) (s.die (dieOfPanel panel)).occ).map BitVec.toNat

/-- The partition whose context a core holds; a flint has none. -/
def State.partOf (s : State) (core : Nat) : Option Nat :=
  if core < 1048576 then s.occupant (panelOf core) else none

/-- The bits of a byte of a panel set, as panel indices from `p` up. -/
def panelBits (v : Byte) (p : Nat) : List Nat := (List.range 8).filterMap fun i => if v.getLsbD i then some (p + i) else none

/-- The panels of a partition's panel set, rising (R328). -/
def State.panels (s : State) (p : Nat) : List Nat :=
  let base := (s.part p).psbase.toNat
  (s.mem.cells.filter fun c => decide (base ≤ c.1) && decide (c.1 < base + 2048)).flatMap
    fun c => panelBits c.2 (8 * (c.1 - base))

/-- Whether a panel lies in a partition's panel set (R328, R330). -/
def State.inSet (s : State) (p panel : Nat) : Bool :=
  (s.mem.byte ((s.part p).psbase.toNat + panel / 8)).getLsbD (panel % 8)

/-- The panels of a partition's core list: its panel set less the panels that a panel command works on (R330, R331). [log 98 DESIGN CHOICE] -/
def State.listPanels (s : State) (p : Nat) : List Nat :=
  (s.panels p).filter fun n =>
    !((s.die (dieOfPanel n)).cmds.any fun c => c.begun && c.part == p && c.panel == n % 4096)

/-- How many cores a partition's core list holds (R330). -/
def State.coreCount (s : State) (p : Nat) : Nat := 64 * (s.listPanels p).length

/-- Entry `k` of a partition's core list (R330). -/
def State.coreAt (s : State) (p k : Nat) : Option Nat := ((s.listPanels p)[k / 64]?).map fun n => n * 64 + k % 64

/-- Rail `n` (R354). -/
def State.rail (s : State) (n : Nat) : Rail := s.rails[n]?.getD ⟨false, false, 0, false⟩
/-- Whether a rail supplies its units: it is in regulation (R354, R355). -/
def State.railUp (s : State) (n : Nat) : Bool := (s.rail n).pgood

/-- The rails AON, SRAM, GDDR, LINK and AUX, and the rail of compute die `d` (R354). -/
def railAon : Nat := 0
def railSram : Nat := 5
def railGddr : Nat := 6
def railLink : Nat := 7
def railAux : Nat := 8
def railCore (d : Nat) : Nat := d + 1

/-- The training block of a channel or link (R358). -/
def State.train (s : State) (b : TrainBlock) : Train := ((s.trains.find? fun t => t.1 == b).map fun t => t.2).getD Train.zero

/-- The four Brixmal lane groups. -/
def brixGroups : List TrainBlock := [.brix 0, .brix 1, .brix 2, .brix 3]

/-- Whether the Brixmal link carries traffic: its rail is up and its four groups are online (R354, R360). -/
def State.hostUp (s : State) : Bool := s.railUp railLink && brixGroups.all fun g => (s.train g).online

/-- The state of flint `d` (R353). -/
def State.flint (s : State) (d : Nat) : FlintState := s.flints[d]?.getD .held
/-- The state of flint `d` changed. -/
def State.setFlint (s : State) (d : Nat) (f : FlintState) : State := { s with flints := s.flints.setIfInBounds d f }

/-- Whether a core is supplied: by its compute die's rail and by AUX, which generates the clock; a flint by AON (R354). [log 107 DESIGN CHOICE] -/
def State.coreUp (s : State) (n : Nat) : Bool :=
  if n < 1048576 then s.railUp (railCore (dieOfCore n)) && s.railUp railAux else s.railUp railAon

/-- The die of a streamer, by its key. -/
def streamerDie (key : Nat) : Nat := if key < 16384 then key / 4096 else (key - 16384) / 96

/-- Whether the streamers of a die are supplied, as its cores are (R354). [log 107 DESIGN CHOICE] -/
def State.streamersUp (s : State) (d : Nat) : Bool := s.railUp (railCore d) && s.railUp railAux

/-- How many ways of a die's memory-side cache are enabled: there are 16, and a larger MSCWAYS enables them all (R9, R28). [log 102 DESIGN CHOICE] -/
def Die.ways (d : Die) : Nat := min 16 d.mscways.toNat

/-- The home of an MPA, where it can be reached: die SRAM lies below the ways of the memory-side cache, and a home answers once its
rail is up and its channel or link has been handed over (R28, R354, R359, R360). [log 119 DEDUCED] -/
def State.homeOf (s : State) (mpa : Nat) : Option Home :=
  match rawHome mpa with
  | some (.sram d) =>
    if s.railUp railSram && (d == 0 || s.railUp (railCore d)) && decide (mpa % 2 ^ 31 + (s.die d).ways * 2 ^ 26 < 2 ^ 31) then
      some (.sram d) else none
  | some (.gddr c) => if s.railUp railGddr && (s.train (.gddr c)).online then some (.gddr c) else none
  | some .host => if s.hostUp then some .host else none
  | none => none

/-- The directory slice of a line: its die, the home's or die 0 for host memory, and its number in the die (R28). -/
def sliceOf (mpa : Nat) : Option (Nat × Nat) :=
  let number := (mix64 (BitVec.ofNat 64 (mpa / 256 % 2 ^ 40))).toNat % 64
  match rawHome mpa with
  | some (.sram d) => some (d, number)
  | some (.gddr c) => some (c / 32, number)
  | some .host => some (0, number)
  | none => none

/-- Whether an MPA lies in a frame of a valid entry of a retired-frame filter (R365). [log 98 DESIGN CHOICE] -/
def State.filtered (s : State) (mpa : Nat) : Bool :=
  s.dies.toList.any fun d => d.filter.toList.any fun e => e.1 && e.2.toNat == mpa / 2 ^ 16

/-- The ways of a die's memory-side cache in which a partition's misses allocate (R330, R367). -/
def State.waysOf (s : State) (p d : Nat) : List Nat :=
  (List.range 16).filter fun w =>
    decide (w < (s.die d).ways) && (s.part p).waymask.getLsbD (16 * d + w) && !(s.die d).waydis.getLsbD w

/-- Whether two lines compete for one place of a way: a way of 64 MiB holds one line in each of its sets (R9). [log 102 DESIGN CHOICE] -/
def sameSet (a b : Nat) : Bool := Config.mscSet a % 2 ^ 21 == Config.mscSet b % 2 ^ 21

/-- The lines of a memory-side cache with one filled into a way: the line in its place gives way, a dirty one being written back. -/
def mscFill (l : MscLine) (ls : List MscLine) : List MscLine :=
  (ls.filter fun m => !(m.way == l.way && sameSet m.line l.line)) ++ [l]

/-- An access that reaches the memory-side cache of its home (R28, R330): a miss allocates in one of the partition's ways and
carries the partition as its owner tag. -/
def State.mscTouch (s : State) (p : Option Nat) (loc : Nat) (write : Bool) : State :=
  match rawHome loc with
  | some (.gddr c) =>
    let d := c / 32
    let line := lineOf loc
    if (s.die d).msc.any fun l => l.line == line then
      s.modDie d fun x => { x with msc := x.msc.map fun l => if l.line == line then { l with dirty := l.dirty || write } else l }
    else
      match p with
      | none => s
      | some q =>
        let ws := s.waysOf q d
        match ws[Config.pickOne s.tick % ws.length]? with
        | none => s
        | some w => s.modDie d fun x => { x with msc := mscFill ⟨line, w, BitVec.ofNat 8 q, write⟩ x.msc }
  | _ => s

/-- Where the dirty mask of a frame lies (R371). -/
def maskAt (base mpa : Nat) : Option Nat :=
  match rawHome mpa with
  | some (.sram _) => some (base + 64 * (mpa / 2 ^ 16))
  | some (.gddr _) => some (base + 64 * (131072 + (mpa - 2 ^ 38) / 2 ^ 16))
  | _ => none

/-- A write made for a partition marks its sector, while masks are collected (R371). -/
def State.dirtyMark (s : State) (p : Option Nat) (mpa : Nat) : State :=
  match p with
  | none => s
  | some q =>
    let part := s.part q
    if part.dmen && part.en then
      match maskAt part.dmbase.toNat mpa with
      | none => s
      | some a =>
        let k := mpa % 2 ^ 16 / 128
        let a := a + 8 * (k / 64)
        if (s.homeOf a).isSome then
          { s with mem := s.mem.store a 8 ((BitVec.ofNat 64 (s.mem.read a 8)) ||| (1 <<< (k % 64))).toNat false false }
        else s
    else s

/-- A write for a partition has performed at its home (R330, R371). -/
def State.homeWrite (s : State) (p : Option Nat) (loc : Nat) : State := (s.dirtyMark p loc).mscTouch p loc true

/-- A doubleword of a table at an MPA; where there is no home, a free value. [log 7 DESIGN CHOICE] -/
def State.tableWord (s : State) (mpa : Nat) : DWord :=
  if (s.homeOf mpa).isSome then BitVec.ofNat 64 (s.mem.read mpa 8) else Config.strayWord s.tick mpa

/-- The index of a guest or guest-physical address at a level (R323). -/
def pageIdx (a level : Nat) : Nat :=
  match level with
  | 0 => a / 2 ^ 42 % 64
  | 1 => a / 2 ^ 29 % 8192
  | _ => a / 2 ^ 16 % 8192

/-- FRAME of a table entry, as an address (R322). -/
def frameOf (e : DWord) : Nat := (e.extractLsb' 16 32).toNat * 2 ^ 16

/-- Why a translation fails: stage, CAUSE (1 INVALID, 2 PERM, 3 RETIRED), and the GPA that stage 2 refused (R323, R325). -/
structure XFault where
  stage : Nat
  cause : Nat
  gpa   : Nat
deriving DecidableEq, Repr

/-- The stage-2 entries along the levels; none where one is not valid (R323). -/
def State.walk2 (s : State) (gpa : Nat) : List Nat → Nat → DWord → Option DWord
  | [], _, e => some e
  | l :: ls, t, _ =>
    let e := s.tableWord (t + 8 * pageIdx gpa l)
    if e.getLsbD 0 then s.walk2 gpa ls (frameOf e) e else none

/-- Whether an entry's permissions cover a need (R322). [log 42 DEDUCED] -/
def permits (e : DWord) (r w : Bool) : Bool := (!r || e.getLsbD 1) && (!w || e.getLsbD 2)

/-- S2(gpa, need) of R323: the level-2 entry. -/
def State.stage2 (s : State) (p gpa : Nat) (r w : Bool) : Except XFault DWord :=
  match s.walk2 gpa [0, 1, 2] (s.part p).s2root.toNat 0 with
  | none => .error ⟨2, 1, gpa⟩
  | some e =>
    if e.getLsbD 5 then .error ⟨2, 3, gpa⟩
    else if permits e r w then .ok e
    else .error ⟨2, 2, gpa⟩

/-- The stage-1 entries along the levels (R323). -/
def State.walk1 (s : State) (p off : Nat) : List Nat → Nat → DWord → Except XFault DWord
  | [], _, e => .ok e
  | l :: ls, t, _ =>
    let g := t + 8 * pageIdx off l
    match s.stage2 p g true false with
    | .error x => .error x
    | .ok f =>
      let e := s.tableWord (frameOf f + g % 2 ^ 16)
      if e.getLsbD 0 then s.walk1 p off ls (frameOf e) e else .error ⟨1, 1, 0⟩

/-- The first frame of a stage-1 table along the levels that is scrub-pending: the walk waits for its scrub (R332). -/
def State.hold1 (s : State) (p off : Nat) : List Nat → Nat → Option Nat
  | [], _ => none
  | l :: ls, t =>
    match s.stage2 p (t + 8 * pageIdx off l) true false with
    | .error _ => none
    | .ok f =>
      if f.getLsbD 4 && (s.homeOf (frameOf f)).isSome then some (frameOf f)
      else
        let e := s.tableWord (frameOf f + (t + 8 * pageIdx off l) % 2 ^ 16)
        if e.getLsbD 0 then s.hold1 p off ls (frameOf e) else none

/-- The stage-1 table frame for whose scrub a walk waits (R332). -/
def State.walkHold (s : State) (p off : Nat) : Option Nat :=
  let root := (s.part p).g1live.toNat
  if root = 0 then none else s.hold1 p (off % 2 ^ 48) [0, 1, 2] root

/-- Translate(off, need) of R323, as the translation-cache entry it completes (R324). A walk that meets a scrub-pending stage-1 table gives
that table's frame as scrub-pending (R332): what asks waits for it and walks again. [log 85 DEDUCED] -/
def State.translate (s : State) (p off : Nat) (r w : Bool) : Except XFault PtcEntry :=
  match s.walkHold p off with
  | some f => .ok { part := p, page := off % 2 ^ 48 / 2 ^ 16, frame := f, r := true, w := true, scrub := true }
  | none =>
    let off := off % 2 ^ 48
    let finish (gpa : Nat) (e1 : Option DWord) : Except XFault PtcEntry :=
      match s.stage2 p gpa r w with
      | .error x => .error x
      | .ok f =>
        let both (i : Nat) : Bool := f.getLsbD i && (match e1 with | none => true | some e => e.getLsbD i)
        .ok { part := p, page := off / 2 ^ 16, frame := frameOf f, r := both 1, w := both 2, scrub := f.getLsbD 4 }
    let root := (s.part p).g1live.toNat
    if root = 0 then finish off none
    else
      match s.walk1 p off [0, 1, 2] root 0 with
      | .error x => .error x
      | .ok e => if permits e r w then finish (frameOf e + off % 2 ^ 16) (some e) else .error ⟨1, 2, 0⟩

/-- The translation cache of a panel, or of a streamer under its own number past the panels' (R324). -/
def State.ptc (s : State) (k : Nat) : List PtcEntry := (alookup k s.ptcs).getD []
/-- The number under which a die's streamer keeps its caches. -/
def streamerKey (die n : Nat) : Nat := 16384 + die * 96 + n

/-- How many entries a translation cache holds (R324). -/
def ptcSize (k : Nat) : Nat := if k < 16384 then Config.ptcEntries else Config.streamerPtcEntries

/-- Installs a completed translation; a full cache gives up the entry that the implementation chooses (R324). [log 44 DEDUCED] -/
def State.ptcInstall (s : State) (k : Nat) (e : PtcEntry) : State :=
  let old := (s.ptc k).filter fun x => !(x.part == e.part && x.page == e.page)
  let kept := if old.length < ptcSize k then old else old.eraseIdx (Config.ptcVictim s.tick % ptcSize k)
  { s with ptcs := aset k (e :: kept) s.ptcs }

/-- The GPA of an offset as stage 1 gives it, or 0 where it does not (R325). -/
def State.gpaOf (s : State) (p off : Nat) : Nat :=
  let root := (s.part p).g1live.toNat
  if root = 0 then off % 2 ^ 48
  else match s.walk1 p (off % 2 ^ 48) [0, 1, 2] root 0 with
    | .ok e => frameOf e + off % 2 ^ 16
    | .error _ => 0

/-- A translation that a cache or a walk has given, refused where its frame stands in the retired-frame filter (R365). -/
def State.unfiltered (s : State) (p off : Nat) (e : PtcEntry) : Except XFault PtcEntry :=
  if s.filtered (e.frame + off % 2 ^ 16) then .error ⟨2, 3, s.gpaOf p off⟩ else .ok e

/-- A translation by a walk, refused where its frame stands in the filter (R365); a walk that waits for the scrub of a stage-1 table has
come to no frame yet. -/
def State.resolve (s : State) (p off : Nat) (r w : Bool) : Except XFault PtcEntry :=
  match s.translate p off r w with
  | .error x => .error x
  | .ok e => if (s.walkHold p off).isSome then .ok e else s.unfiltered p off e

/-- A translation through cache `k`: a hit is used, a miss walks and installs what it completes (R323, R324). A hit that lacks a permission
fails as the walk does, or as a PERM of stage 2 where the tables have changed since. [log 42 DEDUCED] -/
def State.translateVia (s : State) (k p off : Nat) (r w : Bool) : Except XFault PtcEntry × State :=
  match (s.ptc k).find? fun x => x.part == p && x.page == off % 2 ^ 48 / 2 ^ 16 with
  | some e =>
    if (!r || e.r) && (!w || e.w) then (s.unfiltered p off e, s)
    else
      match s.translate p off r w with
      | .error x => (.error x, s)
      | .ok e => if (s.walkHold p off).isSome then (.ok e, s) else (.error ⟨2, 2, s.gpaOf p off⟩, s)
  | none =>
    match s.translate p off r w with
    | .error x => (.error x, s)
    | .ok e => (s.resolve p off r w, if (s.walkHold p off).isSome then s else s.ptcInstall k e)

/-- Removes translations from every cache (R324, R331). -/
def State.ptcDrop (s : State) (gone : Nat → PtcEntry → Bool) : State :=
  { s with ptcs := s.ptcs.map fun c => (c.1, c.2.filter fun e => !gone c.1 e) }

/-- Writes a doubleword of memory at an MPA; where there is no home nothing is written. -/
def State.putWord (s : State) (mpa : Nat) (v : DWord) : State :=
  if (s.homeOf mpa).isSome then { s with mem := s.mem.store mpa 8 v.toNat false false } else s

/-! ### Single-copy caching (R17 to R20) -/

/-- The holder of a global line (R17). -/
def State.holder (s : State) (line : Nat) : Option Nat := (s.lines.find? fun l => l.line == line).map fun l => l.holder

/-- A line leaves its cache; a dirty one is written back (R19, R371). -/
def State.release (s : State) (line : Nat) : State :=
  let s' := { s with lines := s.lines.filter fun l => !(l.line == line) }
  match s.lines.find? fun l => l.line == line with
  | some l => if l.dirty then s'.homeWrite (s.partOf l.holder) line else s'
  | none => s'

/-- Every line of a core leaves its cache (R19). -/
def State.releaseAll (s : State) (n : Nat) : State :=
  (s.lines.filter fun l => l.holder == n).foldl (fun s l => s.release l.line) s

/-! ### Scrub-pending frames (R332) -/

/-- The die of the first byte of a frame, whose streamer scrubs it (R332). [log 85 DEDUCED] -/
def frameDie (frame : Nat) : Option Nat :=
  match rawHome frame with
  | some (.sram d) => some d
  | some (.gddr c) => some (c / 32)
  | _ => none

/-- Where entry `i` of a die's scrub queue lies (R329, R332). -/
def scrubAt (d : Die) (i : BitVec 32) : Nat := d.sqbase.toNat + 16 * (i.toNat % 2 ^ d.sqlog.toNat)

/-- An entry of a scrub queue that waits: its index, its frame, where the level-2 entry lies. -/
structure ScrubEntry where
  index : BitVec 32
  frame : Nat
  entry : Nat
deriving DecidableEq, Repr

/-- The entries of a die's scrub queue that wait. [log 85 DEDUCED] -/
def State.scrubWaiting (s : State) (d : Nat) : List ScrubEntry :=
  let x := s.die d
  ((List.range (min (x.sqwidx - x.sqridx).toNat (2 ^ x.sqlog.toNat))).map fun k => x.sqridx + BitVec.ofNat 32 k).filterMap fun i =>
    if x.sqdone.contains i then none
    else
      let a := scrubAt x i
      some ⟨i, (s.tableWord a).toNat % 2 ^ 48 / 2 ^ 16 * 2 ^ 16, (s.tableWord (a + 8)).toNat⟩

/-- SQRIDX past entries that have been served, within fuel. -/
def pastScrubbed (i : BitVec 32) (done : List (BitVec 32)) : Nat → BitVec 32 × List (BitVec 32)
  | 0 => (i, done)
  | k + 1 => if done.contains i then pastScrubbed (i + 1) (done.erase i) k else (i, done)

/-- The translation of a table that hardware reaches at a guest offset (R328): without a fitting check, walked afresh. -/
def State.tableAt (s : State) (p off : Nat) (w : Bool) : Option PtcEntry := (s.translate p off true w).toOption

/-- The MPA that a translation gives an offset. -/
def PtcEntry.mpa (e : PtcEntry) (off : Nat) : Nat := e.frame + off % 2 ^ 16

/-- Whether a translation holds what it serves back until a scrub (R332): only a frame in a home is scrubbed. -/
def State.holds (s : State) (e : PtcEntry) : Bool := e.scrub && (s.homeOf e.frame).isSome

/-- A write to a partition's table performs: none while its frame is scrub-pending (R332), and no effect where no page is there. [log 85 DEDUCED] -/
def State.tableWritten (s : State) (w : TableWrite) : Option State :=
  match s.tableAt w.part w.off true with
  | none => some s
  | some e => if s.holds e then none else some ((s.putWord (e.mpa w.off) w.value).dirtyMark (some w.part) (e.mpa w.off))

/-- The writes to tables that have waited for a scrub, tried in their order (R332). -/
def State.writesTried (s : State) : State :=
  s.tableWrites.foldl (fun s w => match s.tableWritten w with
    | some t => t
    | none => { s with tableWrites := s.tableWrites ++ [w] }) { s with tableWrites := [] }

/-- The scrub streamer of a die serves an entry (R332): the frame's lines are recalled, it is zeroed, SCRUB is cleared in the entry
and the translations that hold it go; the writes to tables that have waited for it perform. -/
def State.frameScrubbed (s : State) (d : Nat) (e : ScrubEntry) : State :=
  let inFrame (a : Nat) : Bool := decide (e.frame ≤ a) && decide (a < e.frame + 65536)
  let s := (s.lines.filter fun l => inFrame l.line).foldl (fun s l => s.release l.line) s
  let s := { s with mem := s.mem.clear e.frame 65536 }
  let s := s.putWord e.entry (s.tableWord e.entry &&& ~~~((1 : DWord) <<< 4))
  let s := s.ptcDrop fun _ x => x.frame == e.frame && x.scrub
  let s := s.modDie d fun x =>
    let r := pastScrubbed x.sqridx (e.index :: x.sqdone) 65536
    { x with sqridx := r.1, sqdone := r.2, demand := x.demand.filter fun f => !(f == e.frame) }
  s.writesTried

/-- An access has met a frame that is scrub-pending: its entry moves to the head of the queue of its die (R332). [log 85 DEDUCED] -/
def State.demanded (s : State) (frame : Nat) : State :=
  match frameDie frame with
  | some d => s.modDie d fun x => { x with demand := frame :: x.demand.filter fun f => !(f == frame) }
  | none => s

/-! ### Tables at guest offsets -/

/-- The write to a doubleword of a table that waits for a scrub, if there is one. -/
def State.waitingWord (s : State) (p off : Nat) : Option DWord :=
  (s.tableWrites.find? fun w => w.part == p && w.off == off).map TableWrite.value

/-- A doubleword of a partition's table at a guest offset; of a frame that is scrub-pending what the scrub and the writes that wait for it
leave (R332). [log 7 DESIGN CHOICE, log 85 DEDUCED] -/
def State.guestWord (s : State) (p off : Nat) : DWord :=
  match s.tableAt p off false with
  | some e => if s.holds e then (s.waitingWord p off).getD 0 else s.tableWord (e.mpa off)
  | none => Config.strayWord s.tick off

/-- The frame for whose scrub a read of a partition's table waits (R332). [log 85 DEDUCED] -/
def State.heldAt (s : State) (p off : Nat) : Option Nat :=
  match s.tableAt p off false with
  | some e => if s.holds e then some e.frame else none
  | none => none

/-- The first such frame among the places that a reader comes to. -/
def State.heldAmong (s : State) (p : Nat) (offs : List Nat) : Option Nat := offs.findSome? (s.heldAt p)

/-- One place of each page that [a, a + n) touches. -/
def pagesIn (a n : Nat) : List Nat :=
  if n = 0 then [] else a :: (List.range ((a % 2 ^ 16 + n - 1) / 2 ^ 16)).map fun k => (a / 2 ^ 16 + k + 1) * 2 ^ 16

/-- Writes a doubleword of a partition's table; while its frame is scrub-pending the write waits for the scrub that it demands (R332).
[log 85 DEDUCED] -/
def State.setGuestWord (s : State) (p off : Nat) (v : DWord) : State :=
  match s.tableWritten ⟨p, off, v⟩ with
  | some t => t
  | none =>
    let others := s.tableWrites.filter fun w => !(w.part == p && w.off == off)
    let w : TableWrite := ⟨p, off, v⟩
    let s := { s with tableWrites := others ++ [w] }
    match s.heldAt p off with
    | some f => s.demanded f
    | none => s

/-- Whether a principal is live (R100). -/
def State.live (s : State) (p q : Nat) : Bool :=
  let part := s.part p
  decide (q < part.ptcount.toNat) && decide (1 ≤ q) && decide (q ≤ 0xFFFFFD) &&
    (s.guestWord p (part.ptbase.toNat + 8 * q)).extractLsb' 62 2 == 1

/-- Where a chain-table entry lies (R101). -/
def State.chainAt (s : State) (p h : Nat) : Nat := (s.part p).ctbase.toNat + 128 * h

/-- Links of an entry: (principal, fraction), outermost first (R101). -/
def State.linksAt (s : State) (p at_ : Nat) : Nat → List (Nat × Nat)
  | 0 => []
  | n + 1 =>
    s.linksAt p at_ n ++
      [let w := s.guestWord p (at_ + 8 + 8 * n); ((w.extractLsb' 0 24).toNat, (w.extractLsb' 24 17).toNat)]

/-- The chain that a handle names, or none where the entry is not usable (R101). -/
def State.chain (s : State) (p h : Nat) : Option (List (Nat × Nat)) :=
  let a := s.chainAt p h
  let w := s.guestWord p a
  let n := (w.extractLsb' 0 4).toNat
  if w.extractLsb' 62 2 == 1 ∧ 1 ≤ n ∧ n ≤ 8 then some (s.linksAt p a n) else none

/-- Where the table entries of a chain's principals lie (R100). -/
def State.prinOffs (s : State) (p : Nat) (links : List (Nat × Nat)) : List Nat :=
  links.map fun l => (s.part p).ptbase.toNat + 8 * l.1

/-- Where the chain that a handle names and its principals lie: what a check of the chain reads (R101, R110). -/
def State.chainOffs (s : State) (p h : Nat) : List Nat :=
  s.chainAt p h :: s.prinOffs p ((s.chain p h).getD [])

/-- A chain is dead where its entry is not usable or one of its links is not live (R42, R110). -/
def State.chainDead (s : State) (p h : Nat) : Bool :=
  match s.chain p h with
  | none => true
  | some ls => ls.any fun l => !s.live p l.1

/-- CHN for a handle at activation (R103): HANDLE, and DEPTH and FLOOR of the entry, or 0. -/
def State.chnOf (s : State) (p h : Nat) : DWord :=
  let n := match s.chain p h with
    | none => 0
    | some ls => ls.length
  BitVec.ofNat 64 (n * 2 ^ 20 + n * 2 ^ 16 + h)

/-- Where the probe order of a chain starts (R102). -/
def probeStart (links : List (Nat × Nat)) : Nat :=
  (links.foldl (fun x l => mix64 (x ^^^ BitVec.ofNat 64 (l.2 * 2 ^ 24) ^^^ BitVec.ofNat 64 l.1))
    (BitVec.ofNat 64 links.length)).toNat % 65536

/-- What probing for a chain finds (R102); `held` where an entry of the path lies in a scrub-pending frame, for which the probe waits
(R332). -/
inductive Probe where
  | found (h : Nat)
  | free (h : Nat)
  | claimed
  | held (frame : Nat)
  | full
deriving DecidableEq, Repr

/-- The probe of R102: up from `h`, skipping handle 0, within `fuel` entries. [log 108 DEDUCED] -/
def State.probe (s : State) (p : Nat) (links : List (Nat × Nat)) : Nat → Nat → Probe
  | 0, _ => .full
  | k + 1, h =>
    if h = 0 then s.probe p links k 1
    else
      match s.heldAt p (s.chainAt p h) with
      | some f => .held f
      | none =>
        let st := (s.guestWord p (s.chainAt p h)).extractLsb' 62 2
        if st == 1 then (if s.chain p h == some links then .found h else s.probe p links k ((h + 1) % 65536))
        else if st == 2 then .claimed
        else .free h

/-- The links of a chain written behind its first doubleword (R101). -/
def State.putLinks (s : State) (p at_ : Nat) : List (Nat × Nat) → State
  | [] => s
  | l :: ls => (s.setGuestWord p at_ (BitVec.ofNat 64 (l.2 % 2 ^ 17 * 2 ^ 24 + l.1 % 2 ^ 24))).putLinks p (at_ + 8) ls

/-- The handles of a partition's chain table whose entries are LIVE (R101). -/
def State.liveHandles (s : State) (p : Nat) : List Nat :=
  let base := (s.part p).ctbase.toNat
  (List.range 129).flatMap fun k =>
    let off := (base / 2 ^ 16 + k) * 2 ^ 16
    match s.tableAt p off false with
    | none => []
    | some e =>
      if s.holds e then []
      else s.mem.cells.filterMap fun c =>
        let o := off + (c.1 - e.frame)
        let h := (o - base) / 128
        if e.frame ≤ c.1 ∧ c.1 < e.frame + 2 ^ 16 ∧ base ≤ o ∧ (o - base) % 128 = 7 ∧ 1 ≤ h ∧ h < 65536 ∧
            c.2.toNat / 64 = 1 then some h else none

/-- How far along the probe order of a chain a handle lies. -/
def probeDist (links : List (Nat × Nat)) (h : Nat) : Nat := (h + 65536 - probeStart links) % 65536

/-- The first entry on the probe path of a chain that is LIVE and equal to it, past a FREE one (R102). [log 108 DEDUCED] -/
def State.probeOn (s : State) (p : Nat) (links : List (Nat × Nat)) : Option Nat :=
  ((s.liveHandles p).filter fun h => s.chain p h == some links).foldl (fun b h => match b with
    | some k => if probeDist links h < probeDist links k then some h else b
    | none => some h) none

/-- Interns a chain (R102): the handle, `claimed` where a CLAIMED entry must be waited for, or `full`. -/
def State.intern (s : State) (p : Nat) (links : List (Nat × Nat)) : Probe × State :=
  match s.probe p links 65536 (probeStart links) with
  | .free h =>
    match s.probeOn p links with
    | some k => (.found k, s)
    | none =>
      let a := s.chainAt p h
      (.found h, (s.putLinks p (a + 8) links).setGuestWord p a (BitVec.ofNat 64 (2 ^ 62 + links.length)))
  | r => (r, s)

/-- The elements of a pattern: element k in three bytes (R105, R109). -/
def patternElems (w1 w2 w3 : DWord) (n : Nat) : List Nat :=
  let all := w1.toNat + w2.toNat * 2 ^ 64 + w3.toNat * 2 ^ 128
  (List.range n).map fun k => all / 2 ^ (24 * k) % 2 ^ 24

def elemStar : Nat := 0xFFFFFE
def elemAny : Nat := 0xFFFFFF

/-- A malformed pattern (R105). -/
def malformed (plen : Nat) (es : List Nat) : Bool :=
  plen == 0 || decide (8 < plen) || es.any (· == 0) || decide (2 ≤ es.countP (· == elemStar))

/-- Elements against principals, one by one, as far as both go. -/
def matchElems : List Nat → List Nat → Bool
  | e :: es, q :: qs => (e == elemAny || e == q) && matchElems es qs
  | _, _ => true

/-- ChainMatch (R106). -/
def chainMatch (plen : Nat) (es prins : List Nat) : Bool :=
  if malformed plen es then false
  else
    match es.idxOf? elemStar with
    | none => es.length == prins.length && matchElems es prins
    | some i =>
      decide (es.length - 1 ≤ prins.length) && matchElems (es.take i) prins &&
        matchElems (es.drop (i + 1)) (prins.drop (prins.length - (es.length - 1 - i)))

/-- The doublewords of rule `x` of a partition's pattern book (R109). -/
def State.ruleWords (s : State) (p x : Nat) : List DWord :=
  (List.range 4).map fun k => s.guestWord p ((s.part p).pbbase.toNat + 32 * x + 8 * k)

/-- The pattern cache of panel `k` (R10). -/
def State.patternCache (s : State) (k : Nat) : List BookLine := (alookup k s.patterns).getD []

/-- Rule `x` as the walker of panel `k` reads it: from its panel's pattern cache, which a book flush empties, or from the book
(R112, R120). [log 103 DESIGN CHOICE] -/
def State.ruleAt (s : State) (k p x : Nat) : List DWord :=
  match (s.patternCache k).find? fun b => b.part == p && b.index == x with
  | some b => if Config.patternKept s.tick x then b.words else s.ruleWords p x
  | none => s.ruleWords p x

/-- Whether a rule decides for a region tag and a chain, with its permissions (R109). -/
def ruleFits (words : List DWord) (region : Nat) (prins : List Nat) : Option (BitVec 4) :=
  match words with
  | [w, w1, w2, w3] =>
    let plen := (w.extractLsb' 50 4).toNat
    if w.getLsbD 63 && (w.extractLsb' 0 10).toNat == region && chainMatch plen (patternElems w1 w2 w3 (min plen 8)) prins then
      some (w.extractLsb' 54 4)
    else none
  | _ => none

/-- The deciding rule's permissions, from rule `x` on: LD ST LDC STC in bits 3 to 0 (R109); and how many rules have been read. -/
def State.rulesFrom (s : State) (k p region : Nat) (prins : List Nat) : Nat → Nat → Option (BitVec 4) × Nat
  | 0, x => (if region = 0 then some 15 else none, x)
  | n + 1, x =>
    match ruleFits (s.ruleAt k p x) region prins with
    | some perms => (some perms, x + 1)
    | none => s.rulesFrom k p region prins n (x + 1)

/-- What the pattern walker works out for (handle, region tag) (R110, R111); `held` while a table that it reads is scrub-pending
(R332). -/
inductive Fitting where
  | dead
  | undecided
  | held (frame : Nat)
  | rule (perms : BitVec 4) (prins : List Nat)
deriving DecidableEq, Repr

/-- How many rules a pattern cache of 64 KiB holds (R10, R109). -/
def patternRules : Nat := 2048

/-- The number under which a walk stands that no panel's walker makes: a bank streamer's, a front end's. -/
def noPanel : Nat := 16384

/-- A pattern walker has made a walk: its serial number rises, and its panel's pattern cache holds the rules that it has read
(R111, R115, R329). [log 103 DESIGN CHOICE] -/
def State.walked (s : State) (k p n : Nat) : State :=
  if k < noPanel then
    let s' := s.modDie (dieOfPanel k) fun d =>
      { d with serials := aset (k % 4096) (((alookup (k % 4096) d.serials).getD 0) + 1) d.serials }
    if n = 0 then s'
    else
      let read := (List.range n).map fun x => (⟨p, x, s.ruleAt k p x⟩ : BookLine)
      let others := (s.patternCache k).filter fun b => !(b.part == p && decide (b.index < n))
      { s' with patterns := aset k ((read ++ others).take patternRules) s.patterns }
  else s

/-- Where the first `n` rules of a partition's book lie, but for those that the panel's pattern cache gives (R109, R112). -/
def State.ruleOffs (s : State) (k p n : Nat) : List Nat :=
  ((List.range n).filter fun x => !((s.patternCache k).any (fun b => b.part == p && b.index == x) && Config.patternKept s.tick x)).map fun x =>
    (s.part p).pbbase.toNat + 32 * x

/-- A walk of the pattern walker of panel `k` (R111): what it works out, and the state once it has been made. It waits where a table that
it comes to is scrub-pending (R332). -/
def State.fitWalk (s : State) (k p h region : Nat) : Fitting × State :=
  match s.heldAt p (s.chainAt p h), s.chain p h with
  | some f, _ => (.held f, s)
  | none, none => (.dead, s.walked k p 0)
  | none, some ls =>
    match s.heldAmong p (s.prinOffs p ls) with
    | some f => (.held f, s)
    | none =>
      if ls.any fun l => !s.live p l.1 then (.dead, s.walked k p 0)
      else
        let prins := ls.map fun l => l.1
        let r := s.rulesFrom k p region prins (s.part p).pbcount.toNat 0
        match s.heldAmong p (s.ruleOffs k p r.2), r.1 with
        | some f, _ => (.held f, s)
        | none, none => (.undecided, s.walked k p r.2)
        | none, some perms => (.rule perms prins, s.walked k p r.2)

/-- A partition's rules gone from every pattern cache (R112). -/
def State.booksDropped (s : State) (p : Nat) : State :=
  { s with patterns := s.patterns.map fun c => (c.1, c.2.filter fun b => !(b.part == p)) }

/-- A fitting cache with an entry made the most recently used, the least recently used giving way (R111). -/
def fitTouch (e : FitEntry) (es : List FitEntry) : List FitEntry :=
  (e :: es.filter fun x => !(x.handle == e.handle && x.region == e.region)).take Config.fitEntries

/-- The entry of a fitting cache for (handle, region tag). -/
def fitFind (h region : Nat) (es : List FitEntry) : Option FitEntry :=
  es.find? fun x => x.handle.toNat == h && x.region.toNat == region

/-- Adds to a principal's account, modulo 2^64 (R118). -/
def State.bill (s : State) (p prin amount : Nat) : State :=
  let a := (s.part p).acbase.toNat + 8 * prin
  s.setGuestWord p a (s.guestWord p a + BitVec.ofNat 64 amount)

/-- The shares of R118 but for the remainder. -/
def shares (m : Nat) (links : List (Nat × Nat)) : List Nat := links.map fun l => m * l.2 / 65536

/-- Bills the shares link by link; the last link takes the rest. -/
def State.billLinks (s : State) (p : Nat) : Nat → List (Nat × Nat) → List Nat → State
  | rest, l :: ls, x :: xs =>
    let amount := if ls.isEmpty then x + rest else x
    (if amount = 0 then s else s.bill p l.1 amount).billLinks p rest ls xs
  | _, _, _ => s

/-- The split of a charge along the chain of a handle (R118, R119); a core of no partition has no accounts. -/
def State.settle (s : State) (part : Option Nat) (h m : Nat) : State :=
  match part with
  | none => s
  | some p =>
    match s.chain p h with
    | none => if m = 0 then s else s.bill p 1 m
    | some ls => let xs := shares m ls; s.billLinks p (m - xs.sum) ls xs

/-- Who asks for a page (R325, R327): a core, a command for one of its pieces, a front end, a load of another module, which does not
wait for it (R222). -/
inductive Asker where
  | core (n : Nat)
  | job (i piece : Nat)
  | front (w : FrontWait)
  | remote
deriving DecidableEq, Repr

/-- A page miss as its record needs it (R325). -/
structure PageMiss where
  part  : Nat
  off   : Nat
  wr    : Bool
  fault : XFault
  src   : Nat
  ltag  : BitVec 16
  chain : BitVec 16
  asker : Asker
deriving DecidableEq, Repr

/-- Joins a page request with an outstanding one of the same page and WR (R325). -/
def joinReq (m : PageMiss) (r : PageReq) : PageReq :=
  match m.asker with
  | .core n => { r with cores := setInsert n r.cores }
  | .job i k => { r with jobs := r.jobs ++ [(i, k)] }
  | .front w => { r with front := w :: r.front.filter fun x => !(x == w) }
  | .remote => r

/-- The first tag that is not outstanding. [log 17 DEDUCED] -/
def freeTag (used : List Nat) : Nat → Nat → Option Nat
  | 0, _ => none
  | k + 1, t => if used.contains t then freeTag used k (t + 1) else some t

/-- The words of a record but its tag (R325). -/
def PageMiss.words (m : PageMiss) : List DWord :=
  let eng := match m.asker with
    | .job .. => 1
    | _ => 0
  [BitVec.ofNat 64 (m.off % 2 ^ 48),
   BitVec.ofNat 64 (m.fault.cause * 2 ^ 24 + m.fault.stage * 2 ^ 22 + eng * 2 ^ 21 + (if m.wr then 2 ^ 20 else 0)),
   BitVec.ofNat 64 (if m.fault.stage = 2 then m.fault.gpa % 2 ^ 48 else 0),
   BitVec.ofNat 64 (m.src % 2 ^ 20 * 2 ^ 32 + m.ltag.toNat * 2 ^ 16 + m.chain.toNat)]

/-- Words written one after another at an MPA. -/
def State.putWords (s : State) (a : Nat) : List DWord → State
  | [] => s
  | w :: ws => (s.putWord a w).putWords (a + 8) ws

/-- A 32-bit count that does not wrap (R365). -/
def satInc (n : BitVec 32) : BitVec 32 := if n = 0xFFFFFFFF then n else n + 1

/-- A record in the error ring of a die; where the ring is full, or is none in the host range, it is counted in LOST (R365). -/
def State.errRecord (s : State) (d : Nat) (words : List DWord) : State :=
  let x := s.die d
  let log := x.errlog.toNat
  if isHost x.errbase.toNat && decide (1 ≤ log) && decide (log ≤ 16) && decide ((x.errwidx - x.errridx).toNat < 2 ^ log) then
    (s.putWords (x.errbase.toNat + 32 * (x.errwidx.toNat % 2 ^ log)) words).modDie d fun x => { x with errwidx := x.errwidx + 1 }
  else s.modDie d fun x => { x with lost := satInc x.lost }

/-- Whether the page-request ring has room (R325). -/
def Part.prqRoom (p : Part) : Bool := decide ((p.prqwidx - p.prqridx).toNat < 2 ^ p.prqlog.toNat)

/-- Gives a held request its tag and writes its record, where a tag and room are there (R325). -/
def State.issueReq (s : State) (p i : Nat) : State :=
  let part := s.part p
  match part.reqs[i]? with
  | none => s
  | some r =>
    match r.tag, freeTag (part.reqs.filterMap fun x => x.tag.map BitVec.toNat) 4096 0 with
    | none, some t =>
      if part.prqRoom then
        let a := part.prqbase.toNat + 32 * (part.prqwidx.toNat % 2 ^ part.prqlog.toNat)
        let words := r.words.zipIdx.map fun w => if w.2 = 1 then w.1 ||| BitVec.ofNat 64 t else w.1
        (s.putWords a words).modPart p fun q =>
          { q with prqwidx := q.prqwidx + 1, reqs := q.reqs.set i { r with tag := some (BitVec.ofNat 12 t) } }
      else s
    | _, _ => s

/-- Tries the held requests in the order they were held (R325). [log 16 DEDUCED, log 17 DEDUCED] -/
def State.issueReqs (s : State) (p : Nat) : Nat → Nat → State
  | 0, _ => s
  | k + 1, i => (s.issueReq p i).issueReqs p k (i + 1)

/-- Queues a page request (R325). [log 17 DEDUCED] -/
def State.pageMiss (s : State) (m : PageMiss) : State :=
  let page := m.off % 2 ^ 48 / 2 ^ 16
  let part := s.part m.part
  match part.reqs.findIdx? fun r => r.page == page && r.wr == m.wr with
  | some i => s.modPart m.part fun q => { q with reqs := q.reqs.modify i (joinReq m) }
  | none =>
    let r : PageReq := { tag := none, words := m.words, page := page, wr := m.wr, cores := [], jobs := [], front := [] }
    let s := s.modPart m.part fun q => { q with reqs := q.reqs ++ [joinReq m r] }
    s.issueReq m.part part.reqs.length

/-- The tag under which a core waits for a page, where its request has one (R327). [log 17 DEDUCED] -/
def State.tagFor (s : State) (p page : Nat) (wr : Bool) : Option (BitVec 12) :=
  ((s.part p).reqs.find? fun r => r.page == page && r.wr == wr).bind PageReq.tag

end Sys2Proof.Machine
end

