-- ==== Sys2Proof/Machine/Ops.lean ====
section
/-! DEFINITION. What every meaning is built from: the instruction monad, charging, the priority queues, counters, what a
network interface sends by itself, reports, TAKING A TRAP as one operation with the return from it, and how an instruction
ends (R33, R34, R43 to R45, R53, R58 to R62, R86, R116, R214). -/

namespace Sys2Proof.Machine

/-- The outcome of a step. -/
abbrev Out := Host.Outcome State Fault Refusal

/-- ECAUSE (R60). -/
inductive Cause where
  | illegal | captag | capbound | capperm | capseal | nofit | chaindead | xlat | align | poison | budget | bind | mxfault
  | engfault | adopt | lateframe | hemrange | lookahead | zerola | lateevent | sysc | bkpt | trap | priv | send | nomap
deriving DecidableEq, Repr

/-- The value of ECAUSE for a cause (R60). -/
def Cause.code : Cause → Nat
  | .illegal => 0 | .captag => 1 | .capbound => 2 | .capperm => 3 | .capseal => 4 | .nofit => 5 | .chaindead => 6
  | .xlat => 7 | .align => 8 | .poison => 9 | .budget => 10 | .bind => 11 | .mxfault => 12 | .engfault => 13
  | .adopt => 14 | .lateframe => 15 | .hemrange => 16 | .lookahead => 17 | .zerola => 18 | .lateevent => 19
  | .sysc => 20 | .bkpt => 21 | .trap => 22 | .priv => 23 | .send => 24 | .nomap => 25

/-- A trap: its cause, its EVAL, the page request that an XLAT makes, the DSD address a FRAME names (R270), and whether
the panel's pattern walker has walked for it, by the region tag with whether the walk's result passed (R111). [log 11 DEDUCED] -/
structure TrapInfo where
  cause : Nat
  eval  : DWord
  miss  : Option PageMiss
  dsd   : Option DWord
  walk  : Option (Nat × Bool)
deriving DecidableEq, Repr

/-- Why an instruction does not complete now: it traps; it waits, `queue` telling a wait on an architectural queue from
the others; it waits on a watermark (R97); it waits for its page request to be written (R325); it waits for a frame that is scrub-pending
(R332). -/
inductive Stop where
  | trap (t : TrapInfo)
  | stall (queue : Bool)
  | marks
  | hold (m : PageMiss)
  | scrub (frame : Nat)
deriving DecidableEq, Repr

/-- How an instruction that completes leaves the pc: on, elsewhere, or gone with its task; `wait` keeps what it has done
so far and does not retire it. -/
inductive Flow where
  | seq
  | jump (pc : BitVec 12)
  | ended
  | wait
deriving DecidableEq, Repr

/-- The effect of an instruction. An instruction that stops has had none (R58). -/
abbrev Ex := StateT State (Except Stop)

/-- Traps. [log 11 DEDUCED] -/
def raise {α : Type} (c : Cause) (eval : DWord) : Ex α := fun _ => .error (.trap ⟨c.code, eval, none, none, none⟩)
/-- Traps with a register number in EVAL. -/
def raiseReg {α : Type} (c : Cause) (r : Reg) : Ex α := raise c (r.setWidth 64)
/-- Waits. -/
def stall {α : Type} : Ex α := fun _ => .error (.stall false)
/-- Waits for the other stream. -/
def stallQueue {α : Type} : Ex α := fun _ => .error (.stall true)
/-- The state. -/
def getS : Ex State := fun s => .ok (s, s)
/-- The core that runs. -/
def getC : Ex Core := fun s => .ok (s.core, s)
/-- Changes the state. -/
def modS (f : State → State) : Ex Unit := fun s => .ok ((), f s)
/-- Changes the core that runs. -/
def modC (f : Core → Core) : Ex Unit := fun s => .ok ((), { s with core := f s.core })
/-- Traps where a check fails. -/
def check (ok : Bool) (c : Cause) (eval : DWord) : Ex Unit := if ok then pure () else raise c eval
/-- Traps with a register number where a check fails. -/
def checkReg (ok : Bool) (c : Cause) (r : Reg) : Ex Unit := check ok c (r.setWidth 64)
/-- A check over every element of a list, in order. -/
def eachOk {α : Type} (l : List α) (f : α → Ex Unit) : Ex Unit := l.forM f

/-- The core runs in the kernel bank (R263). -/
def Core.km (c : Core) : Bool := c.csr.km

/-- The four prices that instructions add (R116, R117). -/
def Csrs.insnPrice (c : Csrs) : Nat := (c.price0.extractLsb' 0 16).toNat
def Csrs.gmemPrice (c : Csrs) : Nat := (c.price0.extractLsb' 16 16).toNat
def Csrs.msgPrice (c : Csrs) : Nat := (c.price0.extractLsb' 32 16).toNat
def Csrs.mxPrice (c : Csrs) : Nat := (c.price0.extractLsb' 48 16).toNat
def Csrs.adoptPrice (c : Csrs) : Nat := (c.price1.extractLsb' 16 16).toNat
def Csrs.engPrice (c : Csrs) : Nat := (c.price1.extractLsb' 0 16).toNat

/-- Adds to the meter of the bank that runs, modulo 2^64 (R116, R119). -/
def Csrs.charge (c : Csrs) (n : Nat) : Csrs :=
  if c.km then { c with kmeter := c.kmeter + BitVec.ofNat 64 n } else { c with meter := c.meter + BitVec.ofNat 64 n }

/-- Adds a price to the meter as part of an instruction. -/
def chargeBy (price : Csrs → Nat) : Ex Unit := modC fun c => { c with csr := c.csr.charge (price c.csr) }

/-- The chain handle of CHN (R103). -/
def Core.handle (c : Core) : Nat := (c.chn.extractLsb' 0 16).toNat
/-- DEPTH of CHN (R103). -/
def Core.depth (c : Core) : Nat := (c.chn.extractLsb' 16 4).toNat
/-- FLOOR of CHN (R103). -/
def Core.floor (c : Core) : Nat := (c.chn.extractLsb' 20 4).toNat

/-- The launch tag of what runs: the task's, or none's in the kernel bank. -/
def Core.ltag (c : Core) : BitVec 16 := match c.task with
  | some t => t.ltag
  | none => 0
/-- The work identifier of what runs. -/
def Core.work (c : Core) : DWord := match c.task with
  | some t => t.work
  | none => 0

/-! ### Messages -/

/-- The kinds of R33. -/
def kindActive : Nat := 0
def kindCount : Nat := 1
def kindCode : Nat := 2
def kindData : Nat := 3
def kindEvent : Nat := 4
def kindClock : Nat := 5
def kindSample : Nat := 6
def kindSystem : Nat := 7

/-- Fields of a header (R33). -/
def hdrCore (h : DWord) : Nat := (h.extractLsb' 0 20).toNat
def hdrMod (h : DWord) : Nat := (h.extractLsb' 20 12).toNat
def hdrKind (h : DWord) : Nat := (h.extractLsb' 32 3).toNat
def hdrClass (h : DWord) : Nat := (h.extractLsb' 35 6).toNat
def hdrPrio (h : DWord) : Nat := (h.extractLsb' 41 2).toNat
def hdrLen (h : DWord) : Nat := (h.extractLsb' 43 3).toNat
def hdrCap (h : DWord) : Bool := h.getLsbD 46
def hdrSeq (h : DWord) : BitVec 16 := h.extractLsb' 48 16

/-- A header as it is read: bit 47, which is ignored, reads as zero (R5, R33). -/
def cleanHdr (h : DWord) : DWord := h &&& ~~~(0x800000000000 : DWord)

/-- A header (R33). -/
def mkHdr (seq len prio cls kind dmod dcore : Nat) : DWord :=
  BitVec.ofNat 64 (seq % 2 ^ 16 * 2 ^ 48 + len % 8 * 2 ^ 43 + prio % 4 * 2 ^ 41 + cls % 64 * 2 ^ 35 + kind % 8 * 2 ^ 32 +
    dmod % 2 ^ 12 * 2 ^ 20 + dcore % 2 ^ 20)

/-- An envelope (R34). -/
def mkEnv (src part chain smod score : Nat) : DWord :=
  BitVec.ofNat 64 (src % 4 * 2 ^ 56 + part % 256 * 2 ^ 48 + chain % 2 ^ 16 * 2 ^ 32 + smod % 2 ^ 12 * 2 ^ 20 +
    score % 2 ^ 20)

end Sys2Proof.Machine

namespace Sys2Proof

/-- Fields of an envelope (R34). -/
def Msg.src (m : Msg) : BitVec 2 := m.env.extractLsb' 56 2
def Msg.part (m : Msg) : Nat := (m.env.extractLsb' 48 8).toNat
def Msg.chain (m : Msg) : BitVec 16 := m.env.extractLsb' 32 16
def Msg.smod (m : Msg) : BitVec 12 := m.env.extractLsb' 20 12
def Msg.score (m : Msg) : BitVec 20 := m.env.extractLsb' 0 20
def Msg.ltag (m : Msg) : BitVec 16 := m.launch.extractLsb' 0 16
def Msg.kind (m : Msg) : Nat := Machine.hdrKind m.hdr
def Msg.cls (m : Msg) : Nat := Machine.hdrClass m.hdr
def Msg.prio (m : Msg) : Nat := Machine.hdrPrio m.hdr

/-- What EMSG holds for a message (R59). [log 12 DESIGN CHOICE] -/
def Msg.ident (m : Msg) : DWord := (Config.packId m.src m.smod m.score (Machine.hdrSeq m.hdr)).setWidth 64

/-- A message with its send number in SEQ; a COUNT keeps its decrement (R33). -/
def Msg.numbered (m : Msg) (seq : BitVec 16) : Msg :=
  if m.kind = Machine.kindCount then m else { m with hdr := (m.hdr.extractLsb' 0 48).setWidth 64 ||| (seq.setWidth 64 <<< 48) }

end Sys2Proof

namespace Sys2Proof.Machine

/-- A message as a core's NI sends it outside any task (R33, R44). -/
def niMsg (s : State) (n : Nat) (hdr : DWord) (words : List DWord) (chain : Nat) (work : DWord) (ltag : BitVec 16) : Msg :=
  { hdr := hdr, words := words, cap := none,
    env := mkEnv 0 ((s.partOf n).getD 0) chain s.modnum.toNat n, work := work, launch := ltag.setWidth 64, links := [],
    free := false, waited := 0, poison := false }

/-- Puts released messages into a core's NI; one send number per entry (R33). -/
def Core.niPost (c : Core) (m : Msg) (dests : List (Nat × Nat)) : Core :=
  let m' := m.numbered c.sendNo
  { c with
    ni := c.ni ++ [{ order := c.orders, released := true, body := .msg m',
                     copies := dests.map fun d => ⟨BitVec.ofNat 12 d.1, BitVec.ofNat 20 d.2, 0, .ready⟩, back := none }],
    sendNo := if m.kind = kindCount then c.sendNo else c.sendNo + 1, orders := c.orders + 1 }

/-- Sends a message from core `n`'s NI to one destination. -/
def State.niSend (s : State) (n : Nat) (m : Msg) : State :=
  s.modCore n fun c => c.niPost m [(hdrMod m.hdr, hdrCore m.hdr)]

/-- The failures that a kernel reports (R317). -/
def repTrapped : Nat := 1
def repUndelivered : Nat := 2
def repMxfault : Nat := 3
def repEngfault : Nat := 4

/-- How a completion record names why a message was not delivered (R317). -/
def reasonCode : Reason → Nat
  | .gone => 1 | .away => 2 | .full => 3 | .unreachable => 4 | .nochain => 5

/-- Queues a failure report to the launch of a tag (R61, R317); one that the kernel of core `n` sends takes the next send number of
its NI (R33). -/
def State.report (s : State) (n : Option Nat) (part : Option Nat) (ltag : BitVec 16) (kind cause : Nat) : State :=
  match part with
  | none => s
  | some p =>
    let s := match n with
      | some n => s.modCore n fun c => { c with sendNo := c.sendNo + 1 }
      | none => s
    { s with reports := s.reports ++ [⟨p, ltag, kind, cause⟩] }

/-- Waits, before a table of the partition is read, for the scrub of a frame that it lies in (R332). -/
def tableReady (part : Option Nat) (offs : State → Nat → List Nat) : Ex Unit := fun s =>
  match part.bind fun p => s.heldAmong p (offs s p) with
  | some f => .error (.scrub f)
  | none => .ok ((), s)

/-! ### Priority queues and counters -/

/-- The priority queue of a number. -/
def Core.queue (c : Core) (q : Nat) : List QItem := c.queues[q]?.getD []

/-- Puts work at the tail of a queue (R53). -/
def Core.enqueue (c : Core) (q : Nat) (t : Trigger) (now : Nat) : Core :=
  { c with queues := c.queues.setIfInBounds q (c.queue q ++ [⟨t, now⟩]) }

/-- Puts work at the head of a queue (R58). -/
def Core.enqueueHead (c : Core) (q : Nat) (t : Trigger) (now : Nat) : Core :=
  { c with queues := c.queues.setIfInBounds q (⟨t, now⟩ :: c.queue q) }

/-- Takes work out of every queue. -/
def Core.dequeue (c : Core) (t : Trigger) : Core :=
  { c with queues := vmap (fun l => l.filter fun x => !(x.what == t)) c.queues }

/-- Whether work stands in some queue. -/
def Core.queued (c : Core) (t : Trigger) : Bool := c.queues.toList.any fun l => l.any fun x => x.what == t

/-- Whether a queued start is a task on its way to a neighbour, which keeps its place here until it is taken there (R57). [log 30 DEDUCED] -/
def Core.away (c : Core) (t : Trigger) : Bool :=
  match t with
  | .slot i => c.ni.any fun e => e.back == some i
  | _ => false

/-- The queued starts of a core in the order of R53, without the tasks that are on their way to a neighbour. -/
def Core.starts (c : Core) : List Trigger :=
  ((c.queues.toList.flatMap id).map QItem.what).filter fun t => !c.away t

/-- A queued task that moves gives up its place and its slot (R57). -/
def Core.moved (c : Core) (slot : Nat) : Core :=
  let c := c.dequeue (.slot slot)
  { c with inbox := c.inbox.setIfInBounds slot none }

/-- The tasks on their way to a neighbour no longer return to this core. -/
def Core.unreturned (c : Core) : Core :=
  let c := (c.ni.filterMap SendEntry.back).foldl Core.moved c
  { c with ni := c.ni.map fun e => { e with back := none } }

/-- Counter `k` (R42). -/
def Core.counter (c : Core) (k : Nat) : Counter := c.counters[k]?.getD Counter.zero
/-- Counter `k` written. -/
def Core.setCounter (c : Core) (k : Nat) (e : Counter) : Core := { c with counters := c.counters.setIfInBounds k e }
/-- Sampling slot `i` (R237). -/
def Core.sample (c : Core) (i : Nat) : SampleSlot := c.samples[i]?.getD SampleSlot.zero

/-- Handler entry `k` (R36). -/
def Core.handler (c : Core) (k : Nat) : DWord := c.handlers[k]?.getD 0
/-- VALID of a handler entry (R36). -/
def hndValid (h : DWord) : Bool := h.getLsbD 63
def hndRestart (h : DWord) : Bool := h.getLsbD 62
def hndKern (h : DWord) : Bool := h.getLsbD 61
def hndInen (h : DWord) : Bool := h.getLsbD 60
def hndInbase (h : DWord) : Nat := (h.extractLsb' 48 12).toNat * 8
def hndRoutine (h : DWord) : Byte := h.extractLsb' 16 8
def hndPc (h : DWord) : BitVec 12 := h.extractLsb' 0 12

/-- Saturation to the signed 32-bit range (R225). -/
def sat32 (x : Int) : BitVec 32 := BitVec.ofInt 32 (max (-2147483648) (min 2147483647 x))

/-- A start more for a counter: PEND rises by one; at 65,535 it stays and OVR is set, as at a crossing (R43). [log 109 DESIGN CHOICE] -/
def Counter.pendMore (e : Counter) : Counter := if e.pend = 65535 then { e with ovr := true } else { e with pend := e.pend + 1 }

/-- What a decrement does to a counter's entry (R43): the entry, and whether it crossed zero. -/
def Counter.dec (e : Counter) (d : Nat) : Counter × Bool :=
  let old := e.count.toInt
  let now := (sat32 (old - d)).toInt
  if 0 < old ∧ now ≤ 0 then
    let e := { e with phase := !e.phase, count := sat32 (now + e.reload.toNat) }
    (if e.hen then e.pendMore else e, true)
  else ({ e with count := BitVec.ofInt 32 now }, false)

/-- Queues the one start of a counter while PEND is above zero (R43); a start that the kernel has parked waits elsewhere. [log 33 DEDUCED] -/
def Core.queueStart (c : Core) (k now : Nat) : Core :=
  let e := c.counter k
  if e.pend.toNat ≤ (c.parked.countP fun p => p.1 == .counter k) ∨ c.queued (.counter k) then c
  else c.enqueue e.prio.toNat (.counter k) now

/-- The counters of a panel that are registered under counter `k` of core `n`, among the cores that the state holds. -/
def State.children (s : State) (n k : Nat) : List (Nat × Nat) :=
  (s.coreNos.filter fun m => panelOf m == panelOf n).flatMap fun m =>
    (List.range 64).filterMap fun j => if ((s.getCore m).counter j).parent == some (n, k) then some (m, j) else none

/-- Every counter linked below a counter, at every depth (R45). -/
def State.below (s : State) : Nat → List (Nat × Nat) → List (Nat × Nat)
  | 0, _ => []
  | k + 1, cs =>
    let next := cs.flatMap fun c => s.children c.1 c.2
    if next.isEmpty then [] else next ++ s.below k next

/-- The decrement or message that a crossing sends to the parent (R43, R44). [log 32 DEDUCED] -/
def State.parentDec (s : State) (n k : Nat) : State :=
  let e := (s.getCore n).counter k
  if e.pen then
    if panelOf e.pcore.toNat = panelOf n then
      { s with decs := s.decs ++ [⟨e.pcore.toNat, e.pctr.toNat, 1, e.ltag⟩] }
    else
      s.niSend n (niMsg s n (mkHdr 1 0 0 e.pctr.toNat kindCount s.modnum.toNat e.pcore.toNat) [] e.chain.toNat e.work
        e.ltag)
  else s

/-- A decrement by `d` of counter `k` of core `n` (R43, R45). -/
def State.decrement (s : State) (n k d : Nat) : State :=
  let r := ((s.getCore n).counter k).dec d
  let s := s.modCore n fun c => c.setCounter k r.1
  if r.2 then
    let s := s.modCore n fun c => c.queueStart k s.clock
    let s := s.parentDec n k
    { s with flips := s.flips ++ s.below 4096 [(n, k)] }
  else s

/-! ### Taking a trap, and the return from it -/

/-- The pc of the bank that runs. -/
def Core.pcNow (c : Core) : BitVec 12 := if c.km then c.kpc else c.pc

/-- The instruction that the running stream stands at. -/
def Core.at_ (c : Core) : BitVec 12 :=
  match c.stream, c.rep with
  | .body, some r => match r.body[r.pos]? with
    | some b => b.pc
    | none => c.pcNow
  | _, _ => c.pcNow

/-- A task that runs as a CODE message (R37). -/
def Core.inCode (c : Core) : Bool := !c.km && (match c.task with
  | some t => t.code.isSome
  | none => false)

/-- EPC for a pc: bit 63 marks a message-relative one (R37). -/
def Core.epcOf (c : Core) (pc : BitVec 12) : DWord :=
  if c.inCode then pc.setWidth 64 ||| (1 <<< 63) else pc.setWidth 64

/-- The task bank let go of: bindings, repetition and queues (R58, R203, R206, R223), loads that have performed early. -/
def Core.unbindAll (c : Core) : Core :=
  { c with binds := [], rep := none, stream := .control, turn := .control, aqs := Vector.replicate 4 [], sc := none,
           rread := none, early := [], marked := [], loading := none }

/-- The sends of the running task discarded (R58). [log 61 DEDUCED] -/
def Core.dropSends (c : Core) : Core := { c with sendBuf := c.sendBuf.filter fun e => e.released }

/-- The queue that a start belongs to: PRIO of the message, of the counter or of the slot. [log 31 DEDUCED] -/
def Core.prioOf (c : Core) (t : Trigger) : Nat :=
  match t with
  | .slot i => match (c.inbox[i]?).bind id with
    | some m => m.prio
    | none => 3
  | .counter k => (c.counter k).prio.toNat
  | .sample i => (c.sample i).prio.toNat
  | .event i => match (c.evq[i]?).bind id with
    | some e => if e.phase == .late then 0 else e.msg.prio
    | none => 3

/-- The inbox slot or event-queue entry of a start freed; a counter's or a sampling slot's start holds none (R223). -/
def Core.freeTrigger (c : Core) (t : Trigger) : Core :=
  match t with
  | .slot i => { c with inbox := c.inbox.setIfInBounds i none }
  | .event i => { c with evq := c.evq.setIfInBounds i none }
  | _ => c

/-- A start put back at the head of its queue; a counter's PEND rises by one (R43, R58). [log 31 DEDUCED, log 109 DESIGN CHOICE] -/
def Core.putBack (c : Core) (t : Trigger) (now : Nat) : Core :=
  let c := match t with
    | .counter k => c.setCounter k (c.counter k).pendMore
    | _ => c
  (c.dequeue t).enqueueHead (c.prioOf t) t now

/-- Enters the kernel at TVEC in the kernel bank (R59). -/
def Csrs.entered (c : Csrs) (epc : DWord) (cause : Nat) (eval emsg echn : DWord) : Csrs :=
  { c with km := true, epc := epc, ecause := BitVec.ofNat 64 cause, eval := eval, emsg := emsg, echn := echn }

/-- Takes a core out of service (R62, HALT): the tasks on their way to a neighbour do not return to it; its flint halts with it (R353 names the two ends of a flint).
[log 15 DEDUCED] -/
def State.outOfService (s : State) (n : Nat) (failed : Bool) : State :=
  let s := s.modCore n fun c => { c.unreturned with out := true, task := none, svc := none }
  if n < 1048576 then s
  else { s with flints := s.flints.setIfInBounds (n - 1048576) (if failed then .failed else .halted) }

/-- The tag of the page request that a trap has made (R325). -/
def State.requestOf (s : State) (t : TrapInfo) : Option (BitVec 12) :=
  t.miss.bind fun m => s.tagFor m.part (m.off % 2 ^ 48 / 2 ^ 16) m.wr

/-- What the kernel keeps of the trap it serves, with the tag of its page request (R61, R374). -/
def serviceOf (s : State) (t : TrapInfo) (tag : Option (BitVec 12)) (k : Task) : Service :=
  { cause := t.cause, trigger := k.trigger, restart := k.restart, ltag := k.ltag, chain := s.core.chn.extractLsb' 0 16,
    work := k.work, eval := t.eval, reqTag := tag, dsd := t.dsd }

/-- What the walk of an access that traps leaves (R111): what the pattern walker has read and interned, and in the fitting cache of
the core in focus the result, where it passed. -/
def State.walkLeft (s : State) (p region : Nat) (passed : Bool) : State :=
  match s.fitWalk (panelOf s.focus) p s.core.handle region with
  | (.rule perms prins, s) =>
    let e : FitEntry := ⟨BitVec.ofNat 16 s.core.handle, BitVec.ofNat 10 region, perms, prins.length, prins⟩
    if passed then { s with core := { s.core with fit := fitTouch e s.core.fit } } else s
  | (_, s) => s

/-- What a trap leaves of the work done before it: the page request of an XLAT (R325), what the pattern walker's walk leaves (R111);
a hem that waits at its home is withdrawn with its task (R58, R235). [log 12 DESIGN CHOICE, log 25 DEDUCED] -/
def State.standing (s : State) (t : TrapInfo) : State :=
  let s := { s with hemWait := s.hemWait.filter fun w => !(w.2 == s.focus) }
  let s := match t.miss with
    | some m => s.pageMiss m
    | none => s
  match t.walk, s.partOf s.focus with
  | some w, some p => s.walkLeft p w.1 w.2
  | _, _ => s

/-- CHN of kernel-bank work: handle 0 (R101, R103). [log 110 DEDUCED] -/
def State.kernelChn (s : State) (n : Nat) : DWord :=
  match s.partOf n with
  | some p => s.chnOf p 0
  | none => 0

/-- A trap of the focus core, whose running instruction stands at `at_` and whose page request has the tag `tag` (R58, R59, R62): in
task mode the meter is split along CHN, the sends are discarded, bindings and repetition released, the start goes back to the head
of its queue and the kernel is entered at TVEC under handle 0; in kernel mode STATUS.NEST is set, and a trap that finds it set takes
the core out of service. The task bank keeps its registers. [log 15 DEDUCED] -/
def trapTaken (t : TrapInfo) (tag : Option (BitVec 12)) (at_ : BitVec 12) (s : State) : State :=
  if s.core.csr.km && s.core.csr.nest then s.outOfService s.focus true
  else
    let s := if s.core.csr.km then s else s.settle (s.partOf s.focus) s.core.handle s.core.csr.meter.toNat
    let c := s.core
    let k := c.task
    let emsg := match k with
      | some k => k.emsg
      | none => 0
    let c' := match k with
      | some k => c.putBack k.trigger s.clock
      | none => c
    let csr := c.csr.entered (if c.csr.km then at_.setWidth 64 else c.epcOf at_) t.cause t.eval emsg c.chn
    let svc := k.map (serviceOf s t tag)
    { s with core :=
      { c'.unbindAll.dropSends with
        csr := { csr with nest := c.csr.nest || c.csr.km }, kpc := c.csr.tvec, chn := s.kernelChn s.focus, task := none,
        svc := if c.csr.km then svc.or c.svc else svc, mxFault := none, stalled := false } }

/-- A trap taken at once: the page request of an XLAT is made with it (R325). [log 15 DEDUCED, log 110 DEDUCED] -/
def trapEntry (t : TrapInfo) (at_ : BitVec 12) (s : State) : State :=
  let s := s.standing t
  trapTaken t (s.requestOf t) at_ s

/-- Whether an iteration of a running body is in progress: an instruction of it has retired, or its first one is an SC operation that
has begun (R86). -/
def Core.inIteration (c : Core) (r : Rep) : Bool := !r.capturing && (r.pos != 0 || c.sc.any fun o => o.stream == .body)

/-- A trap of the running stream. A trap of the control stream while an iteration of a body is in progress waits for
that iteration to end (R86, R214). [log 16 DEDUCED] -/
def takeTrap (t : TrapInfo) (s : State) : State :=
  match s.core.stream, s.core.rep with
  | .control, some r =>
    if !s.core.inIteration r then trapEntry t s.core.at_ s
    else
      let s := s.standing t
      { s with core := { s.core with
          rep := some { r with stop := some ⟨t.cause, t.eval, s.core.pcNow, s.requestOf t, t.dsd⟩ }, turn := .body,
          stalled := false } }
  | _, _ => trapEntry t s.core.at_ s

/-- The stored trap of the control stream taken, the body having finished its iteration (R86, R214). [log 18 DEDUCED] -/
def takeStored (p : Stored) (s : State) : State :=
  trapTaken ⟨p.cause, p.eval, none, p.dsd, none⟩ p.tag p.pc { s with core := { s.core with stream := .control } }

/-! ### How an instruction ends -/

/-- The pc moved on by parcels. -/
def Core.pcOn (c : Core) (len : Nat) : Core :=
  if c.km then { c with kpc := c.kpc + BitVec.ofNat 12 len } else { c with pc := c.pc + BitVec.ofNat 12 len }

/-- The pc moved elsewhere. -/
def Core.pcTo (c : Core) (pc : BitVec 12) : Core := if c.km then { c with kpc := pc } else { c with pc := pc }

/-- An instruction retired: it is priced and counted (R116, R262). -/
def Core.retired (c : Core) : Core :=
  { c with csr := { c.csr.charge c.csr.insnPrice with instret := c.csr.instret + 1 }, stalled := false }

/-- The repetition after a body instruction: the next place, the next iteration, or its end (R210). -/
def Rep.next (r : Rep) : Option Rep :=
  if r.pos + 1 < r.body.length then some { r with pos := r.pos + 1 }
  else if r.iter + 1 < r.count.toNat then some { r with pos := 0, iter := r.iter + 1 }
  else none

/-- The repetition as its body's instruction leaves it: with its end no load of the body that has performed early is left (R75). -/
def Core.repOn (c : Core) (r : Option Rep) : Core :=
  { c with rep := r, early := if r.isSome then c.early else c.early.filter fun e => e.stream == .control }

/-- A body instruction retired; at the end of an iteration a trap that the control stream has left is taken. -/
def State.bodyOn (s : State) (r : Rep) : State :=
  let s := { s with core := { s.core.repOn r.next with turn := .control, stream := .control } }
  match r.stop, r.next with
  | some p, some r' => if r'.pos = 0 then takeStored p s else { s with core := { s.core with turn := .body } }
  | some p, none => takeStored p s
  | none, _ => s

/-- The access of the running stream waits on a watermark (R97). -/
def Core.awaitsMarks (c : Core) : Core := if c.marked.contains c.stream then c else { c with marked := c.stream :: c.marked }

/-- The focus core waits. Where a trap of the control stream is stored, only the body moves until its iteration ends, or until
BUDGET ends its wait (R72, R86). -/
def State.stalledOn (s : State) (_queue : Bool) : State :=
  match s.core.stream, s.core.rep with
  | .body, some r =>
    { s with core := { s.core with stalled := true, turn := if r.stop.isSome then .body else .control, stream := .control }, waiting := true }
  | _, _ => { s with core := { s.core with stalled := true, turn := .body }, waiting := true }

/-- An instruction completes (R58): it retires and the pc moves. -/
def State.complete (s : State) (len : Nat) (f : Flow) : State :=
  match f with
  | .ended => s
  | .wait => { s with core := { s.core with stalled := true }, waiting := true }
  | .jump pc => { s with core := { s.core.retired.pcTo pc with turn := .body } }
  | .seq =>
    let s := { s with core := s.core.retired }
    match s.core.stream, s.core.rep with
    | .body, some r => s.bodyOn r
    | _, _ => { s with core := { s.core.pcOn len with turn := .body } }

/-- Runs the effect of an instruction of `len` parcels on the focus core: it completes, traps from the state before it
(R58), or waits without effect. [log 16 DEDUCED] -/
def finish (len : Nat) (m : Ex Flow) (s : State) : Out :=
  match m s with
  | .ok (f, s') => .next (s'.complete len f)
  | .error (.trap t) => .next (takeTrap t s)
  | .error (.stall q) => .next (s.stalledOn q)
  | .error .marks => .next ({ s with core := s.core.awaitsMarks }.stalledOn false)
  | .error (.hold m) => .next ((s.pageMiss m).stalledOn false)
  | .error (.scrub f) => .next ((s.demanded f).stalledOn false)

end Sys2Proof.Machine
end

