-- ==== Sys2Proof/Machine/Hash.lean ====
section
/-! DEFINITION. The hashes and signatures that boot checks (R345, R347, R350): SHA-256, and the verification of an HSS signature of
two levels of LMS_SHA256_M32_H15 with LMOTS_SHA256_N32_W4 as RFC 8554 gives it. -/

namespace Sys2Proof.Machine

/-- The word of 32 bits at place `i` of a row of words written as one number, the word at place 0 the most significant of `n`. -/
def wordAt (n row i : Nat) : BitVec 32 := BitVec.ofNat 32 (row >>> (32 * (n - 1 - i)))

/-- The round constants of SHA-256 (the first 32 bits of the fractional parts of the cube roots of the first 64 primes), eight to
a number of 256 bits. -/
def shaRows : List Nat :=
  [0x428a2f9871374491b5c0fbcfe9b5dba53956c25b59f111f1923f82a4ab1c5ed5,
   0xd807aa9812835b01243185be550c7dc372be5d7480deb1fe9bdc06a7c19bf174,
   0xe49b69c1efbe47860fc19dc6240ca1cc2de92c6f4a7484aa5cb0a9dc76f988da,
   0x983e5152a831c66db00327c8bf597fc7c6e00bf3d5a7914706ca635114292967,
   0x27b70a852e1b21384d2c6dfc53380d13650a7354766a0abb81c2c92e92722c85,
   0xa2bfe8a1a81a664bc24b8b70c76c51a3d192e819d6990624f40e3585106aa070,
   0x19a4c1161e376c082748774c34b0bcb5391c0cb34ed8aa4a5b9cca4f682e6ff3,
   0x748f82ee78a5636f84c878148cc7020890befffaa4506cebbef9a3f7c67178f2]

/-- The round constants in order. -/
def shaConstants : List (BitVec 32) := shaRows.flatMap fun row => (List.range 8).map (wordAt 8 row)

/-- The eight working variables of SHA-256. -/
structure ShaState where
  a : BitVec 32
  b : BitVec 32
  c : BitVec 32
  d : BitVec 32
  e : BitVec 32
  f : BitVec 32
  g : BitVec 32
  h : BitVec 32
deriving DecidableEq, Repr

/-- The initial hash value: eight words that one number of 256 bits holds. -/
def shaInit : ShaState :=
  let w := wordAt 8 0x6a09e667bb67ae853c6ef372a54ff53a510e527f9b05688c1f83d9ab5be0cd19
  ⟨w 0, w 1, w 2, w 3, w 4, w 5, w 6, w 7⟩

/-- The next word of the schedule from the last sixteen, the latest first. -/
def shaNext (w : List (BitVec 32)) : BitVec 32 :=
  let at_ (i : Nat) : BitVec 32 := w[i - 1]?.getD 0
  let x := at_ 2
  let y := at_ 15
  (x.rotateRight 17 ^^^ x.rotateRight 19 ^^^ (x >>> 10)) + at_ 7 + (y.rotateRight 7 ^^^ y.rotateRight 18 ^^^ (y >>> 3)) + at_ 16

/-- One round. -/
def shaRound (s : ShaState) (k w : BitVec 32) : ShaState :=
  let t1 := s.h + (s.e.rotateRight 6 ^^^ s.e.rotateRight 11 ^^^ s.e.rotateRight 25) + ((s.e &&& s.f) ^^^ (~~~s.e &&& s.g)) + k + w
  let t2 := (s.a.rotateRight 2 ^^^ s.a.rotateRight 13 ^^^ s.a.rotateRight 22) + ((s.a &&& s.b) ^^^ (s.a &&& s.c) ^^^ (s.b &&& s.c))
  ⟨t1 + t2, s.a, s.b, s.c, s.d + t1, s.e, s.f, s.g⟩

/-- The rounds of a block: `todo` holds the words of the block not yet used, `past` the last sixteen, the latest first. -/
def shaRounds : List (BitVec 32) → List (BitVec 32) → List (BitVec 32) → ShaState → ShaState
  | [], _, _, s => s
  | k :: ks, w :: todo, past, s => shaRounds ks todo (w :: past) (shaRound s k w)
  | k :: ks, [], past, s => let w := shaNext past; shaRounds ks [] ((w :: past).take 16) (shaRound s k w)

/-- Big-endian number of bytes. -/
def bigEndian (l : List Byte) : Nat := l.foldl (fun n b => n * 256 + b.toNat) 0

/-- The low `n` bytes of a number, big-endian. -/
def beBytes : Nat → Nat → List Byte
  | 0, _ => []
  | n + 1, v => beBytes n (v / 256) ++ [BitVec.ofNat 8 v]

/-- The words of a block. -/
def shaWords (l : List Byte) : List (BitVec 32) :=
  (List.range 16).map fun i => BitVec.ofNat 32 (bigEndian ((l.drop (4 * i)).take 4))

/-- One block of 64 bytes. -/
def shaBlock (s : ShaState) (l : List Byte) : ShaState :=
  let r := shaRounds shaConstants (shaWords l) [] s
  ⟨s.a + r.a, s.b + r.b, s.c + r.c, s.d + r.d, s.e + r.e, s.f + r.f, s.g + r.g, s.h + r.h⟩

/-- `n` blocks in turn. -/
def shaBlocks : Nat → List Byte → ShaState → ShaState
  | 0, _, s => s
  | n + 1, l, s => shaBlocks n (l.drop 64) (shaBlock s (l.take 64))

/-- SHA-256 of a byte string: 32 bytes. -/
def sha256 (m : List Byte) : List Byte :=
  let n := m.length
  let padded := m ++ [0x80] ++ List.replicate ((119 - n % 64) % 64) 0 ++ beBytes 8 (8 * n)
  let s := shaBlocks (padded.length / 64) padded shaInit
  [s.a, s.b, s.c, s.d, s.e, s.f, s.g, s.h].flatMap fun w => beBytes 4 w.toNat

/-- Bytes as a bit vector: byte k in bits [8k + 7 : 8k] (R349). -/
def bytesToBits (l : List Byte) : Nat := l.foldr (fun b n => b.toNat + 256 * n) 0
/-- The low `n` bytes of a number, little-endian (R4). -/
def leBytes : Nat → Nat → List Byte
  | 0, _ => []
  | n + 1, v => BitVec.ofNat 8 v :: leBytes n (v / 256)

/-- A digest as 256 bits. -/
def digest (m : List Byte) : BitVec 256 := BitVec.ofNat 256 (bytesToBits (sha256 m))
/-- The 32 bytes of a digest. -/
def digestBytes (d : BitVec 256) : List Byte := leBytes 32 d.toNat

/-! ### HSS (RFC 8554) -/

/-- Bytes [a, a + n) of a string. -/
def slice (l : List Byte) (a n : Nat) : List Byte := (l.drop a).take n

/-- The digits of four bits of a byte string, the high half of each byte first. -/
def nibbles (l : List Byte) : List Nat := l.flatMap fun b => [b.toNat / 16, b.toNat % 16]

/-- A chain of `n` hashes from step `j` on. -/
def lmotsChain (pre : List Byte) : Nat → Nat → List Byte → List Byte
  | 0, _, t => t
  | n + 1, j, t => lmotsChain pre n (j + 1) (sha256 (pre ++ beBytes 1 j ++ t))

/-- The candidate for a one-time public key: I, q, C, the chains' values and the message. -/
def lmotsCandidate (id : List Byte) (q : Nat) (c y m : List Byte) : List Byte :=
  let iq := id ++ beBytes 4 q
  let h := sha256 (iq ++ beBytes 2 0x8181 ++ c ++ m)
  let sum := (nibbles h).foldl (fun s a => s + (15 - a)) 0
  let digits := (nibbles (h ++ beBytes 2 (sum * 16))).take 67
  let z := digits.zipIdx.flatMap fun a => lmotsChain (iq ++ beBytes 2 a.2) (15 - a.1) a.1 (slice y (32 * a.2) 32)
  sha256 (iq ++ beBytes 2 0x8080 ++ z)

/-- The root that a leaf and its path give: `n` is the node's number. -/
def lmsRoot (id path : List Byte) : Nat → Nat → Nat → List Byte → List Byte
  | 0, _, _, t => t
  | k + 1, i, n, t =>
    let p := slice path (32 * i) 32
    lmsRoot id path k (i + 1) (n / 2)
      (sha256 (id ++ beBytes 4 (n / 2) ++ beBytes 2 0x8383 ++ (if n % 2 = 1 then p ++ t else t ++ p)))

/-- An LMS signature of 2,668 bytes over a message, under a public key of 56 bytes. -/
def lmsVerify (key sig m : List Byte) : Bool :=
  let num (l : List Byte) (a : Nat) : Nat := bigEndian (slice l a 4)
  let id := slice key 8 16
  let q := num sig 0
  let leaf := 2 ^ 15 + q
  num key 0 == 7 && num key 4 == 3 && num sig 4 == 3 && num sig 2184 == 7 && decide (q < 2 ^ 15) &&
    lmsRoot id (slice sig 2188 480) 15 0 leaf
      (sha256 (id ++ beBytes 4 leaf ++ beBytes 2 0x8282 ++
        lmotsCandidate id q (slice sig 8 32) (slice sig 40 2144) m)) == slice key 24 32

/-- An HSS signature of two levels, 5,396 bytes, under a public key of 60 bytes (R344, R345 check 4). -/
def hssVerify (pub m sig : List Byte) : Bool :=
  let signed := slice sig 2672 56
  bigEndian (slice pub 0 4) == 2 && bigEndian (slice sig 0 4) == 1 &&
    lmsVerify (slice pub 4 56) (slice sig 4 2668) signed && lmsVerify signed (slice sig 2728 2668) m

end Sys2Proof.Machine
end

