-- ==== Sys2Proof/Machine/Install.lean ====
section
/-! DEFINITION. A routine image as INSTALL reads it, and its installation on one core at a task boundary (R157, R318). -/

namespace Sys2Proof.Machine

/-- A byte at a guest offset; a frame that is scrub-pending reads as the scrub leaves it (R332). -/
def State.guestByte (s : State) (p off : Nat) : Byte :=
  match s.tableAt p off false with
  | some e => if s.holds e then 0 else s.mem.byte (e.mpa off)
  | none => (Config.strayWord s.tick off).setWidth 8

/-- `n` bytes at a guest offset, little-endian. -/
def State.guestBytes (s : State) (p off : Nat) : Nat → Nat
  | 0 => 0
  | n + 1 => (s.guestByte p off).toNat + 256 * s.guestBytes p (off + 1) n

/-- The next multiple of 16. -/
def up16 (n : Nat) : Nat := (n + 15) / 16 * 16

/-- The parts of an image behind its header: where the parcels, the region bytes, the descriptors and the handler records
start, and where it ends (R318). -/
structure ImageParts where
  code    : Nat
  region  : Nat
  windows : Nat
  records : Nat
  ends    : Nat
deriving DecidableEq, Repr

/-- The parts of an image of so many parcels, region bytes and handler records (R318). -/
def imageParts (nparc rbytes nhand : Nat) : ImageParts :=
  let region := up16 (64 + 2 * nparc)
  let windows := up16 (region + rbytes)
  let records := windows + 256
  { code := 64, region := region, windows := windows, records := records, ends := records + 16 * nhand }

/-- The routine that an image at a guest offset describes, and how many handler records it has (R318). -/
def State.imageOf (s : State) (p at_ : Nat) (r : Byte) : Routine × Nat :=
  let w0 := BitVec.ofNat 64 (s.guestBytes p at_ 8)
  let w1 := BitVec.ofNat 64 (s.guestBytes p (at_ + 8) 8)
  let nparc := (w0.extractLsb' 16 16).toNat
  let rbytes := (w0.extractLsb' 48 16).toNat
  let nhand := (w1.extractLsb' 16 7).toNat
  let parts := imageParts nparc rbytes nhand
  ({ index := r, imemOff := (w0.extractLsb' 0 16).toNat, nparc := nparc, tb := (w0.extractLsb' 32 15).toNat,
     rbytes := rbytes, region := w1.extractLsb' 0 10,
     windows := vtab 16 fun i => BitVec.ofNat 128 (s.guestBytes p (at_ + parts.windows + 16 * i) 16) }, nhand)

/-- A handler entry as it is kept: [44:24] and [15:12], which are ignored, read as zero (R5, R36). -/
def cleanHandler (e : DWord) : DWord := e &&& 0xFFFFE00000FF0FFF

/-- A handler entry with its routine's index in it (R318). -/
def withRoutine (e : DWord) (r : Byte) : DWord := (cleanHandler e &&& ~~~(0xFF0000 : DWord)) ||| (r.setWidth 64 <<< 16)

/-- The handler records of an image: class and entry (R318). -/
def State.imageHandlers (s : State) (p at_ : Nat) (r : Routine) (nhand : Nat) : List (Nat × DWord) :=
  let at_ := at_ + (imageParts r.nparc r.rbytes nhand).records
  (List.range nhand).map fun i =>
    (s.guestBytes p (at_ + 16 * i) 8 % 64, withRoutine (BitVec.ofNat 64 (s.guestBytes p (at_ + 16 * i + 8) 8)) r.index)

/-- Bytes of an image written to a core's memory. -/
def State.copyIn (s : State) (p off loc : Nat) : Nat → State
  | 0 => s
  | n + 1 =>
    let v := (s.guestByte p off).toNat
    { s with mem := s.mem.store loc 1 v false false }.copyIn p (off + 1) (loc + 1) n

/-- A range of memory without marks and tags: what INSTALL writes is clean. -/
def Memory.clean (m : Memory) (a n : Nat) : Memory :=
  { m with tags := m.tags.filter fun q => !(decide (q < a + n) && decide (a < q + 16)),
           poison := m.poison.filter fun d => !(decide (a ≤ d) && decide (d + 8 ≤ a + n)) }

/-- Whether a handler entry belongs to a routine. -/
def ofRoutine (e : DWord) (r : Byte) : Bool := hndValid e && hndRoutine e == r

/-- The handler entries of a routine made invalid (R311 UNINSTALL, R318). -/
def Core.dropHandlers (c : Core) (r : Byte) : Core :=
  { c with handlers := vmap (fun e => if ofRoutine e r then e &&& ~~~((1 : DWord) <<< 63) else e) c.handlers }

/-- An image written into core `n` (R157, R318). -/
def State.installImage (s : State) (n p : Nat) (i : RoutineInfo) : State :=
  let r := i.routine
  let at_ := i.image.toNat
  let parts := imageParts r.nparc r.rbytes i.classes.length
  let s := s.copyIn p (at_ + parts.code) (imemBase n + 2 * r.imemOff) (2 * r.nparc)
  let s := s.copyIn p (at_ + parts.region) (tcmBase n + r.tb) r.rbytes
  let s := { s with mem := s.mem.clean (tcmBase n + r.tb) r.rbytes }
  s.modCore n fun c =>
    let c := c.dropHandlers r.index
    { c with
      handlers := i.classes.foldl (fun h e => h.setIfInBounds e.1 e.2) c.handlers,
      routines := r :: c.routines.filter fun x => !(x.index == r.index) }

/-- The window of a global queue number (R307). -/
def State.window (s : State) (q : Nat) : QWindow := (alookup q s.queues).getD QWindow.zero
/-- The window of a queue changed. -/
def State.modWindow (s : State) (q : Nat) (f : QWindow → QWindow) : State := { s with queues := aset q (f (s.window q)) s.queues }

/-- A packet completes: its SET mask joins the tokens of its queue (R312). -/
def State.packetDone (s : State) (k : Packet) : State :=
  match k.slot with
  | some q => s.modWindow q.1 fun w => { w with tokens := w.tokens ||| k.set }
  | none => s

/-- Whether some core still waits for an install (R318). -/
def State.installOut (s : State) (job : Nat) : Bool :=
  s.core.install.any (fun x => x.2.2 == job) || s.others.any fun c => c.2.install.any fun x => x.2.2 == job

/-- The pending entry of an install. -/
def Pending.isInstall (k : Pending) (job : Nat) : Bool :=
  match k.body with
  | .install _ j => j == job
  | _ => false

/-- An INSTALL packet completes once every core has installed its image (R311). -/
def State.installEnds (s : State) (p job : Nat) (r : Byte) : State :=
  if s.installOut job then s
  else
    match s.pending.find? (Pending.isInstall · job) with
    | none => s
    | some k =>
      let s := { s with pending := s.pending.filter fun x => !x.isInstall job }
      (s.modPart p fun q =>
        { q with routines := q.routines.map fun i => if i.routine.index = r then { i with ready := true } else i }).packetDone k.packet

/-- A core that cannot go on now: in focus, it lets the module's other work go on. -/
def State.rests (s : State) (n : Nat) : State := if n = s.focus then { s with waiting := true } else s

/-- The oldest image of its partition that waits for core `n` installed, at a task boundary (R318), once its pages have been scrubbed
(R332). -/
def State.installNext (s : State) (n : Nat) : State :=
  let c := s.getCore n
  if c.task.isSome || c.km then s
  else
    match s.partOf n with
    | none => s
    | some p =>
      match c.install.find? fun x => x.1 == p with
      | none => s
      | some e =>
        match ((s.part p).routines.find? fun i => i.routine.index == e.2.1 && !i.gone).bind fun i =>
            s.heldAmong p (pagesIn i.image.toNat i.bytes) with
        | some f => (s.demanded f).rests n
        | none =>
          let s := s.modCore n fun c => { c with install := c.install.erase e }
          let s := match (s.part p).routines.find? fun i => i.routine.index == e.2.1 && !i.gone with
            | some i => s.installImage n p i
            | none => s
          s.installEnds p e.2.2 e.2.1

def execCoreInstall (core : Nat) (s : State) : Out := .next (s.installNext core)

end Sys2Proof.Machine
end

