-- ==== Sys2Proof/Machine/RegRead.lean ====
section
/-! DEFINITION. The register spaces of the Brixmal functions as they read (R306): where an offset lies, and what each register gives
(R307, R309, R328, R329, R349, R351, R353, R355 to R358, R360, R365, R369, R371, R372); the configuration space (R29, R30). -/

namespace Sys2Proof.Machine

/-- Bits [lo + n - 1 : lo] of a doubleword. -/
def bitsAt (v : DWord) (lo n : Nat) : Nat := v.toNat / 2 ^ lo % 2 ^ n

/-- The unit whose registers an offset names, with the offset inside its block (R306). -/
inductive RegPlace where
  | part (p o : Nat)
  | die (d o : Nat)
  | queue (q o : Nat)
  | none
deriving DecidableEq, Repr

/-- Where an offset of the physical function lies (R306). -/
def placePf (off : Nat) : RegPlace :=
  if 0x80000 ≤ off ∧ off < 0xC0000 then .part ((off - 0x80000) / 0x1000) (off % 0x1000)
  else if 0x1000000 ≤ off ∧ off < 0x1400000 then .die ((off - 0x1000000) / 0x100000) (off % 0x100000)
  else if 0x2000000 ≤ off ∧ off < 0x4000000 then .queue ((off - 0x2000000) / 0x1000) (off % 0x1000)
  else .none

/-- Where an offset of the virtual function of partition `n` lies (R306). -/
def placeVf (n off : Nat) : RegPlace :=
  if 0x1000 ≤ off ∧ off < 0x2000 then .part n (off % 0x1000)
  else if 0x2000000 ≤ off ∧ off < 0x4000000 then .queue ((off - 0x2000000) / 0x1000) (off % 0x1000)
  else .none

/-- Where an agent's offset lies; the management interface uses the physical function's (R349, R372). [log 86 DEDUCED] -/
def regPlace (a : RegAgent) (off : Nat) : RegPlace :=
  match a with
  | .vf n => placeVf n off
  | _ => placePf off

/-- Register `k` of `n` at offset `base + step * k`, where an offset names one. -/
def indexAt (o base step n : Nat) : Option Nat :=
  if base ≤ o ∧ o < base + step * n ∧ (o - base) % step = 0 then some ((o - base) / step) else none

/-- STAT.BUSY of a queue: a packet has been taken and has not completed (R307). -/
def State.queueBusy (s : State) (q : Nat) : Bool :=
  let mine (k : Packet) : Bool := match k.slot with
    | some x => x.1 == q
    | none => false
  (s.pending.any fun k => mine k.packet) || s.launches.any fun l => mine l.packet

/-- Group `g` of a die (R369). -/
def Die.group (d : Die) (g : Nat) : Group := d.groups[g]?.getD Group.zero

/-- The training block of a die that an offset names, with the offset in it (R358). -/
def trainAt (d o : Nat) : Option (TrainBlock × Nat) :=
  let first := [0, 5, 10, 14][d]?.getD 0
  let ports := if d < 2 then 5 else 4
  if 0x40000 ≤ o ∧ o < 0x40800 then some (.gddr (32 * d + (o - 0x40000) / 0x40), o % 0x40)
  else if 0x50000 ≤ o ∧ o < 0x50040 then some (.brix d, o % 0x40)
  else if 0x50040 ≤ o ∧ o < 0x50040 + 0x40 * ports then some (.trarum (first + (o - 0x50040) / 0x40), o % 0x40)
  else none

/-! ### Reads -/

/-- A doubleword of fields, each with its place. -/
def fieldsAt (l : List (Nat × Nat)) : DWord := BitVec.ofNat 64 (l.map fun x => x.1 * 2 ^ x.2).sum
/-- A bit as a number. -/
def asBit (b : Bool) : Nat := if b then 1 else 0

/-- What a partition block reads (R328, R371); SABASE, COP and PRICE codes as the physical function sees them. -/
def State.readPart (s : State) (p o : Nat) : DWord :=
  let q := s.part p
  match o with
  | 0x000 => fieldsAt [(asBit q.en, 63)]
  | 0x008 => q.s2root
  | 0x010 => q.g1root
  | 0x018 => q.psbase
  | 0x020 => q.ptbase
  | 0x028 => q.ptcount.setWidth 64
  | 0x030 => q.ctbase
  | 0x038 => q.pbbase
  | 0x040 => q.pbcount.setWidth 64
  | 0x048 => q.acbase
  | 0x050 => fieldsAt [(asBit q.bookflush, 0)]
  | 0x058 => fieldsAt [(asBit q.xlflush, 0)]
  | 0x060 => q.waymask
  | 0x068 => q.price0
  | 0x070 => q.price1
  | 0x078 => q.prqbase
  | 0x080 => fieldsAt [(q.prqwidx.toNat, 32), (q.prqlog.toNat, 0)]
  | 0x088 => q.prqridx.setWidth 64
  | 0x090 => q.rpbase
  | 0x098 => fieldsAt [(q.rplog.toNat, 32), (q.rpwidx.toNat, 0)]
  | 0x0A0 => q.peerbase
  | 0x0A8 => q.peercount.setWidth 64
  | 0x0B0 => q.sabase
  | 0x0B8 => fieldsAt [(asBit (q.context != .idle), 63)]
  | 0x0C0 => q.featcopy
  | 0x0C8 => q.dmbase
  | 0x0D0 => fieldsAt [(asBit q.dmen, 63)]
  | _ => 0

/-- What a queue window reads (R307). -/
def State.readQueue (s : State) (q o : Nat) : DWord :=
  let w := s.window q
  match o with
  | 0x000 => w.widx.setWidth 64
  | 0x008 => w.ridx.setWidth 64
  | 0x010 => w.tokens
  | 0x018 => fieldsAt [(w.fidx.toNat, 32), (w.reason.toNat, 8), (asBit (s.queueBusy q), 1), (asBit w.err, 0)]
  | 0x020 => w.part.setWidth 64
  | _ => 0

/-- What a training block reads (R358). -/
def trainWord (t : Train) (o : Nat) : DWord :=
  match o with
  | 0x00 => fieldsAt [(asBit t.go, 63), (t.arg.toNat, 8), (t.op.toNat, 0)]
  | 0x08 => fieldsAt [(asBit t.done, 63), (asBit t.pass, 62), (t.margin.toNat, 32), (t.errs.toNat, 0)]
  | _ => match indexAt o 0x10 8 6 with
    | some k => t.res[k]?.getD 0
    | none => 0

/-- Doubleword `k` of a value of 256 bits. -/
def partAt (x : BitVec 256) (k : Nat) : DWord := x.extractLsb' (64 * k) 64

/-- A request of the security block that is an extend (R347). -/
def SecReq.isExtend (r : SecReq) : Bool :=
  match r with
  | .extend .. => true
  | .quote _ => false

/-- What the security block reads (R349, R351). -/
def State.readSecurity (s : State) (o : Nat) : DWord :=
  let x := s.sec
  match o with
  | 0x60120 => fieldsAt [(asBit (x.queue.any SecReq.isExtend), 63), (x.idx.toNat, 0)]
  | 0x60128 => fieldsAt [(asBit x.merr, 63), (x.lock.toNat, 0)]
  | 0x60130 => x.lock.setWidth 64
  | 0x60180 => fieldsAt [(asBit x.fuselock, 63)]
  | 0x60188 => fieldsAt [(asBit x.fgo, 63), (x.field.toNat, 16), (x.index.toNat, 0)]
  | 0x60220 => fieldsAt [(asBit x.qgo, 63)]
  | 0x60228 => fieldsAt [(asBit x.qdone, 63), (asBit x.qok, 62), (x.qreason.toNat, 8)]
  | 0x60340 => BitVec.ofNat 64 s.fuses.idctr
  | 0x60400 => x.boot
  | 0x60408 => x.featmpa
  | _ =>
    if o < 0x60100 then partAt (x.meas[(o - 0x60000) / 32]?.getD 0) (o % 32 / 8)
    else if 0x61000 ≤ o then BitVec.ofNat 64 (bytesToBits ((x.qbuf.drop (o - 0x61000)).take 8))
    else if 0x60300 ≤ o ∧ o < 0x60340 then
      BitVec.ofNat 64 (bytesToBits ((List.range 8).map fun k => if o - 0x60300 + k < 60 then Config.idPub (o - 0x60300 + k) else 0))
    else match indexAt o 0x60140 8 4, indexAt o 0x60200 8 4 with
      | some k, _ => fieldsAt [((x.mcount[2 * k]?.getD 0).toNat, 0), ((x.mcount[2 * k + 1]?.getD 0).toNat, 32)]
      | _, some k => partAt x.qnonce k
      | _, _ => 0

/-- STATE of a flint (R353). -/
def flintCode (f : FlintState) : Nat :=
  match f with
  | .held => 0
  | .halted => 2
  | .failed => 3
  | _ => 1

/-- What the power and temperature registers read (R355 to R357, R372). -/
def State.readPower (s : State) (o : Nat) : DWord :=
  match o with
  | 0x70100 => fieldsAt [(asBit s.clkBusy, 63), (s.clkCur.toNat, 8), (s.clkReq.toNat, 0)]
  | 0x70108 => s.pwrlim.setWidth 64
  | 0x70110 => s.pwrnow.setWidth 64
  | 0x70118 => s.throt.setWidth 64
  | _ => match indexAt o 0x70000 8 9, indexAt o 0x70120 8 4 with
    | some n, _ => let r := s.rail n; fieldsAt [(asBit r.pgood, 63), (asBit r.fault, 62), (r.vset.toNat, 8), (asBit r.en, 0)]
    | _, some d => (s.temps[d]?.getD 0).setWidth 64
    | _, _ => 0

/-- What the error registers and the groups of a die read (R365, R369). -/
def State.readErrors (s : State) (d o : Nat) : DWord :=
  let x := s.die d
  match o with
  | 0x90000 => x.errbase
  | 0x90008 => fieldsAt [(x.errwidx.toNat, 32), (x.errlog.toNat, 0)]
  | 0x90010 => x.errridx.setWidth 64
  | 0x90018 => x.waydis.setWidth 64
  | 0x90020 => x.corrcnt.setWidth 64
  | 0x90028 => x.transcnt.setWidth 64
  | 0x90030 => x.lastcnt.setWidth 64
  | 0x90038 => x.lost.setWidth 64
  | _ => match indexAt o 0x90100 8 64, indexAt o 0x90400 8 64, indexAt o 0x91000 8 64 with
    | some i, _, _ => let e := x.filter[i]?.getD (false, 0); fieldsAt [(asBit e.1, 63), (e.2.toNat, 16)]
    | _, some r, _ =>
      fieldsAt [(asBit (x.spent.getLsbD r), 63), (((alookup r x.discol).getD (Config.fabricated d r)).toNat, 0)]
    | _, _, some i =>
      let g := x.group (i / 4)
      match i % 4 with
      | 0 => fieldsAt [(asBit g.en, 63), (g.slice.toNat, 0)]
      | 1 => fieldsAt ((List.range 8).map fun k => let e := g.ents[k]?.getD (false, 0); (asBit e.1 * 128 + e.2.toNat, 8 * k))
      | 2 => g.gsbase
      | _ => fieldsAt [(asBit g.switching, 63), (g.cur.toNat, 0)]
    | _, _, _ => 0

/-- What a die window reads, and in die 0's the units that only it has (R306). -/
def State.readDie (s : State) (a : RegAgent) (d o : Nat) : DWord :=
  let x := s.die d
  match trainAt d o with
  | some t => trainWord (s.train t.1) t.2
  | none =>
    if 0x90000 ≤ o then s.readErrors d o
    else if 0x70000 ≤ o then (if d = 0 then s.readPower o else 0)
    else if 0x64000 ≤ o then
      if d = 0 ∧ a = .flint 0 ∧ (o - 0x64000) % 0x4000 = 0x2008 then
        BitVec.ofNat 64 (flintCode (s.flint ((o - 0x64000) / 0x4000 + 1))) else 0
    else if 0x60000 ≤ o then (if d = 0 then s.readSecurity o else 0)
    else if o = 0x51000 then (if d = 0 then s.porten.setWidth 64 else 0)
    else match o with
      | 0x200 => fieldsAt [(asBit (!x.cmds.isEmpty), 63)]
      | 0x208 => x.mscways.setWidth 64
      | 0x210 => x.sqbase
      | 0x218 => fieldsAt [(x.sqwidx.toNat, 32), (x.sqlog.toNat, 0)]
      | 0x220 => x.sqridx.setWidth 64
      | _ =>
        match indexAt o 0x100 8 4, indexAt o 0x120 8 4, indexAt o 0x10000 8 4096 with
        | some p, _, _ => x.lhead[p]?.getD 0
        | _, some p, _ => x.wcur[p]?.getD 0
        | _, _, some p => (match alookup p x.occ with
          | some q => fieldsAt [(1, 7), (q.toNat, 0)]
          | none => 0)
        | _, _, _ =>
          match indexAt o 0x20000 8 96, indexAt o 0x30000 8 4096 with
          | some k, _ => (match alookup k x.owner with
            | some q => fieldsAt [(1, 7), (q.toNat, 0)]
            | none => 0)
          | _, some p => fieldsAt [(1, 63), (((alookup p x.serials).getD 0).toNat, 0)]
          | _, _ => 0

/-- Whether the management interface may read an offset of a die window (R349, R372): the security block, PWRNOW, THROT, CLKSTATE, the
rails and the temperatures, PORTEN, the errors but for their ring, the groups. -/
def mgmtReads (d o : Nat) : Bool :=
  (d == 0 && ((decide (0x60000 ≤ o) && decide (o < 0x64000)) || (indexAt o 0x70000 8 9).isSome || o == 0x70100 || o == 0x70110 ||
    o == 0x70118 || (indexAt o 0x70120 8 4).isSome || o == 0x51000)) ||
    (decide (0x90018 ≤ o) && decide (o < 0x92000))

/-- What a register of an agent's register space reads (R306). -/
def State.registerRead (s : State) (a : RegAgent) (off : Nat) : DWord :=
  match regPlace a off with
  | .part p o => if a = .mgmt ∨ (a = .vf p ∧ o = 0x0B0) then 0 else s.readPart p o
  | .queue q o => match a with
    | .mgmt => 0
    | .vf n => if (s.window q).part.toNat = n then s.readQueue q o else 0
    | _ => s.readQueue q o
  | .die d o => if a = .mgmt ∧ !mgmtReads d o then 0 else s.readDie a d o
  | .none => 0

/-! ### The configuration space -/

/-- Four bytes of a function's configuration space (R29, R30, R362): in every function's the feature list stands from 0x100 on.
[log 105 DESIGN CHOICE] -/
def configRead (fn off : Nat) : BitVec 32 :=
  match Config.featureList.find? fun e => decide (e.1 ≤ off) && decide (off < e.1 + 16) with
  | some e =>
    match (off - e.1) / 4 with
    | 0 => BitVec.ofNat 32 e.2.1
    | 1 => BitVec.ofNat 32 e.2.2.1
    | 2 => BitVec.ofNat 32 e.2.2.2.1
    | _ => BitVec.ofNat 32 e.2.2.2.2
  | none => if off / 4 % 2 = 0 then (Config.configWord fn (off / 8)).setWidth 32 else (Config.configWord fn (off / 8)).extractLsb' 32 32

end Sys2Proof.Machine
end

