-- ==== Sys2Proof/Machine/Access.lean ====
section
/-! DEFINITION. The access checks (R192 to R194), the address map and alias windows (R22 to R28), the fitting check (R110,
R111), translation at a core (R323 to R327), single-copy caching (R17 to R20), the store buffer (R70, R80, R88) and the
loads and stores that perform. -/

namespace Sys2Proof.Machine

/-- The permissions an access needs (R110). -/
structure Need where
  ld  : Bool
  st  : Bool
  ldc : Bool
  stc : Bool
deriving DecidableEq, Repr

def needLd : Need := ⟨true, false, false, false⟩
def needSt : Need := ⟨false, true, false, false⟩
def needBoth : Need := ⟨true, true, false, false⟩

/-- Whether four permission bits, LD ST LDC STC from bit 3 down, cover a need. -/
def Need.within (n : Need) (p : BitVec 4) : Bool :=
  (!n.ld || p.getLsbD 3) && (!n.st || p.getLsbD 2) && (!n.ldc || p.getLsbD 1) && (!n.stc || p.getLsbD 0)

/-- LD, ST, LDC and STC of a capability (R12). -/
def capPerms (c : QWord) : BitVec 4 := c.extractLsb' 124 4
/-- SEAL, UNSEAL, GLOBAL and ENGINE of a capability (R12). -/
def capSeal (c : QWord) : Bool := c.getLsbD 123
def capUnseal (c : QWord) : Bool := c.getLsbD 122
def capGlobal (c : QWord) : Bool := c.getLsbD 121
def capEngine (c : QWord) : Bool := c.getLsbD 120
/-- OTYPE, RTAG and ADDR of a capability (R12). -/
def capOtype (c : QWord) : Nat := (c.extractLsb' 114 6).toNat
def capRtag (c : QWord) : Nat := (c.extractLsb' 104 10).toNat
def capAddr (c : QWord) : DWord := c.extractLsb' 0 64

/-- Whether [a, a + n) lies within a capability's bounds (R192 step 4). -/
def inBounds (c : QWord) (a n : Nat) : Bool :=
  let b := capBounds c
  decide (b.1 ≤ (a : Int)) && decide ((a : Int) + n ≤ b.2)

/-- A range of the task-visible map (R22). -/
inductive Range where
  | ownTcm (off : Nat)
  | imem (off : Nat)
  | ownSpad (off : Nat)
  | alias_ (w off : Nat)
  | tcm (core off : Nat)
  | spad (panel off : Nat)
  | global (off : Nat)
deriving DecidableEq, Repr

/-- The range an address falls in, and the bytes left to the end of the range or of its slot (R22, R23). -/
def rangeOf (a : Nat) : Option (Range × Nat) :=
  if a < 2 ^ 15 then some (.ownTcm a, 2 ^ 15 - a)
  else if 2 ^ 16 ≤ a ∧ a < 2 ^ 16 + 2 ^ 13 then some (.imem (a - 2 ^ 16), 2 ^ 16 + 2 ^ 13 - a)
  else if 2 ^ 24 ≤ a ∧ a < 2 ^ 24 + 2 ^ 18 then some (.ownSpad (a - 2 ^ 24), 2 ^ 24 + 2 ^ 18 - a)
  else if 2 ^ 32 ≤ a ∧ a < 2 ^ 32 + 2 ^ 26 then
    let o := a - 2 ^ 32
    some (.alias_ (o / 2 ^ 22) (o % 2 ^ 22), 2 ^ 22 - o % 2 ^ 22)
  else if 2 ^ 40 ≤ a ∧ a < 2 ^ 40 + 2 ^ 36 then
    let o := a - 2 ^ 40
    if o % 2 ^ 16 < 2 ^ 15 then some (.tcm (o / 2 ^ 16) (o % 2 ^ 16), 2 ^ 15 - o % 2 ^ 16) else none
  else if 2 ^ 41 ≤ a ∧ a < 2 ^ 41 + 2 ^ 32 then
    let o := a - 2 ^ 41
    some (.spad (o / 2 ^ 18) (o % 2 ^ 18), 2 ^ 18 - o % 2 ^ 18)
  else if 2 ^ 48 ≤ a ∧ a < 2 ^ 49 then some (.global (a - 2 ^ 48), 2 ^ 49 - a)
  else none

/-- An address of the alias range (R22). -/
def isAlias (a : Nat) : Bool := decide (2 ^ 32 ≤ a) && decide (a < 2 ^ 32 + 2 ^ 26)
/-- An address of the global region (R22). -/
def isGlobal (a : Nat) : Bool := decide (2 ^ 48 ≤ a) && decide (a < 2 ^ 49)

/-- Whether an address lies in core `n`'s own TCM, by either name (R23, R194). -/
def isOwnTcm (n a : Nat) : Bool :=
  match rangeOf a with
  | some (.ownTcm _, _) => true
  | some (.tcm m _, _) => m == n
  | _ => false

/-- Whether a panel is the partition's of core `n`, or its own panel (R23). -/
def State.reachesPanel (s : State) (n panel : Nat) : Bool :=
  panel == panelOf n && decide (n < 1048576) ||
    (match s.partOf n with
     | some p => s.inSet p panel && s.occupant panel == some p
     | none => false)

/-- Fields of a window descriptor (R24). -/
def winFmt (w : QWord) : Nat := (w.extractLsb' 16 4).toNat
def winBase (w : QWord) : Nat := (w.extractLsb' 0 15).toNat
def winRows (w : QWord) : Nat := let r := (w.extractLsb' 20 12).toNat; if r = 0 then 4096 else r
def winCols (w : QWord) : Nat := let c := (w.extractLsb' 32 12).toNat; if c = 0 then 4096 else c
def winStride (w : QWord) : Nat := (w.extractLsb' 44 16).toNat
def winSbase (w : QWord) : Nat := (w.extractLsb' 64 15).toNat
def winSstride (w : QWord) : Nat := (w.extractLsb' 80 16).toNat

/-- TCM offset of element (i, j) of a window (R26). -/
def elemOff (w : QWord) (i j : Nat) : Nat := winBase w + i * winStride w + j * esize (winFmt w)
/-- TCM offset of the scale byte of element (i, j) (R25). -/
def scaleOff (w : QWord) (i j : Nat) : Nat := winSbase w + i * winSstride w + j / 24

/-- Where the bytes of an access lie: runs of locations, an element of an alias window by its TCM offsets, or a register of the
physical function that a flint reaches (R343). -/
inductive Place where
  | runs (l : List (Nat × Nat))
  | elem (fmt off : Nat) (scale : Option Nat)
  | reg (off n : Nat)
deriving DecidableEq, Repr

/-- The element that an alias address names, where the access may be made (R26). -/
def aliasPlace (w : QWord) (o : Nat) (store : Bool) : Option Place :=
  let n := o / 4
  let fmt := winFmt w
  let i := n / winCols w
  let j := n % winCols w
  let e := elemOff w i j
  let sa := scaleOff w i j
  if winRows w * winCols w ≤ n ∨ fmt = fmtAcc ∨ 0x8000 < e + esize fmt ∨ (scaledFmt fmt ∧ 0x8000 ≤ sa) ∨
      (store ∧ ¬(fmt = 0 ∨ fmt = 4 ∨ fmt = 7)) then none
  else some (.elem fmt e (if scaledFmt fmt then some sa else none))

/-- What a translation at a core gives (R192 step 8): the runs, with the first frame among them that is scrub-pending; a
register of the physical function; a page miss; nothing, where the core has no partition. -/
inductive Mapped where
  | runs (l : List (Nat × Nat)) (scrub : Option Nat)
  | reg (off : Nat)
  | miss (m : PageMiss)
  | noHome
deriving DecidableEq, Repr

/-- Where the register windows of the physical function start among the addresses of a flint: in the hole of R28 below host memory
(R343). [log 104 DESIGN CHOICE] -/
def pfBase : Nat := 2 ^ 40 + Config.pfWindow % 2 ^ 20 * 2 ^ 26

/-- What a flint's address names beside the homes: a register of the physical function (R306, R343). -/
def flintReg (mpa : Nat) : Option Nat :=
  if (rawHome mpa).isNone ∧ pfBase ≤ mpa ∧ mpa < pfBase + 2 ^ 26 then some (mpa - pfBase) else none

/-- Translates a run of the global region page by page, through the core's panel cache; a flint reaches the MPA without
translation (R323, R343). -/
def mapRun (s : State) (r w : Bool) : Nat → Nat → Nat → Mapped × State
  | 0, _, _ => (.runs [] none, s)
  | k + 1, off, n =>
    if n = 0 then (.runs [] none, s)
    else
      let here := min n (2 ^ 16 - off % 2 ^ 16)
      let rest (m : Nat) (scrub : Option Nat) (s : State) : Mapped × State :=
        match mapRun s r w k (off + here) (n - here) with
        | (.runs l more, s) => (.runs ((m, here) :: l) (scrub.or more), s)
        | x => x
      if 1048576 ≤ s.focus then
        match flintReg (off % 2 ^ 48) with
        | some o => (.reg o, s)
        | none => rest (off % 2 ^ 48) none s
      else
        match s.partOf s.focus with
        | none => (.noHome, s)
        | some p =>
          match s.translateVia (panelOf s.focus) p off r w with
          | (.error x, s) =>
            (.miss { part := p, off := off, wr := w, fault := x, src := s.focus, ltag := s.core.ltag,
                     chain := s.core.chn.extractLsb' 0 16, asker := .core s.focus }, s)
          | (.ok e, s) => rest (e.frame + off % 2 ^ 16) (if e.scrub then some e.frame else none) s

/-- Why a fitting check does not pass: it fails with a cause, and by its region tag says whether there was a walk; or the walk waits for the
scrub of a frame (R332). -/
inductive FitStop where
  | fails (c : Cause) (walk : Option Nat)
  | waits (frame : Nat)

/-- The fitting check of R110 and R111 for the core in focus: through its fitting cache, walking on a miss; only a result
that passes is installed. -/
def State.fitting (s : State) (region : Nat) (need : Need) : Except FitStop State :=
  let h := s.core.handle
  let touch (e : FitEntry) (s : State) : State := { s with core := { s.core with fit := fitTouch e s.core.fit } }
  match fitFind h region s.core.fit with
  | some e => if need.within e.perms then .ok (touch e s) else .error (.fails .nofit none)
  | none =>
    match s.partOf s.focus with
    | none => .error (.fails .chaindead none)
    | some p =>
      match s.fitWalk (panelOf s.focus) p h region with
      | (.held f, _) => .error (.waits f)
      | (.dead, _) => .error (.fails .chaindead (some region))
      | (.undecided, _) => .error (.fails .nofit (some region))
      | (.rule perms prins, s) =>
        if need.within perms then .ok (touch ⟨BitVec.ofNat 16 h, BitVec.ofNat 10 region, perms, prins.length, prins⟩ s)
        else .error (.fails .nofit (some region))

/-- The region tag of the running task's routine, 0 where there is none. -/
def Core.routineRegion (c : Core) : Nat := match c.task with
  | some k => capRtag k.rgn.bits
  | none => 0

/-- The fitting check of step 7 (R110, R192). -/
def fitCheck (region : Nat) (need : Need) (eval : DWord) : Ex Unit := fun s =>
  match s.fitting region need with
  | .ok s => .ok ((), s)
  | .error (.fails c walk) => .error (.trap ⟨c.code, eval, none, none, walk.map fun w => (w, false)⟩)
  | .error (.waits f) => .error (.scrub f)

/-- An access to check (R192): the capability and the number of its register, the address, how many bytes, what it needs,
an alignment that the instruction states, whether alias windows and IMEM may be named, a data register whose capability
lacks GLOBAL (R194), and whether the location must be die-local (R84). -/
structure Acc where
  cap    : Val
  num    : Reg
  ea     : DWord
  n      : Nat
  need   : Need
  align  : Option Nat
  window : Bool
  noGlob : Option Reg
  local_ : Bool

/-- The access of a plain load or store. -/
def plainAcc (cap : Val) (num : Reg) (ea : DWord) (n : Nat) (need : Need) : Acc :=
  { cap := cap, num := num, ea := ea, n := n, need := need, align := none, window := true, noGlob := none,
    local_ := false }

/-- Steps 0 to 4: poison, tag, seal, permissions and bounds (R192, R193). -/
def accCap (a : Acc) : Ex Unit := do
  checkReg (!a.cap.poison) .poison a.num
  let c ← getC
  if c.km && !a.cap.tag then pure ()
  else do
    checkReg a.cap.tag .captag a.num
    checkReg (capOtype a.cap.bits == 0) .capseal a.num
    checkReg (a.need.within (capPerms a.cap.bits)) .capperm a.num
    let s ← getS
    match a.noGlob with
    | some r => checkReg (isOwnTcm s.focus a.ea.toNat) .capperm r
    | none => pure ()
    check (inBounds a.cap.bits a.ea.toNat a.n) .capbound a.ea

/-- Step 5: alignment (R192, R26, R199). -/
def accAlign (a : Acc) : Ex Unit :=
  let ea := a.ea.toNat
  let ok :=
    if a.window && isAlias ea then a.n == 4 && ea % 4 == 0
    else match a.align with
      | some m => ea % m == 0
      | none => ea % a.n == 0
  check ok .align a.ea

/-- Step 6: the range (R22, R23, R26): what the address names, or none. -/
def accRange (a : Acc) (s : State) : Option (Range × Option Place) :=
  match rangeOf a.ea.toNat with
  | none => none
  | some (r, left) =>
    if left < a.n then none
    else
      let runs (b : Nat) : Option (Range × Option Place) := some (r, some (.runs [(b, a.n)]))
      match r with
      | .ownTcm o => runs (tcmBase s.focus + o)
      | .imem o => if s.core.km && a.window then runs (imemBase s.focus + o) else none
      | .ownSpad o => if s.focus < 1048576 then runs (spadBase (panelOf s.focus) + o) else none
      | .alias_ w o =>
        if a.window then
          match aliasPlace (s.core.windows[w]?.getD 0) o a.need.st with
          | some p => some (r, some p)
          | none => none
        else none
      | .tcm m o => if m = s.focus ∨ s.reachesPanel s.focus (panelOf m) then runs (tcmBase m + o) else none
      | .spad p o => if s.reachesPanel s.focus p then runs (spadBase p + o) else none
      | .global _ => some (r, none)

/-- Step 7: the fitting check; accesses of the kernel bank never make it (R110, R193). -/
def accFit (a : Acc) : Ex Unit := do
  let c ← getC
  if c.km then pure () else fitCheck (capRtag a.cap.bits) a.need a.ea

/-- Steps 8 and 9 for the global region (R323, R325, R28): the place, and a frame of it that is scrub-pending. A register has 8 bytes:
a store writes them all, a load takes what it asks for (R306). [log 104 DESIGN CHOICE] -/
def accMap (a : Acc) (off : Nat) : Ex (Place × Option Nat) := fun s =>
  match mapRun s a.need.ld a.need.st 3 off a.n with
  | (.runs l scrub, s) =>
    if l.all fun x => (s.homeOf x.1).isSome then .ok ((.runs l, scrub), s)
    else .error (.trap ⟨Cause.nomap.code, a.ea, none, none, none⟩)
  | (.reg o, s) =>
    if a.window && (if a.need.st then a.n == 8 else decide (a.n ≤ 8)) then .ok ((.reg o a.n, none), s)
    else .error (.trap ⟨Cause.nomap.code, a.ea, none, none, none⟩)
  | (.noHome, _) => .error (.trap ⟨Cause.nomap.code, a.ea, none, none, none⟩)
  | (.miss m, _) =>
    if ((s.pageMiss m).tagFor m.part (m.off % 2 ^ 48 / 2 ^ 16) m.wr).isSome then
      .error (.trap ⟨Cause.xlat.code, a.ea, some m, none, none⟩)
    else .error (.hold m)

/-- Whether [off, off + n) of TCM meets the part of an armed channel that has not been delivered (R97). -/
def Watermark.blocks (w : Watermark) (off n : Nat) : Bool :=
  let lo := w.base.toNat + w.w
  let hi := w.base.toNat + w.len.toNat
  decide (lo < hi) && decide (off < hi) && decide (lo < off + n)

/-- An acquire of the running stream: no later load of it has performed before the acquire (R90). [log 41 DEDUCED] -/
def Core.acquires (c : Core) : Core := { c with early := c.early.filter fun e => !(e.stream == c.stream) }

/-- An access that has stalled on a watermark proceeds, which acquires (R97). -/
def Core.marksPassed (c : Core) : Core := { c.acquires with marked := c.marked.filter fun st => !(st == c.stream) }

/-- Waits on the watermarks over bytes of the core's own TCM; a stopped channel traps ENGFAULT (R97, R99). -/
def awaitMarks (off n : Nat) (eval : DWord) : Ex Unit := do
  let c ← getC
  match c.wms.toList.find? fun w => w.blocks off n with
  | none => if c.marked.contains c.stream then modC Core.marksPassed else pure ()
  | some w => if w.stopped then raise .engfault eval else fun _ => .error .marks

/-- The watermark wait of an access, which follows step 9 (R192). -/
def awaitPlace (p : Place) (eval : DWord) : Ex Unit := do
  let s ← getS
  let base := tcmBase s.focus
  match p with
  | .elem fmt off scale => do
    awaitMarks off (esize fmt) eval
    match scale with
    | some sa => awaitMarks sa 1 eval
    | none => pure ()
  | .reg .. => pure ()
  | .runs l =>
    match l with
    | (b, n) :: _ => if base ≤ b ∧ b < base + 2 ^ 15 then awaitMarks (b - base) n eval else pure ()
    | [] => pure ()

/-- A run cut at the boundaries of 16 bytes: single-copy atomic pieces (R66). -/
def cutRun : Nat → Nat → Nat → List (Nat × Nat)
  | 0, _, _ => []
  | k + 1, a, n =>
    if n = 0 then []
    else
      let m := min n (16 - a % 16)
      (a, m) :: cutRun k (a + m) (n - m)

/-- A place cut into pieces of at most 16 bytes. -/
def Place.cut : Place → Place
  | .runs l => .runs (l.flatMap fun r => cutRun (r.2 / 16 + 2) r.1 r.2)
  | p => p

/-- Waits for a frame that is scrub-pending (R332). -/
def awaitScrub (frame : Option Nat) : Ex Unit :=
  match frame with
  | some f => fun _ => .error (.scrub f)
  | none => pure ()

/-- Whether a place may be accessed by an operation that must be die-local (R79, R84). -/
def State.placeLocal (s : State) (p : Place) : Bool :=
  match p with
  | .runs ((b, _) :: _) => localDie b == some (dieOfCore s.focus)
  | _ => false

/-- Whether the walk of an access waits for the scrub of a stage-1 table, so that its location is not known yet (R332). -/
def State.unplaced (s : State) (r : Range) : Bool :=
  match r with
  | .global off => (s.partOf s.focus).any fun p => (s.walkHold p off).isSome
  | _ => false

/-- Steps 8 and 9, with the waits that follow them (R192): where the bytes of a range lie. -/
def accWhere (a : Acc) (r : Range) (place : Option Place) : Ex Place := do
  let p ← match place, r with
    | some p, _ => pure (p, none)
    | none, .global off => accMap a off
    | none, _ => raise .nomap a.ea
  let s ← getS
  check (!a.local_ || s.placeLocal p.1 || (p.2.isSome && s.unplaced r)) .nomap a.ea
  awaitScrub p.2
  awaitPlace p.1 a.ea
  pure p.1

/-- What follows a fitting check: where a trap comes after it, the result of a walk that the check has made stays (R111). -/
def keepingWalk {α : Type} (walk : Option (Nat × Bool)) (m : Ex α) : Ex α := fun s =>
  match m s with
  | .error (.trap t) => .error (.trap { t with walk := walk })
  | x => x

/-- The walk that a fitting check under a region tag makes, with whether the check passes: none where the cache answers it, or in the
kernel bank (R110, R111). -/
def State.walkUnder (s : State) (region : Nat) (passes : Bool) : Option (Nat × Bool) :=
  if s.core.km || (fitFind s.core.handle region s.core.fit).isSome then none else some (region, passes)

/-- The whole check of an access (R192): where its bytes lie. -/
def access (a : Acc) : Ex Place := do
  accCap a
  accAlign a
  let s ← getS
  match accRange a s with
  | none => raise .nomap a.ea
  | some (r, place) => do
    accFit a
    keepingWalk (s.walkUnder (capRtag a.cap.bits) true) (accWhere a r place)

/-! ### Lines (R17 to R20) -/

/-- A line is filled into a core's cache; a full cache gives up a line that the implementation chooses (R18, R21). [log 43 DEDUCED] -/
def State.fill (s : State) (n line : Nat) : State :=
  let mine := s.lines.filter fun l => l.holder == n
  let s := if mine.length < Config.cacheLines then s
    else match mine[Config.lineVictim s.tick % Config.cacheLines]? with
      | some v => s.release v.line
      | none => s
  { s with lines := s.lines ++ [⟨line, n, false⟩] }

/-- What a write to a location leaves: in a held line it makes the line dirty (R18); otherwise it has performed at the home. -/
def State.written (s : State) (p : Option Nat) (loc : Nat) : State :=
  if isMpa loc then
    if (s.holder (lineOf loc)).isSome then
      { s with lines := s.lines.map fun l => if l.line == lineOf loc then { l with dirty := true } else l }
    else s.homeWrite p loc
  else s

/-- An access of core `n` to a line without a holder reaches the home; an allocating one fills the line (R18). [log 43 DEDUCED] -/
def State.touchLine (s : State) (n loc : Nat) (alloc : Bool) : State :=
  if isMpa loc && (s.holder (lineOf loc)).isNone then
    let s := s.mscTouch (s.partOf n) loc false
    if alloc then s.fill n (lineOf loc) else s
  else s

/-! ### The store buffer (R70, R80, R88) -/

/-- A store of core `n` performs (R80, R88): it reaches the agent that serves its line, which an allocating store fills (R18). -/
def State.perform (s : State) (n : Nat) (e : StoreEntry) : State :=
  let s := s.touchLine n e.loc e.alloc
  { s with mem := s.mem.perform e }.written (s.partOf n) e.loc

/-- Whether a store performs as it leaves the buffer: at a die-local location, or in a line that its own core holds (R80,
R18); a flint's too, which shares no die memory order. -/
def State.atOnce (s : State) (n : Nat) (e : StoreEntry) : Bool :=
  localDie e.loc == some (dieOfCore n) || (isMpa e.loc && s.holder (lineOf e.loc) == some n)

/-- A store that the module serves: not one that only the host can serve; an allocating store of the host's line is served in the
core's cache (R87, R93). -/
def State.servedHere (s : State) (e : StoreEntry) : Bool := !isHost e.loc || e.alloc || (s.holder (lineOf e.loc)).isSome

/-- Whether a release of a scope waits for a store (R90): at SYSTEM scope every one, at MODULE scope one that the module serves. -/
def State.inScope (s : State) (scope : Scope) (e : StoreEntry) : Bool :=
  match scope with
  | .sys => true
  | .mod => s.servedHere e
  | _ => false

/-- Whether a store touches [a, a + n). -/
def StoreEntry.touches (e : StoreEntry) (a n : Nat) : Bool := decide (a < e.loc + e.bytes) && decide (e.loc < a + n)

/-- Whether a store in flight must have performed before a younger one of its core: it lies in the same bytes (R67), or the younger
one is a release whose scope covers it (R89, R90). -/
def State.flightBefore (s : State) (older younger : StoreEntry) : Bool :=
  older.touches younger.loc younger.bytes ||
    (match younger.rel with
     | some scope => s.inScope scope older
     | none => false)

/-- The stores in flight marked that perform when those that a test names do: with each, the older ones of its core that it must
follow. -/
def State.landing (s : State) (which : Nat → Flight → Bool) : Nat → List Flight → List (Flight × Bool)
  | _, [] => []
  | i, f :: r =>
    let rest := s.landing which (i + 1) r
    (f, which i f || rest.any fun g => g.2 && g.1.core == f.core && s.flightBefore f.store g.1.store) :: rest

/-- Stores in flight that a test names perform, in order, with those that must come before them. [log 40 DESIGN CHOICE] -/
def State.landAt (s : State) (which : Nat → Flight → Bool) : State :=
  let l := s.landing which 0 s.flight
  let s' := { s with flight := (l.filter fun f => !f.2).map fun f => f.1 }
  (l.filter fun f => f.2).foldl (fun s f => s.perform f.1.core f.1.store) s'

/-- Stores in flight that a test names perform. -/
def State.land (s : State) (which : Flight → Bool) : State := s.landAt fun _ f => which f

/-- The stores of core `n` in flight that a release of a scope waits for perform (R90). -/
def State.landScope (s : State) (n : Nat) (scope : Scope) : State := s.land fun f => f.core == n && s.inScope scope f.store

/-- The oldest store of a core's buffer leaves it (R80): it performs, or travels to the agent that serves it (R88); a flint's register
write goes to the register windows (R343). What must come before a store that performs at once has performed (R67, R90). [log 40 DESIGN CHOICE] -/
def State.leave (s : State) (n : Nat) : State :=
  match (s.getCore n).stores with
  | [] => s
  | e :: r =>
    let s := s.modCore n fun c => { c with stores := r }
    match regAt e.loc with
    | some x => { s with posted := s.posted ++ [(x.1, x.2, e.value.setWidth 64)] }
    | none =>
      if s.atOnce n e then
        (s.land fun f => f.core == n && s.flightBefore f.store e).perform n e
      else { s with flight := s.flight ++ [⟨n, e⟩] }

/-- Stores leave until at most `keep` are left, within fuel. -/
def State.leaveTo (s : State) (n keep : Nat) : Nat → State
  | 0 => s
  | k + 1 => if (s.getCore n).stores.length ≤ keep then s else (s.leave n).leaveTo n keep k

/-- A core's buffer drains. -/
def State.drain (s : State) (n : Nat) : State := s.leaveTo n 0 (s.getCore n).stores.length

/-- What a release of core `n` waits for (R90): its stores have left the buffer, and those that its scope names have
performed; at SYSTEM scope all of them, at MODULE scope those served within the module. -/
def State.releaseFor (s : State) (n : Nat) (scope : Scope) : State :=
  if scope = .mod ∨ scope = .sys then (s.drain n).landScope n scope else s

/-- Whether a load that has performed early touches [a, a + n). -/
def Early.touches (e : Early) (a n : Nat) : Bool := decide (a < e.loc + e.bytes) && decide (e.loc < a + n)

/-- The loads of the running stream that have performed early, without those of bytes of [a, a + n): an access of its to them has come
before (R67, R70). -/
def Core.notEarly (c : Core) (a n : Nat) : Core := { c with early := c.early.filter fun e => !(e.stream == c.stream && e.touches a n) }

/-- The release that a FENCE.REL of the running stream has left to its agent's next store or atomic (R89). -/
def Core.owedRel (c : Core) : Option Scope := if c.stream = .body then c.bodyRel else c.pendRel

/-- That release set, or done. -/
def Core.setOwed (c : Core) (r : Option Scope) : Core :=
  if c.stream = .body then { c with bodyRel := r } else { c with pendRel := r }

/-- A store of the running core enters its buffer; where the buffer is full the oldest leaves first (R197). The first store of its agent
after a FENCE.REL at MODULE or SYSTEM scope is the release (R89). -/
def pushStore (e : StoreEntry) : Ex Unit := modS fun s =>
  let s := if s.core.stores.length < Config.storeEntries then s else s.leave s.focus
  { s with core := { (s.core.notEarly e.loc e.bytes).setOwed none with stores := s.core.stores ++ [{ e with rel := s.core.owedRel }] } }

/-- Every byte of [a, a + n) is written by some buffered store. -/
def covered (es : List StoreEntry) (a n : Nat) : Bool :=
  (List.range n).all fun i => es.any fun e => e.touches (a + i) 1

/-- How many of the youngest buffered stores come after the last one that touches [a, a + n). -/
def youngerThan (es : List StoreEntry) (a n : Nat) : Nat := (es.reverse.takeWhile fun e => !e.touches a n).length

/-- The memory that the running core's next load of [a, a + n) reads: its own stores in flight to those bytes have
performed; buffered stores that cover it all are forwarded; where they cover it in part they leave the buffer, and no younger one
does (R70, R80). [log 112 DESIGN CHOICE] -/
def State.view (s : State) (a n : Nat) : Memory × State :=
  let mine (f : Flight) : Bool := f.core == s.focus && f.store.touches a n
  let s := s.land mine
  if s.core.stores.any fun e => e.touches a n then
    if covered s.core.stores a n then (s.core.stores.foldl Memory.perform s.mem, s)
    else
      let s := (s.leaveTo s.focus (youngerThan s.core.stores a n) s.core.stores.length).land mine
      (s.mem, s)
  else (s.mem, s)

/-- Bytes that a load returns, little-endian, with what R63 and R194 keep beside them. -/
structure Loaded where
  value  : Nat
  poison : Bool
  tag    : Bool
deriving DecidableEq, Repr

/-- The step in which the latest load that a register's value comes from performed (R88); a bound register's value comes with its pop. -/
def State.depOf (s : State) (r : Reg) : Nat :=
  if (alookup r.toNat s.core.binds).isSome then s.tick else s.core.deps[r.toNat]

/-- The load of the running stream that has performed early and that a load of [a, a + n) now takes, with `num` the register of its
address (R88): not before a load that the address was formed from. A bound register's elements are read at the pop (R71). [log 40 DESIGN CHOICE] -/
def State.earlyFor (s : State) (a n : Nat) (alloc : Bool) (num : Reg) : Option Early :=
  s.core.early.find? fun e => e.stream == s.core.stream && e.loc == a && e.bytes == n && e.alloc == alloc &&
    decide (s.depOf num ≤ e.tick)

/-- What a load of the running stream that performed in step `t` leaves of those of the stream that have performed early: of its bytes
none that performed before it (R67), and where it is local to die `die`, no other load local to that die either (R80). -/
def Core.loaded (c : Core) (die a n t : Nat) : Core :=
  let behind (e : Early) : Bool := e.touches a n || (localDie a == some die && localDie e.loc == some die)
  { c with early := c.early.filter fun e => !(e.stream == c.stream && decide (e.tick ≤ t) && behind e), loadAt := max c.loadAt t }

/-- A load of one run of locations by the running core, its address in register `num`: one that has performed early gives what it read
then (R88). [log 40 DESIGN CHOICE] -/
def loadRun (a n : Nat) (alloc : Bool) (num : Reg) : Ex Loaded := fun s =>
  let die := dieOfCore s.focus
  match s.earlyFor a n alloc num with
  | some e => .ok (⟨e.value, e.poison, e.tag⟩, { s with core := { s.core with early := s.core.early.erase e }.loaded die a n e.tick })
  | none =>
    let s := s.touchLine s.focus a alloc
    let v := s.view a n
    .ok (⟨v.1.read a n, v.1.anyPoison a n, n == 16 && v.1.tagged a⟩, { v.2 with core := v.2.core.loaded die a n v.2.tick })

/-- A load of runs, one behind the other. The pieces of a load wider than 16 bytes perform in this order, but for those that have
performed early. [log 113 DESIGN CHOICE] -/
def loadRuns (alloc : Bool) (num : Reg) : List (Nat × Nat) → Ex Loaded
  | [] => pure ⟨0, false, false⟩
  | (a, n) :: r => do
    let x ← loadRun a n alloc num
    match r with
    | [] => pure x
    | _ => do
      let y ← loadRuns alloc num r
      pure ⟨x.value + 2 ^ (8 * n) * y.value, x.poison || y.poison, false⟩

/-- A flint's read of a register of the physical function: it follows the flint's own register writes (R306, R343).
[log 91 DEDUCED, log 104 DESIGN CHOICE] -/
def loadReg (off n : Nat) : Ex Loaded := do
  let s ← getS
  let d := s.focus - 1048576
  if (s.posted.any fun x => x.1 == d) || s.core.stores.any fun e => (regAt e.loc).isSome then stall
  else pure ⟨(s.registerRead (.flint d) (off / 8 * 8)).toNat / 2 ^ (8 * (off % 8)) % 2 ^ (8 * n), false, false⟩

/-- Flags raised by the running instruction (R126). -/
def raiseFlags (f : BitVec 6) : Ex Unit := modC fun c => { c with csr := { c.csr with fflags := c.csr.fflags ||| f } }

/-- The load of an access that has been checked, its address in register `num`: an alias element reads as AliasValue (R25, R26). -/
def loadPlace (p : Place) (alloc : Bool) (num : Reg) : Ex Loaded := do
  match p with
  | .runs l => loadRuns alloc num l
  | .reg off n => loadReg off n
  | .elem fmt off scale => do
    let s ← getS
    let base := tcmBase s.focus
    let b ← loadRun (base + off) (esize fmt) false num
    let sc ← match scale with
      | some sa => loadRun (base + sa) 1 false num
      | none => pure ⟨0, false, false⟩
    let r := aliasValue s.core.tblA s.core.tblB fmt b.value sc.value
    raiseFlags (if r.2 then 32 else 0)
    pure ⟨r.1.toNat, b.poison || sc.poison, false⟩

/-- The stores of runs, through the store buffer. -/
def storeRuns (v : Nat) (poison tag alloc : Bool) : List (Nat × Nat) → Ex Unit
  | [] => pure ()
  | (a, n) :: r => do
    pushStore ⟨a, n, BitVec.ofNat 128 v, poison, tag, alloc, none⟩
    storeRuns (v / 2 ^ (8 * n)) poison tag alloc r

/-- The store of an access of at most 16 bytes that has been checked. -/
def storePlace (p : Place) (v : Nat) (poison tag alloc : Bool) : Ex Unit := do
  match p with
  | .runs l => storeRuns v poison tag alloc l
  | .elem _ off _ => do
    let s ← getS
    pushStore ⟨tcmBase s.focus + off, 4, BitVec.ofNat 128 v, poison, false, false, none⟩
  | .reg off _ => do
    let s ← getS
    pushStore ⟨regLoc (s.focus - 1048576) off, 8, BitVec.ofNat 128 v, false, false, false, none⟩

/-- PRICE0.GMEM for an access in the global region (R116). -/
def chargeGmem (ea : DWord) : Ex Unit := if isGlobal ea.toNat then chargeBy Csrs.gmemPrice else pure ()

end Sys2Proof.Machine
end

