-- ==== Sys2Proof/Machine/Operands.lean ====
section
/-! DEFINITION. Operands: the registers and their renaming in repetition bodies (R153, R154, R161, R211, R212), loads and
stores of a size code (R195, R196), bound registers (R203 to R207), and the operand shapes that the meanings share. -/

namespace Sys2Proof.Machine

/-- An instruction with its register fields renamed, for every instruction that may stand in a body (R154, R211); the
other instructions have no field to rename. -/
def renameRegs (f : Reg → Reg) : Instr → Instr
  | .add d a b => .add (f d) (f a) (f b)
  | .sub d a b => .sub (f d) (f a) (f b)
  | .and d a b => .and (f d) (f a) (f b)
  | .or d a b => .or (f d) (f a) (f b)
  | .xor d a b => .xor (f d) (f a) (f b)
  | .andn d a b => .andn (f d) (f a) (f b)
  | .sll d a b => .sll (f d) (f a) (f b)
  | .srl d a b => .srl (f d) (f a) (f b)
  | .sra d a b => .sra (f d) (f a) (f b)
  | .rol d a b => .rol (f d) (f a) (f b)
  | .slt d a b => .slt (f d) (f a) (f b)
  | .sltu d a b => .sltu (f d) (f a) (f b)
  | .min d a b => .min (f d) (f a) (f b)
  | .max d a b => .max (f d) (f a) (f b)
  | .minu d a b => .minu (f d) (f a) (f b)
  | .maxu d a b => .maxu (f d) (f a) (f b)
  | .mul d a b => .mul (f d) (f a) (f b)
  | .mulh d a b => .mulh (f d) (f a) (f b)
  | .mulhu d a b => .mulhu (f d) (f a) (f b)
  | .div d a b => .div (f d) (f a) (f b)
  | .divu d a b => .divu (f d) (f a) (f b)
  | .rem d a b => .rem (f d) (f a) (f b)
  | .remu d a b => .remu (f d) (f a) (f b)
  | .clz d a => .clz (f d) (f a)
  | .ctz d a => .ctz (f d) (f a)
  | .popc d a => .popc (f d) (f a)
  | .sel d a b => .sel (f d) (f a) (f b)
  | .mix d a => .mix (f d) (f a)
  | .addi d a imm => .addi (f d) (f a) imm
  | .andi d a imm => .andi (f d) (f a) imm
  | .ori d a imm => .ori (f d) (f a) imm
  | .xori d a imm => .xori (f d) (f a) imm
  | .slli d a sh => .slli (f d) (f a) sh
  | .srli d a sh => .srli (f d) (f a) sh
  | .srai d a sh => .srai (f d) (f a) sh
  | .roli d a sh => .roli (f d) (f a) sh
  | .slti d a imm => .slti (f d) (f a) imm
  | .sltiu d a imm => .sltiu (f d) (f a) imm
  | .li d imm => .li (f d) imm
  | .lis d imm => .lis (f d) imm
  | .ld d a sz imm => .ld (f d) (f a) sz imm
  | .ldna d a sz imm => .ldna (f d) (f a) sz imm
  | .st b a sz imm => .st (f b) (f a) sz imm
  | .stna b a sz imm => .stna (f b) (f a) sz imm
  | .amoadd d a b scope order dw => .amoadd (f d) (f a) (f b) scope order dw
  | .amoand d a b scope order dw => .amoand (f d) (f a) (f b) scope order dw
  | .amoor d a b scope order dw => .amoor (f d) (f a) (f b) scope order dw
  | .amoxor d a b scope order dw => .amoxor (f d) (f a) (f b) scope order dw
  | .amomin d a b scope order dw => .amomin (f d) (f a) (f b) scope order dw
  | .amomax d a b scope order dw => .amomax (f d) (f a) (f b) scope order dw
  | .amominu d a b scope order dw => .amominu (f d) (f a) (f b) scope order dw
  | .amomaxu d a b scope order dw => .amomaxu (f d) (f a) (f b) scope order dw
  | .amoswp d a b scope order dw => .amoswp (f d) (f a) (f b) scope order dw
  | .amocas d a b scope order dw => .amocas (f d) (f a) (f b) scope order dw
  | .scld d a => .scld (f d) (f a)
  | .scst a b => .scst (f a) (f b)
  | .scswp d a b => .scswp (f d) (f a) (f b)
  | .scadd d a b => .scadd (f d) (f a) (f b)
  | .cgetbase d a => .cgetbase (f d) (f a)
  | .cgetlen d a => .cgetlen (f d) (f a)
  | .cgetperm d a => .cgetperm (f d) (f a)
  | .cgettype d a => .cgettype (f d) (f a)
  | .cgetreg d a => .cgetreg (f d) (f a)
  | .cgettag d a => .cgettag (f d) (f a)
  | .csetaddr d a b => .csetaddr (f d) (f a) (f b)
  | .cinc d a b => .cinc (f d) (f a) (f b)
  | .csetbnd d a b => .csetbnd (f d) (f a) (f b)
  | .candperm d a b => .candperm (f d) (f a) (f b)
  | .cseal d a b => .cseal (f d) (f a) (f b)
  | .cunseal d a b => .cunseal (f d) (f a) (f b)
  | .cmov d a => .cmov (f d) (f a)
  | .ctestsub d a b => .ctestsub (f d) (f a) (f b)
  | .cclrtag d a => .cclrtag (f d) (f a)
  | .cinci d a imm => .cinci (f d) (f a) imm
  | .csetbi d a len => .csetbi (f d) (f a) len
  | .vadd t d a b => .vadd t (f d) (f a) (f b)
  | .vsub t d a b => .vsub t (f d) (f a) (f b)
  | .vmul t d a b => .vmul t (f d) (f a) (f b)
  | .vfma t d a b => .vfma t (f d) (f a) (f b)
  | .vmin t d a b => .vmin t (f d) (f a) (f b)
  | .vmax t d a b => .vmax t (f d) (f a) (f b)
  | .vabs t d a => .vabs t (f d) (f a)
  | .vneg t d a => .vneg t (f d) (f a)
  | .vand t d a b => .vand t (f d) (f a) (f b)
  | .vor t d a b => .vor t (f d) (f a) (f b)
  | .vxor t d a b => .vxor t (f d) (f a) (f b)
  | .vshl t d a b => .vshl t (f d) (f a) (f b)
  | .vshr t d a b => .vshr t (f d) (f a) (f b)
  | .vsra t d a b => .vsra t (f d) (f a) (f b)
  | .vceq t d a b => .vceq t (f d) (f a) (f b)
  | .vclt t d a b => .vclt t (f d) (f a) (f b)
  | .vcle t d a b => .vcle t (f d) (f a) (f b)
  | .vsel t d a b => .vsel t (f d) (f a) (f b)
  | .vsplat t d a => .vsplat t (f d) (f a)
  | .vext t d a b => .vext t (f d) (f a) (f b)
  | .vins t d a b => .vins t (f d) (f a) (f b)
  | .vshuf t d a b => .vshuf t (f d) (f a) (f b)
  | .vrsum t d a => .vrsum t (f d) (f a)
  | .vrmax t d a => .vrmax t (f d) (f a)
  | .vcvt t src d a => .vcvt t src (f d) (f a)
  | .vdec d a tblB => .vdec (f d) (f a) tblB
  | .venc d a tblB => .venc (f d) (f a) tblB
  | .vrcp t d a => .vrcp t (f d) (f a)
  | .vrsq t d a => .vrsq t (f d) (f a)
  | .vexp2 t d a => .vexp2 t (f d) (f a)
  | .vlog2 t d a => .vlog2 t (f d) (f a)
  | .vimax t d a => .vimax t (f d) (f a)
  | .mma d wa wc a ks => .mma (f d) wa wc (f a) ks
  | .bload wa a ks => .bload wa (f a) ks
  | .accclr w a b => .accclr w (f a) (f b)
  | .accadd w a b fmt => .accadd w (f a) (f b) fmt
  | .accaddv w a b fmt => .accaddv w (f a) (f b) fmt
  | .accfma w d a b => .accfma w (f d) (f a) (f b)
  | .acccmb w a b => .acccmb w (f a) (f b)
  | .accrnd d w b fmt mode => .accrnd (f d) w (f b) fmt mode
  | .accst w a b => .accst w (f a) (f b)
  | .cMov x y => .cMov (f x) (f y)
  | .cAddi x imm => .cAddi (f x) imm
  | .cLi x imm => .cLi (f x) imm
  | .cAdd x y => .cAdd (f x) (f y)
  | .cSub x y => .cSub (f x) (f y)
  | .cAnd x y => .cAnd (f x) (f y)
  | .cSlli x sh => .cSlli (f x) sh
  | .cLdd x off => .cLdd (f x) off
  | .cStd x off => .cStd (f x) off
  | i => i

/-- The registers an instruction reads and writes, for every instruction that may stand in a body (R211, R212); the other
instructions never stand in one. -/
def bodyRegs : Instr → List Reg × List Reg
  | .add d a b => ([a, b], [d])
  | .sub d a b => ([a, b], [d])
  | .and d a b => ([a, b], [d])
  | .or d a b => ([a, b], [d])
  | .xor d a b => ([a, b], [d])
  | .andn d a b => ([a, b], [d])
  | .sll d a b => ([a, b], [d])
  | .srl d a b => ([a, b], [d])
  | .sra d a b => ([a, b], [d])
  | .rol d a b => ([a, b], [d])
  | .slt d a b => ([a, b], [d])
  | .sltu d a b => ([a, b], [d])
  | .min d a b => ([a, b], [d])
  | .max d a b => ([a, b], [d])
  | .minu d a b => ([a, b], [d])
  | .maxu d a b => ([a, b], [d])
  | .mul d a b => ([a, b], [d])
  | .mulh d a b => ([a, b], [d])
  | .mulhu d a b => ([a, b], [d])
  | .div d a b => ([a, b], [d])
  | .divu d a b => ([a, b], [d])
  | .rem d a b => ([a, b], [d])
  | .remu d a b => ([a, b], [d])
  | .clz d a => ([a], [d])
  | .ctz d a => ([a], [d])
  | .popc d a => ([a], [d])
  | .sel d a b => ([d, a, b], [d])
  | .mix d a => ([a], [d])
  | .addi d a _ => ([a], [d])
  | .andi d a _ => ([a], [d])
  | .ori d a _ => ([a], [d])
  | .xori d a _ => ([a], [d])
  | .slli d a _ => ([a], [d])
  | .srli d a _ => ([a], [d])
  | .srai d a _ => ([a], [d])
  | .roli d a _ => ([a], [d])
  | .slti d a _ => ([a], [d])
  | .sltiu d a _ => ([a], [d])
  | .li d _ => ([], [d])
  | .lis d _ => ([d], [d])
  | .ld d a _ _ => ([a], [d])
  | .ldna d a _ _ => ([a], [d])
  | .st b a _ _ => ([b, a], [])
  | .stna b a _ _ => ([b, a], [])
  | .amoadd d a b _ _ _ => ([a, b], [d])
  | .amoand d a b _ _ _ => ([a, b], [d])
  | .amoor d a b _ _ _ => ([a, b], [d])
  | .amoxor d a b _ _ _ => ([a, b], [d])
  | .amomin d a b _ _ _ => ([a, b], [d])
  | .amomax d a b _ _ _ => ([a, b], [d])
  | .amominu d a b _ _ _ => ([a, b], [d])
  | .amomaxu d a b _ _ _ => ([a, b], [d])
  | .amoswp d a b _ _ _ => ([a, b], [d])
  | .amocas d a b _ _ _ => ([d, a, b], [d])
  | .scld d a => ([a], [d])
  | .scst a b => ([a, b], [])
  | .scswp d a b => ([a, b], [d])
  | .scadd d a b => ([a, b], [d])
  | .cgetbase d a => ([a], [d])
  | .cgetlen d a => ([a], [d])
  | .cgetperm d a => ([a], [d])
  | .cgettype d a => ([a], [d])
  | .cgetreg d a => ([a], [d])
  | .cgettag d a => ([a], [d])
  | .csetaddr d a b => ([a, b], [d])
  | .cinc d a b => ([a, b], [d])
  | .csetbnd d a b => ([a, b], [d])
  | .candperm d a b => ([a, b], [d])
  | .cseal d a b => ([a, b], [d])
  | .cunseal d a b => ([a, b], [d])
  | .cmov d a => ([a], [d])
  | .ctestsub d a b => ([a, b], [d])
  | .cclrtag d a => ([a], [d])
  | .cinci d a _ => ([a], [d])
  | .csetbi d a _ => ([a], [d])
  | .vadd _ d a b => ([a, b], [d])
  | .vsub _ d a b => ([a, b], [d])
  | .vmul _ d a b => ([a, b], [d])
  | .vfma _ d a b => ([d, a, b], [d])
  | .vmin _ d a b => ([a, b], [d])
  | .vmax _ d a b => ([a, b], [d])
  | .vabs _ d a => ([a], [d])
  | .vneg _ d a => ([a], [d])
  | .vand _ d a b => ([a, b], [d])
  | .vor _ d a b => ([a, b], [d])
  | .vxor _ d a b => ([a, b], [d])
  | .vshl _ d a b => ([a, b], [d])
  | .vshr _ d a b => ([a, b], [d])
  | .vsra _ d a b => ([a, b], [d])
  | .vceq _ d a b => ([a, b], [d])
  | .vclt _ d a b => ([a, b], [d])
  | .vcle _ d a b => ([a, b], [d])
  | .vsel _ d a b => ([d, a, b], [d])
  | .vsplat _ d a => ([a], [d])
  | .vext _ d a b => ([a, b], [d])
  | .vins _ d a b => ([d, a, b], [d])
  | .vshuf _ d a b => ([a, b], [d])
  | .vrsum _ d a => ([a], [d])
  | .vrmax _ d a => ([a], [d])
  | .vcvt _ _ d a => ([a], [d])
  | .vdec d a _ => ([a], [d])
  | .venc d a _ => ([a], [d])
  | .vrcp _ d a => ([a], [d])
  | .vrsq _ d a => ([a], [d])
  | .vexp2 _ d a => ([a], [d])
  | .vlog2 _ d a => ([a], [d])
  | .vimax _ d a => ([a], [d])
  | .mma d _ _ a _ => ([d, a], [])
  | .bload _ a _ => ([a], [])
  | .accclr _ a b => ([a, b], [])
  | .accadd _ a b _ => ([a, b], [])
  | .accaddv _ a b _ => ([a, b], [])
  | .accfma _ d a b => ([d, a, b], [])
  | .acccmb _ a b => ([a, b], [])
  | .accrnd d _ b _ _ => ([b], [d])
  | .accst _ a b => ([a, b], [])
  | .cMov x y => ([y], [x])
  | .cAddi x _ => ([x], [x])
  | .cLi x _ => ([], [x])
  | .cAdd x y => ([x, y], [x])
  | .cSub x y => ([x, y], [x])
  | .cAnd x y => ([x, y], [x])
  | .cSlli x _ => ([x], [x])
  | .cLdd x _ => ([10], [x])
  | .cStd x _ => ([x, 10], [])
  | _ => ([], [])

/-- The renaming of iteration `i` (R154). -/
def renameReg (base : Reg) (size i : Nat) (n : Reg) : Reg :=
  if base.toNat ≤ n.toNat ∧ n.toNat < base.toNat + size then
    BitVec.ofNat 5 (base.toNat + (n.toNat - base.toNat + i) % size)
  else n

/-- The names a register name stands for over the iterations: all of the rotating range, or itself (R161, R212). -/
def Rep.spread (r : Rep) (n : Reg) : List Nat :=
  if r.base.toNat ≤ n.toNat ∧ n.toNat < r.base.toNat + r.size then
    (List.range r.size).map fun k => r.base.toNat + k
  else [n.toNat]

/-- The registers that a body reads, and those that it writes (R212), g0 among them where it is named. [log 123 DESIGN CHOICE] -/
def Rep.uses (r : Rep) : List Nat × List Nat :=
  let us := r.body.map fun b => match decodeWord b.bits.toNat with
    | .ok i => bodyRegs i
    | .error _ => ([], [])
  ((us.flatMap fun u => u.1).flatMap r.spread, (us.flatMap fun u => u.2).flatMap r.spread)

/-- A register of the bank that runs; g0 reads as zero, untagged and clean (R11). -/
def Core.reg (c : Core) (r : Reg) : Val :=
  if r = 0 then Val.zero
  else if c.km then c.kregs[r.toNat]'r.isLt
  else c.regs[r.toNat]'r.isLt

/-- A register of the bank that runs written; a write to g0 is discarded (R11). -/
def Core.setReg (c : Core) (r : Reg) (v : Val) : Core :=
  if r = 0 then c
  else if c.km then { c with kregs := c.kregs.set r.toNat v r.isLt }
  else { c with regs := c.regs.set r.toNat v r.isLt }

/-- A register bound by SBIND, QBIND or LBIND (R203). -/
def Core.bound (c : Core) (r : Reg) : Bool := (alookup r.toNat c.binds).isSome

/-- Whether a register lies in the rotating range (R154). -/
def Rep.rotates (p : Rep) (r : Reg) : Bool := decide (p.base.toNat ≤ r.toNat) && decide (r.toNat < p.base.toNat + p.size)

/-- Waits while an active repetition uses a register that the control stream reads or writes, or rotates one that it writes
(R161, R212). -/
def awaitBody (r : Reg) (write : Bool) : Ex Unit := do
  let c ← getC
  match c.stream, c.rep with
  | .control, some p =>
    let u := p.uses
    if u.2.contains r.toNat || (write && (u.1.contains r.toNat || p.rotates r)) then stall else pure ()
  | _, _ => pure ()

/-- The bytes of a size code (R195). -/
def szBytes (sz : BitVec 3) : Nat :=
  match sz.toNat with
  | 0 => 1 | 4 => 1 | 1 => 2 | 5 => 2 | 2 => 4 | 6 => 4 | 3 => 8
  | _ => 16

/-- LD of a size code at an address through a capability (R195): every check, the load, and its price. -/
def loadVal (cap : Val) (num : Reg) (ea : DWord) (sz : BitVec 3) (alloc : Bool) : Ex Val := do
  let n := szBytes sz
  let moves := sz == 7 && cap.tag && cap.bits.getLsbD 125
  let p ← access (plainAcc cap num ea n ⟨true, false, moves, false⟩)
  let x ← loadPlace p alloc num
  chargeGmem ea
  match sz.toNat with
  | 4 => pure (Val.ofDWord ((BitVec.ofNat 8 x.value).signExtend 64) x.poison)
  | 5 => pure (Val.ofDWord ((BitVec.ofNat 16 x.value).signExtend 64) x.poison)
  | 6 => pure (Val.ofDWord ((BitVec.ofNat 32 x.value).signExtend 64) x.poison)
  | 7 => pure ⟨BitVec.ofNat 128 x.value, moves && x.tag, x.poison⟩
  | _ => pure (Val.ofDWord (BitVec.ofNat 64 x.value) x.poison)

/-- ST of a size code at an address through a capability (R194, R196). -/
def storeVal (cap : Val) (num : Reg) (ea : DWord) (sz : BitVec 3) (v : Val) (dnum : Reg) (alloc : Bool) : Ex Unit := do
  let n := szBytes sz
  let moves := sz == 7 && v.tag
  let p ← access { plainAcc cap num ea n ⟨false, true, false, moves⟩ with
    noGlob := if moves && !capGlobal v.bits then some dnum else none }
  storePlace p (v.bits.toNat % 2 ^ (8 * n)) v.poison moves alloc
  chargeGmem ea

/-- The address of element x of a generator (R205). [log 36 DEDUCED] -/
def genAddr (cap : Val) (stride : BitVec 24) (desc : Bool) (x : Nat) : DWord :=
  let step := BitVec.ofNat 64 (x * stride.toNat)
  if desc then capAddr cap.bits - step else capAddr cap.bits + step

/-- A binding replaced. -/
def rebind (r : Reg) (b : Binding) : Ex Unit := modC fun c => { c with binds := aset r.toNat b c.binds }

/-- Whether the running stream may use an end of a queue (R206). -/
def queueEndOk (st : Stream) (q : BitVec 2) (pop : Bool) : Bool :=
  (st == .control) == ((q.toNat < 2) != pop)

/-- An architectural queue (R206). -/
def Core.aq (c : Core) (q : BitVec 2) : List Val := c.aqs[q.toNat]?.getD []
def Core.setAq (c : Core) (q : BitVec 2) (l : List Val) : Core := { c with aqs := c.aqs.setIfInBounds q.toNat l }

/-- Blocks on a queue; the control stream traps BIND where no repetition is active (R206). -/
def blockQueue {α : Type} (r : Reg) : Ex α := do
  let c ← getC
  match c.stream, c.rep with
  | .control, none => raiseReg .bind r
  | _, _ => stallQueue

/-- A value as a queue or a link carries it: poison kept, tag cleared (R206, R207). -/
def Val.carried (v : Val) : Val := { v with tag := false }

/-- Pushes onto the core's out-link, which holds two entries (R207). The push is a release: what the core has stored has left its
buffer (R74, R69). -/
def pushLink (v : Val) : Ex Unit := do
  let c ← getC
  if c.link.length < 2 then modS fun s =>
      let s := s.drain s.focus
      { s with core := { s.core with link := s.core.link ++ [v.carried] } }
  else stall

/-- Pops the in-link, the predecessor's out-link, which acquires; with the forward flag the word goes on (R74, R207). -/
def popLink (fwd : Bool) : Ex Val := do
  let s ← getS
  let p := predecessor s.focus
  match (s.getCore p).link with
  | [] => stall
  | v :: l => do
    modS fun s => s.modCore p fun c => { c with link := l }
    modC Core.acquires
    if fwd then pushLink v else pure ()
    pure v

/-- A read of a bound register pops (R153, R205 to R207). [log 36 DEDUCED] -/
def popBound (r : Reg) (b : Binding) : Ex Val := do
  match b with
  | .gen cap count stride write desc esz x =>
    if write || x == count.toNat then raiseReg .bind r
    else do
      let v ← loadVal cap r (genAddr cap stride desc x) esz true
      rebind r (.gen cap count stride write desc esz (x + 1))
      pure v
  | .queue q pop => do
    let c ← getC
    if !pop || !queueEndOk c.stream q true then raiseReg .bind r
    else
      match c.aq q with
      | [] => blockQueue r
      | v :: l => do
        modC fun c => (c.setAq q l).acquires
        pure v
  | .link out fwd => if out then raiseReg .bind r else popLink fwd

/-- A write of a bound register pushes (R153, R205 to R207). [log 36 DEDUCED] -/
def pushBound (r : Reg) (b : Binding) (v : Val) : Ex Unit := do
  match b with
  | .gen cap count stride write desc esz x =>
    if !write || x == count.toNat then raiseReg .bind r
    else do
      storeVal cap r (genAddr cap stride desc x) esz v r true
      rebind r (.gen cap count stride write desc esz (x + 1))
  | .queue q pop => do
    let c ← getC
    if pop || !queueEndOk c.stream q false then raiseReg .bind r
    else if (c.aq q).length < 4 then modC fun c => c.setAq q (c.aq q ++ [v.carried])
    else blockQueue r
  | .link out _ => if out then pushLink v else raiseReg .bind r

/-- The value of a source register; a bound one pops (R153, R212). -/
def readReg (r : Reg) : Ex Val := do
  let c ← getC
  match alookup r.toNat c.binds with
  | some b => popBound r b
  | none => do
    awaitBody r false
    pure (c.reg r)

/-- A destination register written; a bound one pushes (R153, R212). [log 34 DEDUCED] -/
def writeReg (r : Reg) (v : Val) : Ex Unit := do
  let c ← getC
  match alookup r.toNat c.binds with
  | some b => pushBound r b v
  | none => do
    awaitBody r true
    modC fun c => c.setReg r v

/-- A destination that an instruction also reads: a bound one traps BIND (R173, R198, R241). -/
def readDest (r : Reg) : Ex Val := do
  let c ← getC
  if c.bound r then raiseReg .bind r else readReg r

/-- The low doubleword of a register (R172). -/
def Val.low (v : Val) : DWord := v.bits.setWidth 64

/-- A data result (R172). -/
def writeData (r : Reg) (x : DWord) (poison : Bool) : Ex Unit := writeReg r (Val.ofDWord x poison)

/-- The registers, in the order given, of which none may be bound (BIND) and then none poisoned (POISON), read without
popping (R203, R218, R238, R257). -/
def rawRegs (rs : List Reg) : Ex (List Val) := do
  let c ← getC
  match rs.find? c.bound with
  | some r => raiseReg .bind r
  | none => do
    rs.forM fun r => awaitBody r false
    match rs.find? fun r => (c.reg r).poison with
    | some r => raiseReg .poison r
    | none => pure (rs.map c.reg)

/-- A source register read as an address, a selector or another operand that must be clean (R63). -/
def readClean (r : Reg) : Ex Val := do
  let v ← readReg r
  checkReg (!v.poison) .poison r
  pure v

/-- An effect that is tried and undone: whether it would stop. [log 34 DEDUCED] -/
def dryRun (m : Ex Unit) : Ex Unit := fun s => (m s).map fun _ => ((), s)

/-- Kernel-only forms (R260). [log 13 DEDUCED] -/
def needKernel : Ex Unit := do
  let c ← getC
  check c.km .priv 0

/-- Forms that a CODE message may not hold (R37): EVAL is the instruction's bits. [log 13 DEDUCED] -/
def denyCode : Ex Unit := do
  let c ← getC
  check (!c.inCode) .illegal (c.insn.setWidth 64)

end Sys2Proof.Machine
end

