-- ==== Sys2Proof/Machine/Flags.lean ====
section
/-! DEFINITION. Flag computation (R126, R139 to R141, R128): the floating lane operations, each with the flags it raises,
and the conversions of VCVT. A lane is held as the natural number of its bits. -/

namespace Sys2Proof.Machine

/-- The format of a floating vector type (R241). -/
def laneFmt : VType → FFmt
  | .f16 => fp16
  | .bf16 => bf16
  | _ => fp32

/-- Lane width of a vector type (R241). -/
def laneW : VType → Nat
  | .i8 => 8 | .u8 => 8 | .i16 => 16 | .u16 => 16 | .f16 => 16 | .bf16 => 16 | .i32 => 32 | .u32 => 32 | .f32 => 32
  | .i64 => 64

/-- Lanes of a vector type (R241). -/
def laneN (t : VType) : Nat := 128 / laneW t

/-- The lanes of a register under a type, lane 0 first (R241). -/
def lanesOf (w n : Nat) (v : QWord) : List Nat := (List.range n).map fun l => v.toNat / 2 ^ (w * l) % 2 ^ w

/-- The rounding mode that RMODE holds (R125). -/
def Core.mode (c : Core) : RMode := modeOf c.csr.rmode.toNat

/-- NV for a signalling NaN among the operands (R139). -/
def nvSignal (f : FFmt) (xs : List Nat) : Flags := if xs.any f.isSignalling then flagNV else 0

/-- An exact result rounded once, with its own flag (R139). -/
def rounded (f : FFmt) (mode : RMode) (r : Num × Flags) (nv : Flags) : Nat × Flags :=
  let q := roundTo f mode r.1
  (q.1, q.2 ||| r.2 ||| nv)

/-- Floating a + b (R242). -/
def laneAdd (f : FFmt) (mode : RMode) (a b : Nat) : Nat × Flags :=
  rounded f mode (numAdd mode (f.val a) (f.val b)) (nvSignal f [a, b])

/-- Floating a − b (R242). -/
def laneSub (f : FFmt) (mode : RMode) (a b : Nat) : Nat × Flags :=
  rounded f mode (numAdd mode (f.val a) (f.val b).neg) (nvSignal f [a, b])

/-- Floating a × b (R242). -/
def laneMul (f : FFmt) (mode : RMode) (a b : Nat) : Nat × Flags :=
  rounded f mode (numMul (f.val a) (f.val b)) (nvSignal f [a, b])

/-- Floating a × b + d with one rounding (R139, R242). -/
def laneFma (f : FFmt) (mode : RMode) (a b d : Nat) : Nat × Flags :=
  let p := numMul (f.val a) (f.val b)
  let s := numAdd mode p.1 (f.val d)
  rounded f mode (s.1, s.2 ||| p.2) (nvSignal f [a, b, d])

/-- minimumNumber, or with `up` maximumNumber (R140): −0 orders below +0, a NaN yields the other operand. -/
def laneMinMax (f : FFmt) (up : Bool) (a b : Nat) : Nat × Flags :=
  let nv := nvSignal f [a, b]
  let x := f.val a
  let y := f.val b
  if x = .nan ∧ y = .nan then (f.nanBits, nv)
  else if x = .nan then (b, nv)
  else if y = .nan then (a, nv)
  else
    let aLess := numLt x y || (numEq x y && decide (2 ^ f.signPos ≤ a))
    (if aLess != up then a else b, nv)

/-- VABS and VNEG of a floating lane (R242): no flag. -/
def laneSign (f : FFmt) (invert : Bool) (a : Nat) : Nat :=
  if f.val a = .nan then f.nanBits
  else if invert then (a + 2 ^ f.signPos) % 2 ^ (f.signPos + 1)
  else a % 2 ^ f.signPos

/-- The comparisons of floating lanes (R242). -/
inductive Cmp where
  | eq | lt | le
deriving DecidableEq, Repr

/-- A floating comparison and its flags (R242): ordered ones raise NV for any NaN, VCEQ for a signalling one. -/
def laneCmp (f : FFmt) (c : Cmp) (a b : Nat) : Bool × Flags :=
  let x := f.val a
  let y := f.val b
  let nan := x == .nan || y == .nan
  match c with
  | .eq => (numEq x y, nvSignal f [a, b])
  | .lt => (numLt x y, if nan then flagNV else 0)
  | .le => (numLt x y || numEq x y, if nan then flagNV else 0)

/-- VRCP, VRSQ, VEXP2 and VLOG2 of a lane (R140). -/
def laneFn (fn : Num → Num × Flags) (f : FFmt) (mode : RMode) (a : Nat) : Nat × Flags :=
  rounded f mode (fn (f.val a)) (nvSignal f [a])

/-- rank() of R239 for a floating lane: NaN lowest, then totalOrder. -/
def laneRank (f : FFmt) (a : Nat) : Nat :=
  if f.val a = .nan then 0
  else if a / 2 ^ f.signPos % 2 = 1 then 2 ^ f.signPos - a % 2 ^ f.signPos
  else 2 ^ f.signPos + 1 + a

/-- The exact sum of lanes that are all finite, from a running numerator at scale 2^e. -/
def sumFinite (e : Int) : List Num → Int
  | [] => 0
  | .fin n m e' :: xs => numerAt n m e' e + sumFinite e xs
  | _ :: xs => sumFinite e xs

/-- VRSUM of floating lanes (R141). [log 49 DEDUCED] -/
def laneSum (f : FFmt) (mode : RMode) (as : List Nat) : Nat × Flags :=
  let vs := as.map f.val
  let nv := nvSignal f as
  let pinf := vs.contains (.inf false)
  let ninf := vs.contains (.inf true)
  if vs.contains .nan then (f.nanBits, nv)
  else if pinf && ninf then (f.nanBits, flagNV)
  else if pinf then (f.infBits false, 0)
  else if ninf then (f.infBits true, 0)
  else
    let e : Int := f.emin - (f.p - 1 : Nat)
    let k := sumFinite e vs
    let zero (x : Num) : Bool := match x with
      | .fin _ m _ => m == 0
      | _ => false
    let negz (a : Nat) : Bool := a == 2 ^ f.signPos
    let zneg := as.all negz || (decide (mode = .rdn) && vs.all zero && as.any negz)
    roundTo f mode (Num.ofInt k e zneg)

/-- VRMAX of floating lanes in lane order (R243). [log 49 DEDUCED] -/
def laneMaxAll (f : FFmt) : List Nat → Nat × Flags
  | [] => (f.nanBits, 0)
  | [a] => (if f.val a = .nan then f.nanBits else a, nvSignal f [a])
  | a :: b :: r =>
    let m := laneMinMax f true a b
    let q := r.foldl (fun acc x => let y := laneMinMax f true acc.1 x; (y.1, acc.2 ||| y.2)) m
    q

/-- The least and the greatest value of an integer type (R122). -/
def typeMin (t : VType) : Int := if t.isSigned then -(2 ^ (laneW t - 1) : Nat) else 0
def typeMax (t : VType) : Int :=
  if t.isSigned then (2 ^ (laneW t - 1) : Nat) - 1 else (2 ^ laneW t : Nat) - 1

/-- The value of an integer lane (R122). -/
def intLane (t : VType) (a : Nat) : Int :=
  if t.isSigned && decide (2 ^ (laneW t - 1) ≤ a) then (a : Int) - (2 ^ laneW t : Nat) else a

/-- An integer as a lane of a type. -/
def laneOfInt (t : VType) (k : Int) : Nat := (k % (2 ^ laneW t : Nat)).toNat

/-- Saturation of VCVT to an integer type (R128). -/
def laneSat (t : VType) (k : Int) : Nat × Flags :=
  if k < typeMin t then (laneOfInt t (typeMin t), flagNV)
  else if typeMax t < k then (laneOfInt t (typeMax t), flagNV)
  else (laneOfInt t k, 0)

/-- The conversion of one element by VCVT (R128, R243). -/
def laneCvt (mode : RMode) (s t : VType) (a : Nat) : Nat × Flags :=
  if t.isFloat then
    let v := if s.isFloat then (laneFmt s).val a else Num.ofInt (intLane s a) 0 false
    let nv := if s.isFloat then nvSignal (laneFmt s) [a] else 0
    rounded (laneFmt t) mode (v, 0) nv
  else if s.isFloat then
    match (laneFmt s).val a with
    | .nan => (0, flagNV)
    | .inf neg => (laneOfInt t (if neg then typeMin t else typeMax t), flagNV)
    | .fin neg m e =>
      let q := roundToInt mode neg m e
      let r := laneSat t q.1
      if r.2 = 0 then (r.1, if q.2 then flagNX else 0) else r
  else if laneW s < laneW t then (laneOfInt t (intLane s a), 0)
  else laneSat t (intLane s a)

end Sys2Proof.Machine
end

