-- ==== Sys2Proof/Machine/Mxe.lean ====
section
/-! DEFINITION. The matrix engine's instructions (R244 to R251): MMA, BLOAD, BROT, MXWAIT, MXSPILL and MXWT, and what the
engine does with a queue's head, a record's reading and writing, and the cancelling of commands (R247). -/

namespace Sys2Proof.Machine

/-- EVAL of an MXFAULT (R246). -/
def mxEval (reason addr : Nat) (cpc : BitVec 12) (sub : Nat) : DWord :=
  BitVec.ofNat 64 (addr % 2 ^ 32 * 2 ^ 32 + cpc.toNat * 2 ^ 16 + sub % 16 * 2 ^ 8 + reason % 256)

/-- A window as it stands (R24). -/
def Core.window (c : Core) (w : BitVec 4) : QWord := c.windows[w.toNat]?.getD 0

/-- The number of the task whose commands the core issues now; 0 where the kernel runs for none. -/
def Core.taskNo (c : Core) : Nat := match c.task with
  | some k => k.number
  | none => 0

/-- The TCM offsets of the elements of a block of a window, with their scale bytes: (offset, bytes), row by row (R25, R26). -/
def blockBytes (w : QWord) (i0 ni j0 nj : Nat) : List (Nat × Nat) :=
  (List.range ni).flatMap fun i => (List.range nj).flatMap fun j =>
    (elemOff w (i0 + i) (j0 + j), esize (winFmt w)) ::
      (if scaledFmt (winFmt w) then [(scaleOff w (i0 + i) (j0 + j), 1)] else [])

/-- Offset of a record of an ACC window (R136). -/
def recOff (w : QWord) (i j : Nat) : Nat := winBase w + i * winStride w + 96 * j

/-- The record offsets of a block. -/
def blockRecords (w : QWord) (i0 ni j0 nj : Nat) : List Nat :=
  (List.range ni).flatMap fun i => (List.range nj).map fun j => recOff w (i0 + i) (j0 + j)

/-- A failure of the checks at issue: REASON and ADDR (R246). -/
abbrev MxBad := Option (Nat × Nat)

/-- One of the failing offsets, REASON 5 (R246); which one the spec does not say. [log 52 DESIGN CHOICE] -/
def oneBad (tick : Nat) (l : List Nat) : MxBad :=
  if l.isEmpty then none else some (5, l[Config.pickOne tick % l.length]?.getD 0)

/-- The first failure of two checks. -/
def MxBad.orElse (a b : MxBad) : MxBad := if a.isSome then a else b

/-- A check with its REASON. -/
def mxCheck (ok : Bool) (reason : Nat) : MxBad := if ok then none else some (reason, 0)

/-- The fitting of a matrix command (R247): 0 where it passes, or REASON 6 or 7; the kernel bank makes none (R193). [log 55 DEDUCED] -/
def mxFit (need : Need) : Ex Nat := fun s =>
  if s.core.km then .ok (0, s)
  else
    match s.fitting s.core.routineRegion need with
    | .ok s => .ok (0, s)
    | .error (.waits f) => .error (.scrub f)
    | .error (.fails c walk) =>
      let walked := match walk, s.partOf s.focus with
        | some region, some p => (s.fitWalk (panelOf s.focus) p s.core.handle region).2
        | _, _ => s
      .ok (if c = .chaindead then 6 else 7, walked)

/-- The cores of a seam (R10). -/
def seamCores (n : Nat) : List Nat := (List.range 8).map fun k => n / 8 * 8 + k

/-- The engine of a core's seam; nothing has been served at first (R251). [log 116 DESIGN CHOICE] -/
def State.seam (s : State) (n : Nat) : Seam := (alookup (n / 8) s.seams).getD ⟨7, 0, 0⟩
/-- The engine of a core's seam written. -/
def State.setSeam (s : State) (n : Nat) (e : Seam) : State := { s with seams := aset (n / 8) e s.seams }

/-- The head of a core's matrix queue takes note of the time at which it got there, where it is a BROT (R252): the cycle, and the
cycles of trap service counted for its seam. -/
def State.headed (s : State) (n : Nat) : State :=
  match (s.getCore n).mxq with
  | q :: r => match q.op with
    | .brot none sent =>
      let e := s.seam n
      (s.setSeam n e).modCore n fun c => { c with mxq := { q with op := .brot (some (s.clock, e.service)) sent } :: r }
    | _ => s
  | [] => s

/-- A fault recorded where none is pending (R245). -/
def Core.mxRecord (c : Core) (e : DWord) : Core := if c.mxFault.isSome then c else { c with mxFault := some e }

/-- Waits while the core's command queue holds 4 commands (R245). -/
def awaitMxq : Ex Unit := do
  let c ← getC
  if c.mxq.length < 4 then pure () else stall

/-- A command enters the queue, unless a fault is pending (R245). -/
def mxEnter (op : MxOp) (sub : Nat) : Ex Unit := modS fun s =>
  let c := s.core
  if c.mxFault.isSome then s
  else
    let q : MxCmd := { op := op, task := c.taskNo, chain := c.chn.extractLsb' 0 16, ltag := c.ltag, cpc := c.at_,
                       sub := BitVec.ofNat 4 sub }
    { s with core := { c with mxq := c.mxq ++ [q] } }.headed s.focus

/-- MMA (R245, R248). [log 52 DESIGN CHOICE] -/
def mmaEx (d : Reg) (wa wc : BitVec 4) (a : Reg) (ks : BitVec 3) : Ex Flow := do
  let x ← readClean d
  let y ← readClean a
  awaitMxq
  let s ← getS
  let c := s.core
  let ra := (y.low.extractLsb' 0 16).toNat
  let ka := (y.low.extractLsb' 16 16).toNat
  let rc := (y.low.extractLsb' 32 16).toNat
  let cc := (y.low.extractLsb' 48 16).toNat
  let k := 8 * (ks.toNat + 1)
  let a := c.window wa
  let w := c.window wc
  if c.mxFault.isNone then do
    let elems := (blockBytes a ra 8 ka k).filterMap fun e => if 0x8000 < e.1 + e.2 then some e.1 else none
    let recs := (blockRecords w rc 8 cc 8).filter fun o => o % 16 != 0 || decide (0x8000 < o + 96)
    let bad := ((((mxCheck (operandFmt (winFmt a)) 1).orElse (mxCheck (winFmt w == fmtAcc) 2)).orElse
      (mxCheck (decide (ra + 7 < winRows a) && decide (ka + k - 1 < winCols a)) 3)).orElse
      (mxCheck (decide (rc + 7 < winRows w) && decide (cc + 7 < winCols w)) 4)).orElse (oneBad s.tick (elems ++ recs))
    let bad ← match bad with
      | some b => pure (some b)
      | none => do
        let r ← mxFit needBoth
        pure (if r = 0 then none else some (r, 0))
    match bad with
    | some b => modC fun c => c.mxRecord (mxEval b.1 b.2 c.at_ 0)
    | none =>
      mxEnter (.mma { wa := a, wc := w, offs := y.low, spec := x.low, ks := ks.toNat, step := 0, got := [], sums := [], range := false,
                      poison := false, parts := none }) 0
  else pure ()
  modC fun c => { c with csr := c.csr.charge ((ks.toNat + 1) * c.csr.mxPrice) }
  pure .seq

/-- A window element's E8M10 value and RG as the engine reads it (R133). -/
def State.element (s : State) (n : Nat) (w : QWord) (i j : Nat) : BitVec 19 × Bool :=
  let c := s.getCore n
  decodeElem c.tblA c.tblB (winFmt w) (s.mem.read (tcmBase n + elemOff w i j) (esize (winFmt w)))
    (s.mem.byte (tcmBase n + scaleOff w i j)).toNat

/-- Whether a block of a window holds a poisoned operand doubleword. -/
def State.blockPoison (s : State) (n : Nat) (w : QWord) (i0 ni j0 nj : Nat) : Bool :=
  (blockBytes w i0 ni j0 nj).any fun e => s.mem.anyPoison (tcmBase n + e.1) e.2

/-- A core's stores to its own TCM stand in memory for its engine (R76). [log 55 DEDUCED] -/
def State.forEngine (s : State) (n : Nat) : State :=
  if (s.getCore n).stores.any fun e => tcmCore e.loc == some n then s.drain n else s

/-- The watermark channel that holds bytes of a block back, with the offset it blocks (R97). -/
def Core.blockedBy (c : Core) (l : List (Nat × Nat)) : Option (Nat × Watermark) :=
  (l.filterMap fun e => (c.wms.toList.find? fun w => w.blocks e.1 e.2).map fun w => (e.1, w)).head?

/-- Operand element `x` of a BLOAD, row k and column j at 8 k + j: its value, whether its decoding raises RG, its poison. -/
def State.latchElem (s : State) (n : Nat) (w : QWord) (r0 c0 x : Nat) : BitVec 19 × Bool × Bool :=
  let v := s.element n w (r0 + x / 8) (c0 + x % 8)
  (v.1, v.2, s.blockPoison n w (r0 + x / 8) 1 (c0 + x % 8) 1)

/-- What BLOAD has of each of its elements: those it has read before (R77, R129), the rest as they stand now. -/
def State.latchElems (s : State) (n : Nat) (w : QWord) (r0 c0 k : Nat) : List (BitVec 19 × Bool × Bool) :=
  let c := s.getCore n
  let got := match c.loading with
    | some g => if g.stream = c.stream ∧ g.win = w ∧ g.row = r0 ∧ g.col = c0 ∧ g.k = k then g.got else []
    | none => []
  (List.range (8 * k)).map fun x => (alookup x got).getD (s.latchElem n w r0 c0 x)

/-- The latch that BLOAD fills (R249): rows 0 to k − 1 from its elements, the rest +0. -/
def loadedLatch (l : List (BitVec 19 × Bool × Bool)) : Latch :=
  { vals := vtab 512 fun x => ((l[x]?).map fun e => e.1).getD 0,
    poison := l.zipIdx.foldl (fun b e => if e.1.2.2 then b ||| (1 <<< (e.2 / 8)) else b) 0 }

/-- Whether every command of a core has finished reading its latch (R249). [log 53 DEDUCED] -/
def Core.latchFree (c : Core) : Bool := c.mxq.all fun q => match q.op with
  | .mma m => decide (m.ks < m.step)
  | .brot .. => false
  | .spill => true

/-- BLOAD (R245, R249). [log 120 DESIGN CHOICE] -/
def bloadEx (wa : BitVec 4) (a : Reg) (ks : BitVec 3) : Ex Flow := do
  let y ← readClean a
  awaitMxq
  let s ← getS
  let c := s.core
  let r0 := (y.low.extractLsb' 0 16).toNat
  let c0 := (y.low.extractLsb' 16 16).toNat
  let k := 8 * (ks.toNat + 1)
  let w := c.window wa
  let fault (r addr : Nat) : Ex Unit := raise .mxfault (mxEval r addr c.at_ 1)
  if c.mxFault.isNone then do
    let block := blockBytes w r0 k c0 8
    match ((mxCheck (operandFmt (winFmt w)) 1).orElse
      (mxCheck (decide (r0 + k - 1 < winRows w) && decide (c0 + 7 < winCols w)) 3)).orElse
      (oneBad s.tick (block.filterMap fun e => if 0x8000 < e.1 + e.2 then some e.1 else none)) with
    | some b => fault b.1 b.2
    | none => do
      let r ← mxFit needLd
      keepingWalk (s.walkUnder c.routineRegion (r == 0)) do
        if r = 0 then pure () else fault r 0
        if c.latchFree then pure () else stall
        match c.blockedBy block with
        | some (o, m) => if m.stopped then fault 8 o else stall
        | none => pure ()
      modS fun s => s.forEngine s.focus
      let s ← getS
      let l := s.latchElems s.focus w r0 c0 k
      modC fun c => { c with latch := loadedLatch l, loading := none }
      raiseFlags (if l.any fun e => e.2.1 then flagRG else 0)
  else pure ()
  pure .seq

/-- BROT (R245, R250): the command enters the queue. -/
def brotEx : Ex Flow := do
  awaitMxq
  mxEnter (.brot none false) 2
  pure .seq

/-- MXSPILL (R245, R251): the command enters the queue. -/
def mxspillEx : Ex Flow := do
  awaitMxq
  mxEnter .spill 4
  pure .seq

/-- MXWAIT and C.MXWAIT (R245, R251), which acquire what the commands have written (R76). [log 41 DEDUCED] -/
def mxwaitEx : Ex Flow := do
  let c ← getC
  if c.mxq.isEmpty then pure () else stall
  modC Core.acquires
  match c.mxFault with
  | some e => raise .mxfault e
  | none => pure .seq

/-- MXWT (R251). -/
def mxwtEx (a : Reg) : Ex Flow := do
  denyCode
  needKernel
  let x ← readReg a
  let v : BitVec 4 := x.low.extractLsb' 8 4
  modS fun s => s.modCore (s.focus / 8 * 8 + (x.low.extractLsb' 0 3).toNat) fun c =>
    { c with weight := if v = 0 then 1 else v }
  pure .seq

/-! ### Records -/

/-- A record as it stands in TCM: its VAL and status (R135). -/
def recordOf (v : Nat) : Record := ⟨BitVec.ofNat 640 v, BitVec.ofNat 4 (v / 2 ^ 640)⟩

/-- The 96 bytes of a record (R135). -/
def Record.bytes (r : Record) : Nat := r.val.toNat + 2 ^ 640 * r.status.toNat

/-- The six parts of 16 bytes of a record (R66, R253). -/
def Record.part (r : Record) (q : Nat) : QWord := BitVec.ofNat 128 (r.bytes / 2 ^ (128 * q))

/-- Writes a record's six parts in memory (R253), one after another in one step. [log 55 DEDUCED, log 113 DESIGN CHOICE] -/
def Memory.putRecord (m : Memory) (a : Nat) (r : Record) (poison : Bool) : Memory :=
  (List.range 6).foldl (fun m q => m.store (a + 16 * q) 16 (r.part q).toNat poison false) m

/-! ### The engine -/

/-- One term added to a partial sum (R135, R136). -/
def Partial.add (p : Partial) (t : Term) : Partial := ⟨p.sum + t.int, p.status ||| t.status⟩

/-- Where an MMA's operand block and its records start: row and column of each (R248). -/
def Mma.rowA (m : Mma) : Nat := (m.offs.extractLsb' 0 16).toNat
def Mma.colA (m : Mma) : Nat := (m.offs.extractLsb' 16 16).toNat
def Mma.rowC (m : Mma) : Nat := (m.offs.extractLsb' 32 16).toNat
def Mma.colC (m : Mma) : Nat := (m.offs.extractLsb' 48 16).toNat

/-- How many operand elements an MMA has. -/
def Mma.elems (m : Mma) : Nat := 64 * (m.ks + 1)

/-- The row and the column of operand element `x` of an MMA: row i, column 8 t + j at 64 t + 8 i + j. -/
def Mma.elemAt (m : Mma) (x : Nat) : Nat × Nat := (m.rowA + x % 64 / 8, m.colA + 8 * (x / 64) + x % 8)

/-- The bytes of an operand element. -/
def Mma.elemBytes (m : Mma) (x : Nat) : List (Nat × Nat) := blockBytes m.wa (m.elemAt x).1 1 (m.elemAt x).2 1

/-- The operand elements that have not been read yet. -/
def Mma.unread (m : Mma) : List Nat := (List.range m.elems).filter fun x => !(m.got.any fun g => g.1 == x)

/-- The sums of an MMA whose operand elements have all been read (R248): for record (i, j), at 8 i + j, the terms of its row of A and its
column of the latch. -/
def Mma.summed (m : Mma) (latch : Latch) (got : List (Nat × BitVec 19)) : List Partial :=
  let ks := List.range (8 * (m.ks + 1))
  let row (i : Nat) : List Num := ks.map fun k => valE8M10 ((alookup (64 * (k / 8) + 8 * i + k % 8) got).getD 0)
  let col (j : Nat) : List Num := ks.map fun k => valE8M10 (latch.vals[8 * k + j]?.getD 0)
  let cols := (List.range 8).map col
  ((List.range 8).map row).flatMap fun a => cols.map fun b => (List.zipWith termMul a b).foldl Partial.add ⟨0, 0⟩

/-- The head of a core's matrix queue changed. -/
def Core.modMma (c : Core) (m : Mma) : Core :=
  match c.mxq with
  | q :: rest => { c with mxq := { q with op := .mma m } :: rest }
  | [] => c

/-- The head of a core's matrix queue delivers its completion event (R76). -/
def State.mxDone (s : State) (n : Nat) : State :=
  (s.modCore n fun c => { c with mxq := c.mxq.drop 1 }).headed n

/-! ### Tile slots (R244) -/

/-- The TCM offset of the first record of an MMA's tile, which names the tile. -/
def Mma.tile (m : Mma) : Nat := recOff m.wc m.rowC m.colC

/-- The slots of a core with the one that mirrors a tile marked. -/
def markSlot (tile : Nat) (dirty : Bool) (l : List TileSlot) : List TileSlot :=
  l.map fun x => if x.tile = tile then { x with dirty := dirty } else x

/-- A tile slot for a core's tile: the one that mirrors it, a free one of the seam's 32, or one whose values stand in their record.
[log 116 DESIGN CHOICE] -/
def State.slotTaken (s : State) (n tile : Nat) : State :=
  if (s.getCore n).slots.any fun x => x.tile == tile then s.modCore n fun c => { c with slots := markSlot tile true c.slots }
  else
    let used := (seamCores n).flatMap fun m => (s.getCore m).slots
    let give (s : State) (i : Nat) : State := s.modCore n fun c => { c with slots := c.slots ++ [⟨i, tile, true⟩] }
    match (List.range 32).find? fun i => !(used.any fun x => x.index == i) with
    | some i => give s i
    | none => match used.find? fun x => !x.dirty with
      | some x =>
        give ((seamCores n).foldl (fun s m => s.modCore m fun c => { c with slots := c.slots.filter fun y => !(y.index == x.index) }) s) x.index
      | none => s

/-! ### Records -/

/-- A sum added to a record (R136, R248). -/
def Record.accumulate (r : Record) (p : Partial) (range : Bool) : Record :=
  let r' := r.addInt p.sum
  { r' with status := r'.status ||| p.status ||| (if range then 8 else 0) }

/-- The location of record `k` of an MMA: (i, j) at 8 i + j (R248). -/
def Mma.record (m : Mma) (n k : Nat) : Nat := tcmBase n + recOff m.wc (m.rowC + k / 8) (m.colC + k % 8)

/-- Memory with an MMA's sums added to its records, one after the other (R248): a record that two of them share takes both sums (R138); a
marked record stays marked (R63). [log 52 DESIGN CHOICE] -/
def Mma.added (m : Mma) (n : Nat) (mem : Memory) : Memory :=
  m.sums.zipIdx.foldl (fun mem p =>
    let a := m.record n p.2
    mem.putRecord a ((recordOf (mem.read a 96)).accumulate p.1 m.range) (m.poison || mem.anyPoison a 96)) mem

/-- The parts of an MMA's records that are to be written (R248): location, value, mark, each location once. -/
def State.mmaParts (s : State) (n : Nat) (m : Mma) : List (Nat × QWord × Bool) :=
  let mem := m.added n s.mem
  ((List.range m.sums.length).flatMap fun k => (List.range 6).map fun q => m.record n k + 16 * q).eraseDups.map fun a =>
    (a, BitVec.ofNat 128 (mem.read a 16), mem.anyPoison a 16)

/-- One 16-byte part of a record written. -/
def State.putPart (s : State) (x : Nat × QWord × Bool) : State := { s with mem := s.mem.store x.1 16 x.2.1.toNat x.2.2 false }

/-- A cancellation told (R247): recorded for the task that issued the command while it runs, else reported. [log 54 DEDUCED] -/
def State.mxTell (s : State) (n : Nat) (q : MxCmd) (reason addr : Nat) : State :=
  let c := s.getCore n
  if c.taskNo = q.task then s.modCore n fun c => c.mxRecord (mxEval reason addr q.cpc q.sub.toNat)
  else s.report (some n) (s.partOf n) q.ltag repMxfault reason

/-- Command `i` of a core's queue cancelled, and every later command of its task with it (R247). [log 54 DEDUCED] -/
def State.mxCancel (s : State) (n i reason addr : Nat) : State :=
  let qs := (s.getCore n).mxq
  match qs[i]? with
  | none => s
  | some q =>
    let later := qs.drop i
    let s := (s.modCore n fun c =>
      { c with mxq := qs.take i ++ later.filter (fun x : MxCmd => !(x.task == q.task)),
               slots := c.slots.filter fun x => !x.dirty || i != 0 }).headed n
    (later.filter fun x : MxCmd => x.task == q.task).foldl (fun s x => s.mxTell n x reason addr) s

/-! ### The arbiter (R251) -/

/-- Whether a core's head command has a step that can issue: an operand element that no watermark holds back. -/
def Core.stepReady (c : Core) : Bool :=
  match c.mxq with
  | q :: _ => match q.op with
    | .mma m => decide (m.step ≤ m.ks) && m.unread.any fun x => (c.blockedBy (m.elemBytes x)).isNone
    | _ => false
  | [] => false

/-- The arbiter lets core `n` issue a step (R251): at this visit, while the visited core's weight lasts; or at the next visit, to the
first core with a step ready in ring order from the core after the one last served. The weight is read as a visit begins (R264). -/
def State.granted (s : State) (n : Nat) : Option Seam :=
  let e := s.seam n
  let core (k : Nat) : Core := s.getCore (n / 8 * 8 + k % 8)
  if 0 < e.left ∧ (core e.served).stepReady then
    if e.served = n % 8 then some { e with left := e.left - 1 } else none
  else
    match ((List.range 8).map fun k => (e.served + 1 + k) % 8).find? fun k => (core k).stepReady with
    | some k => if k = n % 8 then some { e with served := k, left := (core k).weight.toNat - 1 } else none
    | none => none

/-- An operand element read by the engine (R248), as memory and the tables stand at that moment (R77, R129). -/
def State.readElem (s : State) (n : Nat) (m : Mma) (x : Nat) : State :=
  let s := s.forEngine n
  let v := s.element n m.wa (m.elemAt x).1 (m.elemAt x).2
  let got := (x, v.1) :: m.got
  let m := { m with got := got, range := m.range || v.2, poison := m.poison || s.blockPoison n m.wa (m.elemAt x).1 1 (m.elemAt x).2 1 }
  let latch := (s.getCore n).latch
  let m :=
    if got.length < m.elems then { m with step := got.length / 64 }
    else { m with got := [], step := m.ks + 1, sums := m.summed latch got,
                  poison := m.poison || (List.range (8 * (m.ks + 1))).any fun k => latch.poison.getLsbD k }
  s.modCore n fun c => c.modMma m

/-- The engine's next event for an MMA that has operands to read (R248, R251): the arbiter issues a step, and as many elements as a step
has are read one by one, in any order of the command's (R66). [log 52 DESIGN CHOICE] -/
def State.mmaReads (s : State) (n : Nat) (m : Mma) : State :=
  let c := s.getCore n
  match (m.unread.filterMap fun x => c.blockedBy (m.elemBytes x)).find? fun b => b.2.stopped with
  | some b => s.mxCancel n 0 8 b.1
  | none =>
    let free := m.unread.filter fun x => (c.blockedBy (m.elemBytes x)).isNone
    match free[Config.pickOne s.tick % free.length]? with
    | none => s
    | some x =>
      if m.got.length % 64 = 0 then
        match s.granted n with
        | some e => ((if m.got.isEmpty then s.slotTaken n m.tile else s).setSeam n e).readElem n m x
        | none => s
      else s.readElem n m x

/-- The engine's next event for an MMA that has read its operands (R248): its records are formed, their parts are written one by one,
then the completion is delivered. -/
def State.mmaWrites (s : State) (n : Nat) (m : Mma) : State :=
  match m.parts with
  | none =>
    let s := s.forEngine n
    s.modCore n fun c => c.modMma { m with parts := some (s.mmaParts n m) }
  | some l =>
    match l[Config.pickOne s.tick % l.length]? with
    | some x => (s.putPart x).modCore n fun c => c.modMma { m with parts := some (l.erase x) }
    | none =>
      let s := s.modCore n fun c => { c with slots := markSlot m.tile false c.slots }
      let s := if m.spec.getLsbD 63 then
          s.decrement n (m.spec.extractLsb' 0 6).toNat (m.spec.extractLsb' 6 16).toNat else s
      s.mxDone n

/-- MATRIX_ENGINE_STEP: the engine's next event for the head of a core's queue (R248, R251). [log 53 DEDUCED, log 113 DESIGN CHOICE] -/
def State.mxStep (s : State) (n : Nat) : State :=
  match ((s.getCore n).mxq.head?).map MxCmd.op with
  | some .spill => (s.modCore n fun c => { c with slots := [] }).mxDone n
  | some (.mma m) => if m.step ≤ m.ks then s.mmaReads n m else s.mmaWrites n m
  | _ => s

/-- One phase of a BROT at the head of a core's queue (R250): the latch goes to the successor's empty buffer; then the
image in the core's own buffer becomes its latch. -/
def State.rotate (s : State) (n : Nat) : State :=
  let c := s.getCore n
  match c.mxq with
  | [] => s
  | q :: rest =>
    match q.op with
    | .brot head false =>
      if (s.getCore (successor n)).inbound.isSome then s
      else
        (s.modCore (successor n) fun d => { d with inbound := some c.latch }).modCore n fun c =>
          { c with mxq := { q with op := .brot head true } :: rest }
    | .brot _ true =>
      match c.inbound with
      | none => s
      | some l => (s.modCore n fun c => { c with latch := l, inbound := none }).mxDone n
    | _ => s

/-- The group watchdog (R252): the BROT that has waited at the head of a core's queue is cancelled, with REASON 9. The cycles of kernel
trap service on a core of the seam do not count. [log 56 DEDUCED] -/
def State.watchdog (s : State) (n : Nat) : State :=
  match ((s.getCore n).mxq.head?).map MxCmd.op with
  | some (.brot (some t) _) =>
    if (seamCores n).any fun m => (s.getCore m).svc.isSome then s
    else { s with clock := max s.clock (t.1 + ((s.seam n).service - t.2) + Config.groupCycles) }.mxCancel n 0 9 0
  | _ => s

/-- The cycles of a step in which some core of a seam is in kernel trap service, counted (R252). -/
def State.serviced (s : State) (cycles : Nat) : State :=
  { s with seams := s.seams.map fun e =>
      (e.1, if (seamCores (8 * e.1)).any fun m => (s.getCore m).svc.isSome then { e.2 with service := e.2.service + cycles } else e.2) }

def execMma (d : Reg) (wa wc : BitVec 4) (a : Reg) (ks : BitVec 3) (s : State) : Out := finish 2 (mmaEx d wa wc a ks) s
def execBload (wa : BitVec 4) (a : Reg) (ks : BitVec 3) (s : State) : Out := finish 2 (bloadEx wa a ks) s
def execBrot (s : State) : Out := finish 2 brotEx s
def execMxwait (s : State) : Out := finish 2 mxwaitEx s
def execMxspill (s : State) : Out := finish 2 mxspillEx s
def execMxwt (a : Reg) (s : State) : Out := finish 2 (mxwtEx a) s
def execCMxwait (s : State) : Out := finish 1 mxwaitEx s
def execMatrixEngineStep (core : Nat) (s : State) : Out := .next (s.mxStep core)
def execBrotRotate (core : Nat) (s : State) : Out := .next (s.rotate core)
def execGroupWatchdog (core : Nat) (s : State) : Out := .next (s.watchdog core)

end Sys2Proof.Machine
end

