-- ==== Sys2Proof/Machine/Acc.lean ====
section
/-! DEFINITION. The accumulator instructions (R135 to R137, R253, R254). -/

namespace Sys2Proof.Machine

/-- The records that an operand names (R253): its register, the position word, the records counted from the position, and
what they are needed for. -/
structure RecUse where
  num  : Reg
  pos  : DWord
  recs : List (Nat × Nat)
  need : Need

/-- i and j of a position (R253). -/
def posI (p : DWord) : Nat := (p.extractLsb' 0 16).toNat
def posJ (p : DWord) : Nat := (p.extractLsb' 16 16).toNat

/-- The offsets of the records that an operand names. -/
def RecUse.offs (u : RecUse) (w : QWord) : List Nat := u.recs.map fun r => recOff w (posI u.pos + r.1) (posJ u.pos + r.2)

/-- Steps 2 to 6 of R253 for the records of all operands, and the watermark wait (R97). [log 50 DEDUCED] -/
def accRecords (w : BitVec 4) (us : List RecUse) : Ex Unit := do
  let c ← getC
  let win := c.window w
  check (winFmt win == fmtAcc) .nomap (w.setWidth 64)
  eachOk us fun u =>
    check (u.recs.all fun r => decide (posI u.pos + r.1 < winRows win) && decide (posJ u.pos + r.2 < winCols win)) .nomap
      u.pos
  let offs := us.flatMap fun u => u.offs win
  eachOk offs fun o => check (o % 16 == 0) .align (BitVec.ofNat 64 o)
  eachOk offs fun o => check (decide (o + 96 ≤ 0x8000)) .nomap (BitVec.ofNat 64 o)
  let s ← getS
  eachOk us fun u =>
    if c.km then pure () else fitCheck c.routineRegion u.need (BitVec.ofNat 64 ((u.offs win).headD 0))
  keepingWalk (s.walkUnder c.routineRegion true) (eachOk offs fun o => awaitMarks o 96 (BitVec.ofNat 64 o))

/-- Poison of the registers read as addresses or positions (R253 step 1). -/
def accClean (l : List (Reg × Val)) : Ex Unit := eachOk l fun r => checkReg (!r.2.poison) .poison r.1

/-- The six parts of a record (R253), in the order of their addresses. [log 50 DEDUCED, log 113 DESIGN CHOICE] -/
def recRuns (n o : Nat) : List (Nat × Nat) := (List.range 6).map fun q => (tcmBase n + o + 16 * q, 16)

/-- A record read in program order, its position in register `num` (R253). [log 50 DEDUCED] -/
def readRecord (o : Nat) (num : Reg) : Ex (Record × Bool) := do
  let s ← getS
  let x ← loadRuns false num (recRuns s.focus o)
  pure (recordOf x.value, x.poison)

/-- A record written in program order: the five parts of its value, and the part of its status (R253, R63). [log 50 DEDUCED] -/
def writeRecord (o : Nat) (r : Record) (value status : Bool) : Ex Unit := do
  let s ← getS
  storeRuns r.bytes value false false ((recRuns s.focus o).take 5)
  storeRuns (r.bytes / 2 ^ 640) status false false ((recRuns s.focus o).drop 5)

/-- The lane width of an addend format (R169, R254). -/
def accFmtW : AccFmt → Nat
  | .bf16 => 16
  | .int64 => 64
  | _ => 32

/-- The value of an addend (R254). -/
def accFmtVal : AccFmt → Nat → Num
  | .fp32, x => fp32.val x
  | .e8m10, x => e8m10.val (x % 2 ^ 19)
  | .bf16, x => bf16.val x
  | .int32, x => Num.ofInt (BitVec.ofNat 32 x).toInt 0 false
  | .int64, x => Num.ofInt (BitVec.ofNat 64 x).toInt 0 false

/-- Terms added to the records from a position on, one to each (R136, R254). -/
def addTerms (w : BitVec 4) (a : Reg) (pos : Val) (terms : List Term) (poison : Bool) : Ex Flow := do
  accClean [(a, pos)]
  let u : RecUse := ⟨a, pos.low, (List.range terms.length).map fun l => (0, l), needBoth⟩
  accRecords w [u]
  let c ← getC
  eachOk ((u.offs (c.window w)).zip terms) fun x => do
    let r ← readRecord x.1 a
    writeRecord x.1 (r.1.addTerm x.2) (poison || r.2) r.2
  pure .seq

/-- ACCCLR (R254). [log 50 DEDUCED] -/
def accclrEx (w : BitVec 4) (a b : Reg) : Ex Flow := do
  let p ← readReg a
  let v ← readReg b
  accClean [(a, p)]
  let m := max 1 (v.low.extractLsb' 0 8).toNat
  let n := max 1 (v.low.extractLsb' 8 8).toNat
  let u : RecUse := ⟨a, p.low, (List.range m).flatMap fun i => (List.range n).map fun j => (i, j), needBoth⟩
  accRecords w [u]
  let c ← getC
  eachOk (u.offs (c.window w)) fun o => writeRecord o ⟨0, 0⟩ false false
  pure .seq

/-- ACCADD (R254). -/
def accaddEx (w : BitVec 4) (a b : Reg) (fmt : AccFmt) : Ex Flow := do
  let p ← readReg a
  let v ← readReg b
  addTerms w a p ((lanesOf (accFmtW fmt) 1 v.bits).map fun x => termOf (accFmtVal fmt x)) v.poison

/-- ACCADDV (R254). -/
def accaddvEx (w : BitVec 4) (a b : Reg) (fmt : AccFmt) : Ex Flow := do
  let p ← readReg a
  let v ← readReg b
  addTerms w a p ((lanesOf (accFmtW fmt) (128 / accFmtW fmt) v.bits).map fun x => termOf (accFmtVal fmt x)) v.poison

/-- ACCFMA (R254): D is popped first where it is bound. -/
def accfmaEx (w : BitVec 4) (d a b : Reg) : Ex Flow := do
  let x ← readReg d
  let p ← readReg a
  let v ← readReg b
  addTerms w a p ((lanesOf 16 8 v.bits).map fun y => termMul (fp32.val (x.bits.toNat % 2 ^ 32)) (bf16.val y))
    (x.poison || v.poison)

/-- ACCCMB (R136, R254); a record combined into itself doubles its value and leaves its status (R143). -/
def acccmbEx (w : BitVec 4) (a b : Reg) : Ex Flow := do
  let p ← readReg a
  let q ← readReg b
  accClean [(a, p), (b, q)]
  let u : RecUse := ⟨a, p.low, [(0, 0)], needBoth⟩
  let v : RecUse := ⟨b, q.low, [(0, 0)], needLd⟩
  accRecords w [u, v]
  let c ← getC
  let win := c.window w
  let o := (u.offs win).headD 0
  let from_ := (v.offs win).headD 0
  let r ← readRecord o a
  let t ← readRecord from_ b
  let sum := r.1.combine t.1
  writeRecord o (if from_ = o then { sum with status := r.1.status } else sum) (r.2 || t.2) (r.2 || t.2)
  pure .seq

/-- ACCRND (R137, R254): the mode stands in the instruction. -/
def accrndEx (d : Reg) (w : BitVec 4) (b : Reg) (fmt : AccTarget) (mode : RMode) : Ex Flow := do
  let p ← readReg b
  accClean [(b, p)]
  let u : RecUse := ⟨b, p.low, [(0, 0)], needLd⟩
  accRecords w [u]
  let c ← getC
  let r ← readRecord ((u.offs (c.window w)).headD 0) b
  let x := accRound c.tblA c.tblB r.1 fmt mode
  raiseFlags x.2
  writeData d x.1 r.2
  pure .seq

/-- ACCST (R254): the record is copied part by part. -/
def accstEx (w : BitVec 4) (a b : Reg) : Ex Flow := do
  let p ← readReg a
  let cap ← readReg b
  accClean [(a, p), (b, cap)]
  let u : RecUse := ⟨a, p.low, [(0, 0)], needLd⟩
  accRecords w [u]
  let place ← access { plainAcc cap b cap.low 96 needSt with align := some 16 }
  let s ← getS
  let from_ := recRuns s.focus ((u.offs (s.core.window w)).headD 0)
  match place.cut with
  | .runs l => eachOk (from_.zip l) fun x => do
      let v ← loadRun x.1.1 16 false a
      storeRuns v.value v.poison false true [x.2]
  | _ => pure ()
  chargeGmem cap.low
  pure .seq

def execAccclr (w : BitVec 4) (a b : Reg) (s : State) : Out := finish 2 (accclrEx w a b) s
def execAccadd (w : BitVec 4) (a b : Reg) (fmt : AccFmt) (s : State) : Out := finish 2 (accaddEx w a b fmt) s
def execAccaddv (w : BitVec 4) (a b : Reg) (fmt : AccFmt) (s : State) : Out := finish 2 (accaddvEx w a b fmt) s
def execAccfma (w : BitVec 4) (d a b : Reg) (s : State) : Out := finish 2 (accfmaEx w d a b) s
def execAcccmb (w : BitVec 4) (a b : Reg) (s : State) : Out := finish 2 (acccmbEx w a b) s
def execAccrnd (d : Reg) (w : BitVec 4) (b : Reg) (fmt : AccTarget) (mode : RMode) (s : State) : Out :=
  finish 2 (accrndEx d w b fmt mode) s
def execAccst (w : BitVec 4) (a b : Reg) (s : State) : Out := finish 2 (accstEx w a b) s

end Sys2Proof.Machine
end

