-- ==== Sys2Proof/Machine/Atomic.lean ====
section
/-! DEFINITION. Atomics (R198 to R200, R82, R88 to R90), SC operations (R201, R84) and fences (R202, R83). -/

namespace Sys2Proof.Machine

/-- Whether a location is die-local to the core in focus (R79). -/
def State.isLocal (s : State) (a : Nat) : Bool := localDie a == some (dieOfCore s.focus)

/-- What an atomic access of the running core to [a, a + n) waits for: on a die-local location its whole store buffer
(R82), elsewhere its own stores to those bytes (R70). It takes the place of a load of them that has performed early. -/
def State.settleFor (s : State) (a n : Nat) : State :=
  let s :=
    if s.isLocal a then s.drain s.focus
    else if s.core.stores.any fun e => e.touches a n then
      s.leaveTo s.focus (youngerThan s.core.stores a n) s.core.stores.length
    else s
  let s := s.land fun f => f.core == s.focus && f.store.touches a n
  { s with core := s.core.notEarly a n }

/-- What one atomic does to the old value: the value it writes, or none (R198). -/
abbrev AmoFn := (old operand comparand : DWord) → Option DWord

/-- A doubleword read as an m-bit two's complement number. -/
def signedAt (dw : Bool) (x : DWord) : Int := if dw then x.toInt else (x.setWidth 32).toInt

/-- The ten operations, of width w or d (R198). Operands are below 2^m, and results are cut to m bits when written. -/
def amoAdd : AmoFn := fun o b _ => some (o + b)
def amoAnd : AmoFn := fun o b _ => some (o &&& b)
def amoOr : AmoFn := fun o b _ => some (o ||| b)
def amoXor : AmoFn := fun o b _ => some (o ^^^ b)
def amoMin (dw : Bool) : AmoFn := fun o b _ => some (if signedAt dw o < signedAt dw b then o else b)
def amoMax (dw : Bool) : AmoFn := fun o b _ => some (if signedAt dw o < signedAt dw b then b else o)
def amoMinu : AmoFn := fun o b _ => some (if o.ult b then o else b)
def amoMaxu : AmoFn := fun o b _ => some (if o.ult b then b else o)
def amoSwp : AmoFn := fun _ b _ => some b
def amoCas : AmoFn := fun o b c => if o = c then some b else none

/-- The operand width in bytes. -/
def amoBytes (dw : Bool) : Nat := if dw then 8 else 4

/-- A value cut to the operand width. -/
def cutTo (dw : Bool) (x : DWord) : DWord := if dw then x else (x.setWidth 32).setWidth 64

/-- The scopes of the releases that the write of an atomic makes: its own, elsewhere than at a die-local location (R89, R200), and that
of an earlier FENCE.REL of its agent whose first store or atomic it is (R89). -/
def State.amoScopes (s : State) (loc : Nat) (scope : Scope) (order : AmoOrder) : List Scope :=
  (if (order = .rel ∨ order = .acqrel) ∧ s.isLocal loc = false then [scope] else []) ++ s.core.owedRel.toList

/-- The read and write of an atomic at a location, with nothing between them (R82): the old value and its poison. The write waits
for what the releases that it makes wait for; a failed CAS has none (R200). -/
def amoAt (f : AmoFn) (loc : Nat) (dw : Bool) (b comparand : DWord) (bp : Bool) (scopes : List Scope) : Ex Val := fun s =>
  let n := amoBytes dw
  let s := s.settleFor loc n
  let o := BitVec.ofNat 64 (s.mem.read loc n)
  let p := s.mem.anyPoison loc n || bp
  let s := match f o (cutTo dw b) (cutTo dw comparand) with
    | some v =>
      let s := scopes.foldl (fun (s : State) scope => s.releaseFor s.focus scope) s
      { s with mem := s.mem.store loc n (cutTo dw v).toNat p false }.written (s.partOf s.focus) loc
    | none => s
  .ok (Val.ofDWord o p, { s with core := (s.core.setOwed none).loaded (dieOfCore s.focus) loc n s.tick })

/-- Whether a scope reaches past the die (R89). -/
def wideScope (scope : Scope) : Bool := scope == .mod || scope == .sys

/-- Whether the read of an atomic holds later accesses back: at a die-local location always (R82), elsewhere as an acquire at MODULE or
SYSTEM scope (R89, R90, R200). -/
def amoAcquires (local_ : Bool) (scope : Scope) (order : AmoOrder) : Bool :=
  local_ || ((order == .acq || order == .acqrel) && wideScope scope)

/-- The one location of a checked access that names no alias window. -/
def Place.loc : Place → Nat
  | .runs ((a, _) :: _) => a
  | _ => 0

/-- An AMO (R198 to R200); `cas` reads D as its comparand (R173). [log 39 DEDUCED, log 40 DESIGN CHOICE] -/
def amoEx (f : AmoFn) (cas : Bool) (d a b : Reg) (scope : Scope) (order : AmoOrder) (dw : Bool) : Ex Flow := do
  let c ← if cas then readDest d else pure Val.zero
  let cap ← readReg a
  let v ← readReg b
  let p ← access { plainAcc cap a cap.low (amoBytes dw) needBoth with window := false }
  let s ← getS
  let old ← amoAt f p.loc dw v.low c.low v.poison (s.amoScopes p.loc scope order)
  if amoAcquires (s.isLocal p.loc) scope order then modC Core.acquires else pure ()
  chargeGmem cap.low
  writeReg d old
  pure .seq

/-- The first part of an SC operation (R84, R201): its checks, the emptying of the store buffer, and the operation waiting
to be presented. -/
def scBegin (fn : Nat) (d a b : Reg) : Ex Flow := do
  let cap ← readReg a
  let v ← if fn = 0 then pure Val.zero else readReg b
  let p ← access { plainAcc cap a cap.low 8 needBoth with window := false, local_ := true }
  if fn = 1 then pure () else dryRun (writeReg d Val.zero)
  modS fun s => s.settleFor p.loc 8
  chargeGmem cap.low
  modC fun c => { c.acquires with sc := some { stream := c.stream, fn := fn, loc := p.loc, val := v.low, poison := v.poison, window := none,
                                               result := none } }
  pure .wait

/-- An SC operation (R84, R201): presented, applied and completed with its result; the core's other stream waits for it. [log 34 DEDUCED] -/
def scEx (fn : Nat) (d a b : Reg) : Ex Flow := do
  let c ← getC
  match c.sc with
  | none => scBegin fn d a b
  | some op =>
    if op.stream != c.stream then stall
    match op.result with
    | none => pure .wait
    | some v => do
      let s ← getS
      modC fun c => { c with sc := none, loadAt := s.tick }
      if fn = 1 then pure () else writeReg d v
      pure .seq

/-- FENCE.SL (R202, R83). -/
def fenceStores : Ex Flow := do
  modS fun s => s.drain s.focus
  modC Core.acquires
  pure .seq

/-- FENCE.ACQ (R202, R89): at MODULE or SYSTEM scope no later load has performed before it. -/
def fenceAcquire (scope : Scope) : Ex Flow := do
  if wideScope scope then modC Core.acquires else pure ()
  pure .seq

/-- The release that an agent owes its first store or atomic, after another FENCE.REL (R89). -/
def owed (old : Option Scope) (scope : Scope) : Option Scope := if old = some .sys then old else some scope

/-- FENCE.REL (R202, R89): at MODULE or SYSTEM scope the first store or atomic after it is a release. [log 41 DEDUCED] -/
def fenceRelease (scope : Scope) : Ex Flow := do
  if wideScope scope then modC fun c => c.setOwed (owed c.owedRel scope) else pure ()
  pure .seq

/-- FENCE.AR (R202): FENCE.SL, and at MODULE or SYSTEM scope both others. -/
def fenceBoth (scope : Scope) : Ex Flow := do
  let _ ← fenceStores
  fenceRelease scope

/-- FENCE.ENG (R202): waits for the core's matrix commands, and acquires what they have written (R76). [log 41 DEDUCED] -/
def fenceMatrix : Ex Flow := do
  let c ← getC
  if c.mxq.isEmpty then pure () else stall
  modC Core.acquires
  pure .seq

def execAmoadd (d a b : Reg) (scope : Scope) (order : AmoOrder) (dw : Bool) (s : State) : Out :=
  finish 2 (amoEx amoAdd false d a b scope order dw) s
def execAmoand (d a b : Reg) (scope : Scope) (order : AmoOrder) (dw : Bool) (s : State) : Out :=
  finish 2 (amoEx amoAnd false d a b scope order dw) s
def execAmoor (d a b : Reg) (scope : Scope) (order : AmoOrder) (dw : Bool) (s : State) : Out :=
  finish 2 (amoEx amoOr false d a b scope order dw) s
def execAmoxor (d a b : Reg) (scope : Scope) (order : AmoOrder) (dw : Bool) (s : State) : Out :=
  finish 2 (amoEx amoXor false d a b scope order dw) s
def execAmomin (d a b : Reg) (scope : Scope) (order : AmoOrder) (dw : Bool) (s : State) : Out :=
  finish 2 (amoEx (amoMin dw) false d a b scope order dw) s
def execAmomax (d a b : Reg) (scope : Scope) (order : AmoOrder) (dw : Bool) (s : State) : Out :=
  finish 2 (amoEx (amoMax dw) false d a b scope order dw) s
def execAmominu (d a b : Reg) (scope : Scope) (order : AmoOrder) (dw : Bool) (s : State) : Out :=
  finish 2 (amoEx amoMinu false d a b scope order dw) s
def execAmomaxu (d a b : Reg) (scope : Scope) (order : AmoOrder) (dw : Bool) (s : State) : Out :=
  finish 2 (amoEx amoMaxu false d a b scope order dw) s
def execAmoswp (d a b : Reg) (scope : Scope) (order : AmoOrder) (dw : Bool) (s : State) : Out :=
  finish 2 (amoEx amoSwp false d a b scope order dw) s
def execAmocas (d a b : Reg) (scope : Scope) (order : AmoOrder) (dw : Bool) (s : State) : Out :=
  finish 2 (amoEx amoCas true d a b scope order dw) s

def execScld (d a : Reg) (s : State) : Out := finish 2 (scEx 0 d a 0) s
def execScst (a b : Reg) (s : State) : Out := finish 2 (scEx 1 0 a b) s
def execScswp (d a b : Reg) (s : State) : Out := finish 2 (scEx 2 d a b) s
def execScadd (d a b : Reg) (s : State) : Out := finish 2 (scEx 3 d a b) s

def execFenceSl (s : State) : Out := finish 2 fenceStores s
def execFenceAcq (scope : Scope) (s : State) : Out := finish 2 (fenceAcquire scope) s
def execFenceRel (scope : Scope) (s : State) : Out := finish 2 (fenceRelease scope) s
def execFenceAr (scope : Scope) (s : State) : Out := finish 2 (fenceBoth scope) s
def execFenceEng (s : State) : Out := finish 2 fenceMatrix s

end Sys2Proof.Machine
end

