-- ==== Sys2Proof/Machine/Chain.lean ====
section
/-! DEFINITION. The chain instructions: ADOPT, SHED, CHNGET, FIT, UNPICK, CHARGE and CHNSET (R103, R105 to R108, R111, R113,
R228 to R230). -/

namespace Sys2Proof.Machine

/-- Otypes that the hardware reads (R189): GRANT and REVOKE. -/
def otGrant : Nat := 1
def otRevoke : Nat := 2

/-- CHN with another handle and depth (R103). -/
def chnWith (chn : DWord) (h depth : Nat) : DWord :=
  BitVec.ofNat 64 ((chn.extractLsb' 20 4).toNat * 2 ^ 20 + depth % 16 * 2 ^ 16 + h % 2 ^ 16)

/-- Interns a chain and makes it the current one (R102, R107, R108): a CLAIMED entry is waited for, a full table traps. -/
def internAs (links : List (Nat × Nat)) : Ex Nat := do
  let s ← getS
  match s.partOf s.focus with
  | none => raise .chaindead (BitVec.ofNat 64 s.core.handle)
  | some p =>
    match s.intern p links with
    | (.found h, s') => do
      modS fun _ => { s' with core := { s'.core with chn := chnWith s'.core.chn h links.length } }
      pure h
    | (.claimed, _) => stall
    | (.held f, _) => fun _ => .error (.scrub f)
    | (_, _) => raise .adopt 5

/-- The links of the current chain; CHAINDEAD where its entry is not usable (R107). -/
def currentLinks : Ex (List (Nat × Nat)) := do
  let s ← getS
  tableReady (s.partOf s.focus) fun s p => [s.chainAt p s.core.handle]
  match (s.partOf s.focus).bind fun p => s.chain p s.core.handle with
  | some ls => pure ls
  | none => raise .chaindead (BitVec.ofNat 64 s.core.handle)

/-- A chain with the fraction of its last link changed. -/
def withLast (f : Nat → Nat) : List (Nat × Nat) → List (Nat × Nat)
  | [] => []
  | [l] => [(l.1, f l.2)]
  | l :: ls => l :: withLast f ls

/-- The grant record's words, read through the sealed grant capability (R105, R228). A mark in them is not looked at.
[log 62 DEDUCED, log 124 DESIGN CHOICE] -/
def readGrant (a : Reg) : Ex (List DWord) := do
  let v ← readClean a
  checkReg v.tag .captag a
  checkReg (capOtype v.bits == otGrant) .capseal a
  check (v.low.toNat % 32 == 0) .align v.low
  check (inBounds v.bits v.low.toNat 32) .capbound v.low
  let acc : Acc := { plainAcc v a v.low 32 needLd with align := some 32, window := false }
  let s ← getS
  let p ← match accRange acc s with
    | some (_, some p) => pure (p, none)
    | some (.global off, none) => accMap acc off
    | _ => raise .nomap v.low
  awaitScrub p.2
  awaitPlace p.1 v.low
  let x ← loadPlace p.1.cut false a
  pure ((List.range 4).map fun i => BitVec.ofNat 64 (x.value / 2 ^ (64 * i)))

/-- ADOPT (R107, R228). [log 62 DEDUCED] -/
def adoptEx (d a : Reg) : Ex Flow := do
  denyCode
  let g ← readGrant a
  let links ← currentLinks
  let s ← getS
  let w := g[0]?.getD 0
  let plen := (w.extractLsb' 45 4).toNat
  let maxd := (w.extractLsb' 41 4).toNat
  let fq := (w.extractLsb' 24 17).toNat
  let q := (w.extractLsb' 0 24).toNat
  let es := patternElems (g[1]?.getD 0) (g[2]?.getD 0) (g[3]?.getD 0) (min plen 8)
  check (!malformed plen es && decide (1 ≤ maxd) && decide (maxd ≤ 8)) .adopt 7
  check (chainMatch plen es (links.map fun l => l.1)) .adopt 1
  check (decide (s.core.depth < maxd) && decide (s.core.depth < 8)) .adopt 2
  check (decide (fq ≤ (links.getLast?.map fun l => l.2).getD 0)) .adopt 3
  tableReady (s.partOf s.focus) fun s p => s.prinOffs p [(q, 0)]
  check (match s.partOf s.focus with
    | some p => s.live p q
    | none => false) .adopt 4
  let h ← internAs (withLast (· - fq) links ++ [(q, fq)])
  writeData d (BitVec.ofNat 64 h) false
  chargeBy Csrs.adoptPrice
  pure .seq

/-- SHED (R108, R228). [log 62 DEDUCED] -/
def shedEx (d : Reg) : Ex Flow := do
  let c ← getC
  check (decide (c.floor < c.depth)) .adopt 6
  let links ← currentLinks
  let rest := links.dropLast
  if rest.isEmpty then raise .chaindead (BitVec.ofNat 64 c.handle)
  else do
    let h ← internAs (withLast (· + (links.getLast?.map fun l => l.2).getD 0) rest)
    writeData d (BitVec.ofNat 64 h) false
    pure .seq

/-- A link as CHNGET reports it (R229). -/
def linkWord (l : Nat × Nat) : DWord := BitVec.ofNat 64 (l.2 % 2 ^ 17 * 2 ^ 24 + l.1 % 2 ^ 24)

/-- CHNGET (R229). -/
def chngetEx (d a : Reg) : Ex Flow := do
  let v ← readClean a
  let s ← getS
  let i := v.low.toNat
  if i < 8 then tableReady (s.partOf s.focus) fun s p => [s.chainAt p s.core.handle]
  let links := ((s.partOf s.focus).bind fun p => s.chain p s.core.handle).getD []
  let x := if i < 8 then (if i < s.core.depth then ((links[i]?).map linkWord).getD 0 else 0)
    else s.core.chn
  writeData d x false
  pure .seq

/-- The fitting result of FIT, and the fitting cache it leaves (R111, R229); or the frame for whose scrub its walk waits (R332). -/
def State.fitResult (s : State) (region : Nat) : Except Nat (DWord × State) :=
  let h := s.core.handle
  let put (e : FitEntry) (s : State) : State := { s with core := { s.core with fit := fitTouch e s.core.fit } }
  match fitFind h region s.core.fit with
  | some e => .ok (e.perms.setWidth 64, put e s)
  | none =>
    match s.partOf s.focus with
    | none => .ok (1 <<< 63, s)
    | some p =>
      match s.fitWalk (panelOf s.focus) p h region with
      | (.held f, _) => .error f
      | (.dead, w) => .ok (1 <<< 63, w)
      | (.undecided, w) => .ok (1 <<< 62, w)
      | (.rule perms prins, w) =>
        .ok (perms.setWidth 64, put ⟨BitVec.ofNat 16 h, BitVec.ofNat 10 region, perms, prins.length, prins⟩ w)

/-- FIT (R229). -/
def fitEx (d a : Reg) : Ex Flow := do
  let v ← readClean a
  checkReg v.tag .captag a
  let s ← getS
  match s.fitResult (capRtag v.bits) with
  | .error f => fun _ => .error (.scrub f)
  | .ok r => do
    modS fun _ => r.2
    writeData d r.1 false
    pure .seq

/-- The modules of a partition's peer list (R328). -/
def State.peers (s : State) (p : Nat) : List (BitVec 12) :=
  (List.range (s.part p).peercount.toNat).map fun i =>
    BitVec.ofNat 12 (s.mem.read ((s.part p).peerbase.toNat + 2 * i) 2)

/-- Where a principal's table entry lies (R100). -/
def State.prinAt (s : State) (p q : Nat) : Nat := (s.part p).ptbase.toNat + 8 * q

/-- STATE of a principal's entry (R100). -/
def State.prinState (s : State) (p q : Nat) : Nat := ((s.guestWord p (s.prinAt p q)).extractLsb' 62 2).toNat

/-- A principal's entry moved from LIVE to DEAD (R113). -/
def State.kill (s : State) (p q : Nat) : State :=
  s.setGuestWord p (s.prinAt p q) ((s.guestWord p (s.prinAt p q)).setWidth 62 |>.setWidth 64 |>.or (2 <<< 62))

/-- An outstanding unpick of a principal (R113). -/
def Unpick.of (u : Unpick) (p q : Nat) : Bool := u.part == p && u.prin == some q

/-- Step 1 of R113: the answer at once, or the wait that begins: for an unpick by its number, or for every unpick of a
principal that is outstanding. -/
def State.unpickBegin (s : State) (p q : Nat) (domain : Bool) (issuer : Option Nat) : Sum DWord (Nat × BitVec 2) × State :=
  if q = 0 ∨ q = 1 ∨ (s.part p).ptcount.toNat ≤ q ∨ 0xFFFFFD < q then (.inl 2, s)
  else
    match s.prinState p q with
    | 0 => (.inl 2, s)
    | 1 =>
      let u : Unpick := { id := s.nextId, part := p, prin := some q, issuer := issuer, presented := false, received := [],
                          peers := if domain then s.peers p else [] }
      (.inr (s.nextId, 0), { s.kill p q with unpicks := s.unpicks ++ [u], nextId := s.nextId + 1 })
    | _ => if s.unpicks.any fun u => u.of p q then (.inr (q, 1), s) else (.inl 1, s)

/-- Whether what an UNPICK waits for is over (R113). -/
def State.unpickOver (s : State) (w : Nat × BitVec 2) : Bool :=
  if w.2 = 1 then !(s.unpicks.any fun u => (match s.partOf s.focus with
    | some p => u.of p w.1
    | none => false))
  else !(s.unpicks.any fun u => u.id == w.1)

/-- UNPICK (R113, R230): step 1 once, then the wait; no later access of the core has performed before. [log 34 DEDUCED, log 63 DEDUCED] -/
def unpickEx (d a : Reg) : Ex Flow := do
  let c ← getC
  match c.unpick with
  | some w => do
    let s ← getS
    if s.unpickOver w then do
      modC fun c => { c with unpick := none }
      writeData d (w.2.setWidth 64) false
      pure .seq
    else pure .wait
  | none => do
    denyCode
    let v ← readClean a
    let s ← getS
    let part := s.partOf s.focus
    if c.km then pure ()
    else do
      checkReg v.tag .captag a
      checkReg (capOtype v.bits == otRevoke) .capseal a
      checkReg (part == some (v.low.extractLsb' 24 8).toNat) .capperm a
    modC fun c => { c with early := [] }
    let s ← getS
    match part with
    | none => do
      writeData d 2 false
      pure .seq
    | some p =>
      tableReady (some p) fun s p => [s.prinAt p (v.low.extractLsb' 0 24).toNat]
      match s.unpickBegin p (v.low.extractLsb' 0 24).toNat (v.low.getLsbD 32) (some s.focus) with
      | (.inl r, _) => do
        writeData d r false
        pure .seq
      | (.inr w, s') => do
        dryRun (writeReg d Val.zero)
        modS fun _ => { s' with core := { s'.core with unpick := some w } }
        pure .wait

/-- CHARGE (R230). -/
def chargeEx (a : Reg) : Ex Flow := do
  let v ← readClean a
  modC fun c => { c with csr := c.csr.charge v.low.toNat }
  pure .seq

/-- CHNSET (R230). -/
def chnsetEx (a : Reg) : Ex Flow := do
  denyCode
  needKernel
  let v ← readClean a
  let h := (v.low.extractLsb' 0 16).toNat
  let s ← getS
  match s.partOf s.focus with
  | none => raise .chaindead (BitVec.ofNat 64 h)
  | some p =>
    tableReady (some p) fun s p => [s.chainAt p h]
    check (s.chain p h).isSome .chaindead (BitVec.ofNat 64 h)
    modC fun c => { c with chn := s.chnOf p h }
    pure .seq

def execAdopt (d a : Reg) (s : State) : Out := finish 2 (adoptEx d a) s
def execShed (d : Reg) (s : State) : Out := finish 2 (shedEx d) s
def execChnget (d a : Reg) (s : State) : Out := finish 2 (chngetEx d a) s
def execFit (d a : Reg) (s : State) : Out := finish 2 (fitEx d a) s
def execUnpick (d a : Reg) (s : State) : Out := finish 2 (unpickEx d a) s
def execCharge (a : Reg) (s : State) : Out := finish 2 (chargeEx a) s
def execChnset (a : Reg) (s : State) : Out := finish 2 (chnsetEx a) s

end Sys2Proof.Machine
end

