-- ==== Sys2Proof/Machine/Parcels.lean ====
section
/-! DEFINITION. Fetching (R37, R144): the parcels of the code that a core runs, and the instruction that it issues next. -/

namespace Sys2Proof.Machine

/-- The words of the CODE message that the running task executes (R37). -/
def Core.codeWords (c : Core) : Option (List DWord) :=
  if c.km then none
  else match c.task with
    | some k => match k.code with
      | some (slot, len) => match (c.inbox[slot]?).bind id with
        | some m => some (m.words.take len)
        | none => some []
      | none => none
    | none => none

/-- Parcel `k` of the code that runs (R37, R144). -/
def State.parcel (s : State) (k : Nat) : Nat :=
  match s.core.codeWords with
  | some ws => (ws[k / 4]?.getD 0).toNat / 2 ^ (16 * (k % 4)) % 2 ^ 16
  | none => s.mem.read (imemBase s.focus + 2 * k) 2

/-- How many parcels the code that runs has (R37, R144). -/
def State.parcelsIn (s : State) : Nat :=
  match s.core.codeWords with
  | some ws => 4 * ws.length
  | none => 4096

/-- A fetched instruction, or the EVAL with which there is none (R144, R37). -/
inductive Fetched where
  | insn (bits len : Nat)
  | none (eval : DWord)
deriving DecidableEq, Repr

/-- The fetch of R144. Running off the end of a CODE message has no instruction bits and leaves EVAL zero (R37, R59). [log 14 DEDUCED] -/
def State.fetch (s : State) : Fetched :=
  let pc := s.core.pcNow.toNat
  let n := s.parcelsIn
  if n ≤ pc then .none 0
  else
    let p := s.parcel pc
    if p % 2 = 0 then .insn p 1
    else if pc + 1 = n then .none (BitVec.ofNat 64 pc)
    else .insn (p + 2 ^ 16 * s.parcel (pc + 1)) 2

/-- The instruction that the control stream of the core in focus issues next. -/
def State.controlInsn (s : State) : Option Instr :=
  match s.fetch with
  | .insn bits _ => (decodeWord bits).toOption
  | .none _ => none

/-- The instruction that the body of a repetition issues next, renamed for its iteration (R154). -/
def Rep.bodyInsn (r : Rep) : Option Instr :=
  match r.body[r.pos]? with
  | some b => (decodeWord b.bits.toNat).toOption.map (renameRegs (renameReg r.base r.size r.iter))
  | none => none

/-- Whether the core in focus issues an instruction next, in either stream. -/
def State.issuesNext (s : State) (p : Instr → Bool) : Bool :=
  match s.core.rep with
  | some r => if r.capturing then false else s.controlInsn.any p || r.bodyInsn.any p
  | none => s.controlInsn.any p

end Sys2Proof.Machine
end

