-- ==== Sys2Proof/Machine/Streamer.lean ====
section
/-! DEFINITION. Streamers: which one runs a command (R330, R338), what it checks and moves piece by piece, how a command
finishes or fails (R94 to R99, R119, R256 to R258), and the watermark channels that deliveries advance (R97). -/

namespace Sys2Proof.Machine

/-- A panel reached for a partition (R23). -/
def State.partReaches (s : State) (p panel : Nat) : Bool := s.inSet p panel && s.occupant panel == some p

/-- The bank-group streamer of each die that scrubs frames (R332). -/
def scrubStreamer : Nat := 63

/-- The streamers of a die that a partition owns, rising: 0 to 63 beside the bank groups, 64 to 95 beside the GDDR channels
(R329, R330). Streamer 63 has no owner: the scrubbing is its work (R332). -/
def State.ownedOf (s : State) (die p lo hi : Nat) : List Nat :=
  (List.range (hi - lo)).filterMap fun k =>
    if lo + k != scrubStreamer && (alookup (lo + k) (s.die die).owner).map BitVec.toNat == some p then some (lo + k) else none

/-- The key of a streamer of a die that the partition owns, with the fallback of R330. -/
def State.ownedOr (s : State) (die p n : Nat) : Option Nat :=
  let lo := if n < 64 then 0 else 64
  let hi := if n < 64 then 64 else 96
  let owned := s.ownedOf die p lo hi
  (if owned.contains n then some n else owned.head?).map (streamerKey die)

/-- The streamer beside the home of an MPA, as the partition may use it (R28, R330, R338). -/
def State.beside (s : State) (p mpa die : Nat) : Option Nat :=
  match s.homeOf mpa with
  | some (.sram d) => s.ownedOr d p (mpa / 2 ^ 16 % 64)
  | some (.gddr c) => s.ownedOr (c / 32) p (64 + c % 32)
  | some .host =>
    match s.ownedOr 0 p 0 with
    | some k => some k
    | none => (s.ownedOf die p 0 64).head?.map (streamerKey die)
  | none => (s.ownedOf die p 0 64).head?.map (streamerKey die)

/-- The streamer of a source at a global-region offset, translated through a translation cache, and the caches then (R338). A stage-1
table that is scrub-pending counts as the scrub leaves it, without a translation. [log 85 DEDUCED] -/
def State.globalStreamer (s : State) (cache p off die : Nat) : Option Nat × State :=
  let first := (s.ownedOf die p 0 64).head?.map (streamerKey die)
  match s.translateVia cache p off true false with
  | (.error _, s) => (first, s)
  | (.ok e, s) => (if e.scrub && (s.walkHold p off).isSome then first else s.beside p (e.frame + off % 2 ^ 16) die, s)

/-- The streamer that a released command goes to (R94, R338): that of the panel for a source in TCM or in a scratchpad. [log 60 DEDUCED] -/
def State.streamerFor (s : State) (e : EngCmd) : Option Nat × State :=
  let a := (e.src.extractLsb' 0 64).toNat
  let die := dieOfCore e.core
  if e.remote.isSome && e.remote != some s.modnum && e.kind == .gather then ((s.ownedOf die e.part 0 64).head?.map (streamerKey die), s)
  else
    match rangeOf a with
    | some (.global off, _) => s.globalStreamer (panelOf e.core) e.part off die
    | some (.tcm m _, _) => (some (panelOf m), s)
    | some (.spad q _, _) => (some q, s)
    | _ => (some (panelOf e.core), s)

/-- A command given to a streamer; with none it fails at once (R338). -/
def State.startJob (s : State) (e : EngCmd) (key : Option Nat) : State :=
  { s with jobs := s.jobs ++ [{ cmd := e, streamer := key.getD 0, begun := false, held := [], done := [],
                                failed := if key.isSome then none else some Cause.engfault.code, finished := false }] }

/-- A released command goes to its streamer (R95, R338). [log 60 DEDUCED] -/
def State.launchCmd (s : State) (e : EngCmd) : State :=
  let r := s.streamerFor e
  r.2.startJob e r.1

/-! ### Intervals -/

/-- A range added to rising disjoint intervals. -/
def addRange (a b : Nat) : List (Nat × Nat) → List (Nat × Nat)
  | [] => [(a, b)]
  | (c, d) :: r =>
    if b < c then (a, b) :: (c, d) :: r
    else if d < a then (c, d) :: addRange a b r
    else addRange (min a c) (max b d) r

/-- Whether a point lies in some interval. -/
def inRanges (x : Nat) (l : List (Nat × Nat)) : Bool := l.any fun r => decide (r.1 ≤ x) && decide (x < r.2)

/-- The length of intervals. -/
def rangeSum (l : List (Nat × Nat)) : Nat := (l.map fun r => r.2 - r.1).sum

/-- Whether some interval holds [a, b). -/
def rangeHolds (a b : Nat) (l : List (Nat × Nat)) : Bool := l.any fun r => decide (r.1 ≤ a) && decide (b ≤ r.2)

/-! ### Watermark channels -/

/-- W raised through every consecutive delivered unit, within fuel (R97). [log 59 DEDUCED] -/
def Watermark.advance (w : Watermark) : Nat → Watermark
  | 0 => w
  | k + 1 => if w.w < w.len.toNat ∧ rangeHolds w.w (w.w + 256) w.got then { w with w := w.w + 256 }.advance k else w

/-- Bytes delivered at an offset of TCM (R97): those in the channel's range count, until the channel stops (R99). -/
def Watermark.deliver (w : Watermark) (off n : Nat) : Watermark :=
  let lo := max off w.base.toNat
  let hi := min (off + n) (w.base.toNat + w.len.toNat)
  if !w.stopped && decide (lo < hi) then { w with got := addRange (lo - w.base.toNat) (hi - w.base.toNat) w.got }.advance 128 else w

/-- Whether a write lies beyond the reorder reach of a running channel, so that the streamer holds it back (R97). [log 59 DEDUCED] -/
def Watermark.beyond (w : Watermark) (off n : Nat) : Bool :=
  !w.stopped && decide (0 < w.len.toNat) && decide (w.base.toNat + w.w + 65 * 256 < off + n) &&
    decide (off < w.base.toNat + w.len.toNat)

/-! ### Pieces -/

/-- Why a piece does not move: its check fails, with the state that the walks for it have left; it is set aside for a page request; it
waits for a frame that is scrub-pending; it waits. -/
inductive PieceStop where
  | fail (cause : Nat) (s : State)
  | aside (m : PageMiss)
  | scrub (frame : Nat)
  | wait

/-- The end of a command's own bytes (R255, R256). -/
def EngCmd.total (e : EngCmd) : Nat := e.rows * e.rowLen

/-- The streamer's number in its die's window (R325); a panel streamer has none. [log 60 DEDUCED, log 73 DESIGN CHOICE] -/
def streamerNo (tick key : Nat) : Nat :=
  if 16384 ≤ key then (key - 16384) % 96 else (Config.strayWord tick key).toNat % 2 ^ 20

/-- The fitting check of a streamer, through its fitting cache (R110, R111). -/
def State.engFit (s : State) (key p h region : Nat) (need : Need) : Except PieceStop State :=
  let es := (alookup key s.strFit).getD []
  let put (e : FitEntry) (s : State) : State := { s with strFit := aset key (fitTouch e es) s.strFit }
  match fitFind h region es with
  | some e => if need.within e.perms then .ok (put e s) else .error (.fail Cause.nofit.code s)
  | none =>
    match s.fitWalk key p h region with
    | (.held f, _) => .error (.scrub f)
    | (.dead, s) => .error (.fail Cause.chaindead.code s)
    | (.undecided, s) => .error (.fail Cause.nofit.code s)
    | (.rule perms prins, s) =>
      if need.within perms then .ok (put ⟨BitVec.ofNat 16 h, BitVec.ofNat 10 region, perms, prins.length, prins⟩ s)
      else .error (.fail Cause.nofit.code s)

/-- Where the bytes of a piece lie: the checks of R257 order 5, of R110 and of steps 8 and 9 of R192, made by the streamer
for an address (R258). -/
def State.engReach (s : State) (j : Nat) (job : EngJob) (piece : Nat) (a region : Nat) (need : Need) :
    Except PieceStop (Nat × State) :=
  let e := job.cmd
  let nomap : Except PieceStop (Nat × State) := .error (.fail Cause.nomap.code s)
  let fit : Except PieceStop State := s.engFit job.streamer e.part e.chain.toNat region need
  let at_ (loc : Nat) : Except PieceStop (Nat × State) := fit.map fun s => (loc, s)
  match rangeOf a with
  | some (.ownTcm o, _) => if e.core < 1048576 then at_ (tcmBase e.core + o) else nomap
  | some (.ownSpad o, _) => if e.core < 1048576 then at_ (spadBase (panelOf e.core) + o) else nomap
  | some (.tcm m o, _) => if m = e.core ∨ s.partReaches e.part (panelOf m) then at_ (tcmBase m + o) else nomap
  | some (.spad q o, _) =>
    if (q = panelOf e.core ∧ e.core < 1048576) ∨ s.partReaches e.part q then at_ (spadBase q + o) else nomap
  | some (.global off, _) => fit.bind fun s =>
    match s.translateVia job.streamer e.part off need.ld need.st with
    | (.error x, s) =>
      .error (.aside { part := e.part, off := off, wr := need.st, fault := x, src := streamerNo s.tick job.streamer,
                       ltag := e.ltag, chain := e.chain, asker := .job j piece })
    | (.ok t, s) =>
      if (s.homeOf (t.mpa off)).isNone then .error (.fail Cause.nomap.code s)
      else if t.scrub then .error (.scrub t.frame)
      else .ok (t.mpa off, s)
  | _ => nomap

/-- A row's address: start + k × step (R256). -/
def rowAddr (cap : QWord) (k step : Nat) : DWord := capAddr cap + BitVec.ofNat 64 (k * step)

/-- The row that an index list names for row r (R256): read through the descriptor capability, or r itself. [log 58 DEDUCED] -/
def State.rowIndex (s : State) (j : Nat) (job : EngJob) (piece r : Nat) : Except PieceStop (Nat × State) :=
  let e := job.cmd
  if e.kind = .gather ∨ e.kind = .scatter then
    let a := capAddr e.desc + e.idxOff + BitVec.ofNat 64 (4 * r)
    if !inBounds e.desc a.toNat 4 then .error (.fail Cause.capbound.code s)
    else if a.toNat % 4 ≠ 0 then .error (.fail Cause.align.code s)
    else
      match s.engReach j job piece a.toNat (capRtag e.desc) needLd with
      | .error x => .error x
      | .ok (loc, s) => .ok (s.mem.read loc 4, s)
  else .ok (r, s)

/-- The largest aligned block of at most 16 bytes that holds byte `o` of a row: its start and length (R94, R258). `phase`
is how far the source and the destination differ. -/
def blockAt (o dst phase len : Nat) : Nat × Nat :=
  let try_ (z : Nat) : Option (Nat × Nat) :=
    let start := o - (dst + o) % z
    if phase % z = 0 ∧ (dst + o) % z ≤ o ∧ start + z ≤ len then some (start, z) else none
  ((([16, 8, 4, 2].filterMap try_).head?).getD (o, 1))

/-- A piece of a command: its first byte, its length, its addresses. -/
structure Piece where
  start : Nat
  len   : Nat
  src   : DWord
  dst   : DWord

/-- What a piece checks of the capabilities' bounds: whole rows (R256, R258). The transfers of a DSD's own state have no
capability over both ends (R235, R236). -/
def EngCmd.rowsIn (e : EngCmd) (src dst : DWord) : Bool :=
  let srcOk := inBounds e.src src.toNat (if e.kind = .fill then 16 else e.rowLen)
  let dstOk := inBounds e.dst dst.toNat e.rowLen
  match e.kind with
  | .ckpt .. => srcOk
  | .restore => true
  | _ => srcOk && dstOk

/-- The piece that holds a byte of a command, with the source and destination addresses of its first byte (R256, R258). -/
def State.pieceAt (s : State) (j : Nat) (job : EngJob) (b : Nat) : Except PieceStop (Piece × State) :=
  let e := job.cmd
  let r := b / e.rowLen
  let o := b % e.rowLen
  match s.rowIndex j job b r with
  | .error x => .error x
  | .ok (x, s) =>
    let src := rowAddr e.src (if e.kind = .gather then x else r) e.sStep
    let dst := rowAddr e.dst (if e.kind = .scatter then x else r) e.dStep
    if !e.rowsIn src dst then .error (.fail Cause.capbound.code s)
    else
      let phase := if e.kind = .fill then 0 else (dst - src).toNat
      let p := blockAt o dst.toNat phase e.rowLen
      let srcOff := if e.kind = .fill then 0 else p.1
      .ok (⟨r * e.rowLen + p.1, p.2, src + BitVec.ofNat 64 srcOff, dst + BitVec.ofNat 64 p.1⟩, s)

/-- The bytes of a FILL's piece: byte k of the command is pattern byte k mod 16 (R255). -/
def patternBytes (pat start len : Nat) : Nat :=
  (List.range len).foldr (fun i acc => pat / 2 ^ (8 * ((start + i) % 16)) % 256 + 256 * acc) 0

/-- The channel of a destination that a write would deliver to (R97, R255). -/
def State.channelOf (s : State) (e : EngCmd) (loc : Nat) : Option (Nat × Watermark) :=
  if e.wmen then
    match tcmCore loc with
    | some m => ((s.getCore m).wms[e.chan.toNat]?).map fun w => (m, w)
    | none => none
  else none

/-- What a performed piece leaves (R96, R97, R258): its bytes done, the channel advanced, one decrement of its bytes. [log 114 DESIGN CHOICE] -/
def State.delivered (s : State) (j : Nat) (job : EngJob) (p : HeldPiece) : State :=
  let e := job.cmd
  let s := { s with jobs := s.jobs.set j { job with held := job.held.erase p, done := addRange p.start (p.start + p.len) job.done } }
  let s := match p.loc.bind fun l => (s.channelOf e l).map fun c => (l, c) with
    | some (l, m, w) => s.modCore m fun c =>
      { c with wms := c.wms.setIfInBounds e.chan.toNat (w.deliver (l - tcmBase m) p.len) }
    | none => s
  if e.cen then { s with decs := s.decs ++ [⟨e.ccore.toNat, e.cctr.toNat, p.len, e.ltag⟩] } else s

/-- A store that an agent other than a core makes for a partition performs (R20, R194). -/
def State.agentStore (s : State) (p : Option Nat) (loc n v : Nat) (poison : Bool) : State :=
  { s with mem := s.mem.store loc n v poison false }.written p loc

/-- A piece read, its destination checked (R94, R258), or why it is not; its write follows in a step of its own. A remote end answers from
outside the module. [log 58 DEDUCED] -/
def State.readPiece (s : State) (j : Nat) (job : EngJob) (b : Nat) : Except PieceStop State :=
  match s.pieceAt j job b with
  | .error x => .error x
  | .ok (p, s) =>
    let e := job.cmd
    let far := e.remote.isSome && e.remote != some s.modnum
    let answer := Config.remotePiece s.tick
    let holding (s : State) (v : Nat) (poison : Bool) (loc : Option Nat) : State :=
      { s with jobs := s.jobs.set j { job with held := job.held ++ [⟨p.start, p.len, v, poison, loc⟩] } }
    let source : Except PieceStop (Nat × Bool × State) :=
      if far && e.kind == .gather then
        if !isGlobal p.src.toNat then .error (.fail Cause.nomap.code s)
        else if answer.1 = 0 then .ok (answer.2.1 % 2 ^ (8 * p.len), answer.2.2, s) else .error (.fail answer.1 s)
      else
        match s.engReach j job b p.src.toNat (capRtag e.src) needLd with
        | .error x => .error x
        | .ok (loc, s) =>
          if e.kind = .fill then .ok (patternBytes (s.mem.read loc 16) p.start p.len, s.mem.anyPoison loc 16, s)
          else .ok (s.mem.read loc p.len, s.mem.anyPoison loc p.len, s.mscTouch (some e.part) loc false)
    match source with
    | .error x => .error x
    | .ok (v, poison, s) =>
      if far && e.kind == .scatter then
        if !isGlobal p.dst.toNat then .error (.fail Cause.nomap.code s)
        else if answer.1 = 0 then .ok (holding s v poison none) else .error (.fail answer.1 s)
      else
        match s.engReach j job b p.dst.toNat (capRtag e.dst) needSt with
        | .error x => .error x
        | .ok (loc, s) => .ok (holding s v poison (some loc))

/-- Whether the streamer holds back the write of a piece (R97). -/
def State.holdsBack (s : State) (e : EngCmd) (p : HeldPiece) : Bool :=
  match p.loc.bind fun l => (s.channelOf e l).map fun c => (l, c) with
  | some (l, m, w) => w.beyond (l - tcmBase m) p.len
  | none => false

/-- A piece in flight written (R94, R258). -/
def State.writePiece (s : State) (j : Nat) (job : EngJob) (p : HeldPiece) : State :=
  let s := match p.loc with
    | some l => s.agentStore (some job.cmd.part) l p.len p.value p.poison
    | none => s
  s.delivered j job p

/-! ### The end of a command -/

/-- The watermark channel of a failed command stops (R99). [log 59 DEDUCED] -/
def State.stopChannel (s : State) (e : EngCmd) : State :=
  if e.wmen then
    let m := match rangeOf (capAddr e.dst).toNat with
      | some (.tcm m _, _) => some m
      | some (.ownTcm _, _) => some e.core
      | _ => none
    match m with
    | some m => s.modCore m fun c =>
      { c with wms := c.wms.setIfInBounds e.chan.toNat { c.wms[e.chan.toNat]?.getD Watermark.zero with stopped := true } }
    | none => s
  else s

/-- A finished CKPT makes its slot valid: the tag, then the bit (R267). -/
def State.ckptDone (s : State) (e : EngCmd) : State :=
  match e.kind with
  | .ckpt dsd slot pos =>
    let s := s.agentStore (some e.part) (dsd + 128 + 2 * slot) 2 pos.toNat false
    s.agentStore (some e.part) (dsd + 72) 8 (BitVec.ofNat 64 (s.mem.read (dsd + 72) 8) ||| (1 <<< slot)).toNat false
  | _ => s

/-- A command closed (R119, R258): its bytes are charged, a failure is reported to its launch. -/
def State.closeJob (s : State) (j : Nat) (cause : Option Nat) : State :=
  match s.jobs[j]? with
  | none => s
  | some job =>
    let e := job.cmd
    let s := { s with jobs := s.jobs.set j { job with failed := cause, finished := true } }
    let s := s.settle (some e.part) e.chain.toNat ((rangeSum job.done + 63) / 64 * e.eng64.toNat)
    match cause with
    | none => s.ckptDone e
    | some c => (s.stopChannel e).report (some e.core) (some e.part) e.ltag repEngfault c

/-- The mailbox doubleword (R256). -/
def mailboxWord (delivered : Nat) (cause : Option Nat) : DWord :=
  BitVec.ofNat 64 (min delivered (2 ^ 32 - 1) * 2 ^ 32 + (match cause with
    | some c => c % 256 * 2 ^ 8 + 2
    | none => 1))

/-- The finish or failure of a command: the mailbox last, checked like a piece (R258). [log 60 DEDUCED] -/
def State.endJob (s : State) (j : Nat) (job : EngJob) (cause : Option Nat) : State :=
  let e := job.cmd
  match e.mbox with
  | none => s.closeJob j cause
  | some a =>
    if !inBounds e.desc a 8 then s.closeJob j (some Cause.capbound.code)
    else if a % 8 ≠ 0 then s.closeJob j (some Cause.align.code)
    else
      match s.engReach j job e.total a (capRtag e.desc) needSt with
      | .ok (loc, s) => (s.agentStore (some e.part) loc 8 (mailboxWord (rangeSum job.done) cause).toNat false).closeJob j cause
      | .error (.fail c s) => s.closeJob j (some c)
      | .error (.aside m) => { s with jobs := s.jobs.set j { job with failed := cause } }.pageMiss m
      | .error (.scrub f) => { s with jobs := s.jobs.set j { job with failed := cause } }.demanded f
      | .error .wait => { s with jobs := s.jobs.set j { job with failed := cause } }

/-- Whether a piece is set aside for a page request (R258, R325). -/
def State.setAside (s : State) (j : Nat) (job : EngJob) (piece : Nat) : Bool :=
  (s.part job.cmd.part).reqs.any fun r => r.jobs.contains (j, piece)

/-- Whether all the bytes of a command have been delivered. -/
def EngJob.whole (job : EngJob) : Bool := decide (job.cmd.total ≤ rangeSum job.done)

/-- The pieces of a command that are in flight perform (R113, R258). -/
def State.piecesLand (s : State) (j : Nat) : State :=
  match s.jobs[j]? with
  | none => s
  | some job => job.held.foldl (fun s p => match s.jobs[j]? with
      | some x => s.writePiece j x p
      | none => s) s

/-- Whether command `j` may begin: every earlier one from its core to its streamer has (R94). -/
def State.mayBegin (s : State) (j : Nat) (job : EngJob) : Bool :=
  job.begun || (s.jobs.take j).all fun k => k.begun || k.finished || k.streamer != job.streamer || k.cmd.core != job.cmd.core

/-- Command `j` finishes once nothing of it is in flight: when all its bytes are delivered, or when it has failed (R258). -/
def State.jobOn (s : State) (j : Nat) : State :=
  match s.jobs[j]? with
  | none => s
  | some job =>
    if job.held.isEmpty && (job.failed.isSome || job.whole) && !s.setAside j job job.cmd.total then s.endJob j job job.failed else s

/-- STREAMER_PIECE: command `j` reads the piece that holds byte `b`, or writes it where it has been read; when nothing is left, or when it
has failed and nothing is in flight, it finishes (R94, R258). [log 58 DEDUCED] -/
def State.streamerPiece (s : State) (j b : Nat) : State :=
  match s.jobs[j]? with
  | none => s
  | some job =>
    if job.finished || !s.mayBegin j job then s
    else
      let job := { job with begun := true }
      let s := { s with jobs := s.jobs.set j job }
      match job.held.find? fun p => decide (p.start ≤ b) && decide (b < p.start + p.len) with
      | some p => if s.holdsBack job.cmd p then s else (s.writePiece j job p).jobOn j
      | none =>
        if job.failed.isSome ∨ job.whole then s.jobOn j
        else if job.cmd.total ≤ b ∨ inRanges b job.done ∨ s.setAside j job b then s
        else
          match s.readPiece j job b with
          | .ok s => s
          | .error (.fail c s) => { s with jobs := s.jobs.set j { job with failed := some c } }.jobOn j
          | .error (.aside m) => s.pageMiss m
          | .error (.scrub f) => s.demanded f
          | .error .wait => s

def execStreamerPiece (job byte : Nat) (s : State) : Out := .next (s.streamerPiece job byte)

end Sys2Proof.Machine
end

