-- ==== Sys2Proof/Machine/Agents.lean ====
section
/-! DEFINITION. The other agents of the memory system: stores that leave and perform (R67, R80, R88), directory slices (R17 to
R19), SC windows (R84), pattern walkers (R111), unpicks and book flushes (R112 to R114), RREADs between modules (R222) and
host accesses (R20, R91, R199). -/

namespace Sys2Proof.Machine

/-- Flight `i` performs, after the stores of its core that it must follow (R67, R90). [log 40 DESIGN CHOICE] -/
def State.flightLands (s : State) (i : Nat) : State :=
  s.landAt fun k _ => k == i

/-- STORE_BUFFER_DRAIN (R80, R88). -/
def State.drainStep (s : State) (what : Drain) : State :=
  match what with
  | .leave n => s.leave n
  | .perform i => s.flightLands i

/-- REMOTE_WORD_ACCESS: a holder serves a store that was forwarded to its line (R18). -/
def State.remoteWord (s : State) (i : Nat) : State :=
  match s.flight[i]? with
  | some f => if isMpa f.store.loc && (s.holder (lineOf f.store.loc)).isSome then s.flightLands i else s
  | none => s

/-- DIRECTORY_REQUEST: a slice handles a core's request for a line (R17, R18): without a holder it fills, or is served at the
home; with one it is forwarded. -/
def State.sliceRequest (s : State) (n line : Nat) (fill : Bool) : State :=
  let line := lineOf line
  if (s.homeOf line).isSome then s.touchLine n line fill else s

/-- LINE_EVICTION (R19). [log 43 DEDUCED] -/
def State.evict (s : State) (n line : Nat) : State :=
  if s.holder (lineOf line) = some n then s.release (lineOf line) else s

/-! ### SC operations -/

/-- SC_PRESENT: the operation joins the window that the die's announcement clock stands in (R84). -/
def State.scPresented (s : State) (n : Nat) : State :=
  match (s.getCore n).sc with
  | some op =>
    if op.window.isNone then s.modCore n fun c => { c with sc := some { op with window := some ((s.clock - s.epoch) / 16) } }
    else s
  | none => s

/-- The operations that wait in windows of a die: (window, core), with the cores rising. -/
def State.scWaiting (s : State) (die : Nat) : List (Nat × Nat) :=
  (s.coreNos.filter fun n => dieOfCore n == die).filterMap fun n => match (s.getCore n).sc with
    | some op => if op.result.isNone then op.window.map fun w => (w, n) else none
    | none => none

/-- One SC operation applied by the agent that serves its location (R84, R63). -/
def State.scOne (s : State) (n : Nat) : State :=
  match (s.getCore n).sc with
  | none => s
  | some op =>
    let old := BitVec.ofNat 64 (s.mem.read op.loc 8)
    let bad := s.mem.poisoned op.loc
    let store (s : State) (v : DWord) (p : Bool) : State :=
      { s with mem := s.mem.store op.loc 8 v.toNat p false }.written (s.partOf n) op.loc
    let s := match op.fn with
      | 0 => s
      | 1 => store s op.val op.poison
      | 2 => store s op.val (bad || op.poison)
      | _ => store s (old + op.val) (bad || op.poison)
    let p := if op.fn = 0 then bad else bad || op.poison
    s.modCore n fun c => { c with sc := some { op with result := some (Val.ofDWord old p) } }

/-- SC_APPLY: the oldest window's operations, in core order, at cycle 16 (w + 8) (R84). -/
def State.scApplied (s : State) (die w : Nat) : State :=
  let l := s.scWaiting die
  if l.any (fun x => x.1 == w) && l.all fun x => decide (w ≤ x.1) then
    (l.filter fun x => x.1 == w).foldl (fun s x => s.scOne x.2) { s with clock := max s.clock (s.epoch + 16 * (w + 8)) }
  else s

/-! ### Walks -/

/-- A need from its four bits, LD ST LDC STC from bit 3 down. -/
def needOf (b : BitVec 4) : Need := ⟨b.getLsbD 3, b.getLsbD 2, b.getLsbD 1, b.getLsbD 0⟩

/-- The access through the capability in a register that an instruction makes on the core in focus (R192), where neither that register
nor its data register is bound. -/
def State.accessOf (s : State) (i : Instr) : Option Acc :=
  let c := s.core
  let on (a : Reg) (off : DWord) (n : Nat) (need : Need) (window : Bool) : Option Acc :=
    if c.bound a then none else some { plainAcc (c.reg a) a ((c.reg a).low + off) n need with window := window }
  let load (a : Reg) (sz : BitVec 3) (imm : BitVec 12) : Option Acc :=
    on a (imm.signExtend 64) (szBytes sz) ⟨true, false, sz == 7 && (c.reg a).tag && (c.reg a).bits.getLsbD 125, false⟩ true
  let store (b a : Reg) (sz : BitVec 3) (imm : BitVec 12) : Option Acc :=
    let moves := sz == 7 && (c.reg b).tag
    if c.bound b then none
    else (on a (imm.signExtend 64) (szBytes sz) ⟨false, true, false, moves⟩ true).map fun x =>
      { x with noGlob := if moves && !capGlobal (c.reg b).bits then some b else none }
  let atomic (a : Reg) (dw : Bool) : Option Acc := on a 0 (if dw then 8 else 4) needBoth false
  let ordered (a : Reg) : Option Acc := (on a 0 8 needBoth false).map fun x => { x with local_ := true }
  match i with
  | .ld _ a sz imm => load a sz imm
  | .ldna _ a sz imm => load a sz imm
  | .cLdd _ off => load 10 3 (off.setWidth 12 * 8)
  | .st b a sz imm => store b a sz imm
  | .stna b a sz imm => store b a sz imm
  | .cStd x off => store x 10 3 (off.setWidth 12 * 8)
  | .amoadd _ a _ _ _ dw => atomic a dw
  | .amoand _ a _ _ _ dw => atomic a dw
  | .amoor _ a _ _ _ dw => atomic a dw
  | .amoxor _ a _ _ _ dw => atomic a dw
  | .amomin _ a _ _ _ dw => atomic a dw
  | .amomax _ a _ _ _ dw => atomic a dw
  | .amominu _ a _ _ _ dw => atomic a dw
  | .amomaxu _ a _ _ _ dw => atomic a dw
  | .amoswp _ a _ _ _ dw => atomic a dw
  | .amocas _ a _ _ _ dw => atomic a dw
  | .scld _ a => ordered a
  | .scst a _ => ordered a
  | .scswp _ a _ => ordered a
  | .scadd _ a _ => ordered a
  | .sendd a b =>
    let n := hdrLen (c.reg a).low
    if n = 0 then none else (on b 0 (8 * n) needLd true).map fun x => { x with align := some 8 }
  | .sendk _ b => (on b 0 64 needLd true).map fun x => { x with align := some 16 }
  | .ctrset _ a => (on a 0 40 needLd true).map fun x => { x with align := some 8 }
  | .clfl a => on a 0 1 needLd true
  | _ => none

/-- Steps 0 to 6 of an access passed: what precedes its fitting check (R192). -/
def State.reachesFitting (s : State) (a : Acc) : Bool :=
  match (do accCap a; accAlign a : Ex Unit) s with
  | .ok (_, t) => (accRange a t).isSome
  | .error _ => false

/-- Whether an instruction waits on the core in focus for a walk over a region tag with a need: an access that has come as far as its
fitting check, or FIT, which needs nothing (R111, R192, R229). -/
def State.awaitsWalk (s : State) (region : Nat) (need : Need) (i : Instr) : Bool :=
  match i with
  | .fit _ a => !s.core.bound a && (s.core.reg a).tag && !(s.core.reg a).poison && capRtag (s.core.reg a).bits == region &&
      need == ⟨false, false, false, false⟩
  | i => match s.accessOf i with
    | some a => capRtag a.cap.bits == region && a.need == need && s.reachesFitting a
    | none => false

/-- FITTING_WALK: a pattern walker ends a walk for the access or the FIT that a core issues next (R111): its result is installed where
it passes. A walk that ends otherwise is made with the access that it fails. -/
def State.fittingWalked (s : State) (n region : Nat) (need : Need) : State :=
  let f := s.focus
  let t := s.focusOn n
  let c := t.core
  if c.task.isNone || c.km || (fitFind c.handle region c.fit).isSome || !t.issuesNext (t.awaitsWalk region need) then s
  else match t.fitting region need with
    | .ok t => t.focusOn f
    | .error _ => s

/-! ### Unpicks and book flushes -/

/-- UNPICK_PRESENT: at most 64 are outstanding beyond their presentation (R113). -/
def State.unpickPresented (s : State) (i : Nat) : State :=
  if (s.unpicks.countP fun u => u.presented) < 64 then
    { s with unpicks := s.unpicks.modify i fun u => { u with presented := true } }
  else s

/-- Whether a chain of a partition contains a principal. -/
def State.chainHas (s : State) (p h q : Nat) : Bool :=
  match s.chain p h with
  | some ls => ls.any fun l => l.1 == q
  | none => false

/-- Fitting entries that an announcement removes (R112). -/
def Unpick.hits (u : Unpick) (e : FitEntry) : Bool :=
  match u.prin with
  | none => true
  | some q => e.prins.contains q

/-- Whether a matrix command has not read all its operands (R113, R247). -/
def MxOp.unread : MxOp → Bool
  | .mma m => decide (m.step ≤ m.ks)
  | .brot _ sent => !sent
  | .spill => false

/-- The commands of a core under a chain that contains a principal cancelled with REASON 6, within fuel (R113, R247). -/
def State.mxUnpick (s : State) (n p q : Nat) : Nat → State
  | 0 => s
  | k + 1 =>
    match (s.getCore n).mxq.findIdx? fun c => c.op.unread && s.chainHas p c.chain.toNat q with
    | none => s
    | some i => (s.mxCancel n i 6 0).mxUnpick n p q k

/-- A partition's rules gone from the pattern cache of a panel (R112). -/
def State.panelBookDropped (s : State) (p k : Nat) : State :=
  { s with patterns := s.patterns.map fun c => if c.1 = k then (c.1, c.2.filter fun b => !(b.part == p)) else c }

/-- A core of the partition receives an announcement (R113 steps 4 and 5). [log 63 DEDUCED] -/
def State.coreReceives (s : State) (u : Unpick) (n : Nat) : State :=
  let s := s.modCore n fun c => { c with fit := c.fit.filter fun e => !u.hits e }
  let s := s.drain n
  match u.prin with
  | none => s.panelBookDropped u.part (panelOf n)
  | some q =>
    let c := s.getCore n
    let s := match c.rread with
      | some w =>
        if w.answer.isNone && s.chainHas u.part c.handle q then
          s.modCore n fun c => { c with rread := some { w with answer := some (.fails Cause.chaindead.code) } }
        else s
      | none => s
    s.mxUnpick n u.part q c.mxq.length

/-- A command that an unpick cuts short ends FAILED; the replies that its pieces wait for are discarded (R113, R264). -/
def State.cutJob (s : State) (j : Nat) : State :=
  let s := { s with jobs := s.jobs.modify j fun x => { x with failed := some Cause.chaindead.code } }
  { s with parts := s.parts.map fun p =>
      (p.1, { p.2 with reqs := p.2.reqs.map fun r => { r with jobs := r.jobs.filter fun x => !(x.1 == j) } }) }

/-- A streamer receives an announcement (R113 steps 4 and 5). -/
def State.streamerReceives (s : State) (u : Unpick) (key : Nat) : State :=
  let es := (alookup key s.strFit).getD []
  let s := { s with strFit := aset key (es.filter fun e => !u.hits e) s.strFit }
  match u.prin with
  | none => s
  | some q =>
    (List.range s.jobs.length).foldl (fun s j => match s.jobs[j]? with
      | some x =>
        if x.streamer == key && !x.finished && x.failed.isNone && x.cmd.part == u.part && s.chainHas u.part x.cmd.chain.toNat q
        then s.cutJob j else s
      | none => s) s

/-- The streamer of a unit of the announcement network. -/
def unitStreamer (n : Nat) : Option Nat := if 2097152 ≤ n then some (n - 2097152) else none

/-- The partition that a streamer serves. -/
def State.streamerPart (s : State) (key : Nat) : Option Nat :=
  if key < 16384 then s.occupant key
  else (alookup ((key - 16384) % 96) (s.die ((key - 16384) / 96)).owner).map BitVec.toNat

/-- UNPICK_RECEIVE (R113). [log 63 DEDUCED] -/
def State.unpickReceived (s : State) (i n : Nat) : State :=
  match s.unpicks[i]? with
  | none => s
  | some u =>
    if !u.presented || u.received.contains n then s
    else
      let s := match unitStreamer n with
        | some key => if s.streamerPart key = some u.part then s.streamerReceives u key else s
        | none => if s.partOf n = some u.part then s.coreReceives u n else s
      { s with unpicks := s.unpicks.modify i fun u => { u with received := setInsert n u.received } }

/-- The units that have something to acknowledge for a partition: its cores and streamers that hold any state. -/
def State.unitsOf (s : State) (p : Nat) : List Nat :=
  (s.coreNos.filter fun n => s.partOf n == some p) ++
    (((s.strFit.map fun x => x.1) ++ (s.jobs.filter fun j => !j.finished).map fun j => j.streamer).filter fun k =>
      s.streamerPart k == some p).map streamerUnit

/-- Another module has acknowledged an unpick of this one (R113). -/
def State.peerAcked (s : State) (i : Nat) (m : BitVec 12) : State :=
  { s with unpicks := s.unpicks.modify i fun u => { u with peers := u.peers.filter fun x => !(x == m) } }

/-- UNPICK_COMPLETE: every acknowledgement is in, those of the peers among them (R113); a book flush has emptied the pattern caches
(R112). -/
def State.unpickCompleted (s : State) (i : Nat) : State :=
  match s.unpicks[i]? with
  | none => s
  | some u =>
    if u.presented && u.peers.isEmpty && (s.unitsOf u.part).all u.received.contains then
      let s := { s with unpicks := s.unpicks.eraseIdx i }
      match u.prin with
      | some _ => s
      | none =>
        let s := s.booksDropped u.part
        if s.unpicks.any fun v => v.part == u.part && v.prin.isNone then s
        else s.modPart u.part fun p => { p with bookflush := false }
    else s

/-- DOMAIN_UNPICK: another module's unpick reaches this one (R113). -/
def State.domainUnpicked (s : State) (p q : Nat) : State := (s.unpickBegin p q false none).2

/-- BOOKFLUSH: a write of 1 starts a book flush (R112, R328). [log 63 DEDUCED, log 81 DEDUCED] -/
def State.bookFlushed (s : State) (p : Nat) : State :=
  let u : Unpick := { id := s.nextId, part := p, prin := none, issuer := none, presented := false, received := [], peers := [] }
  { s with unpicks := s.unpicks ++ [u], nextId := s.nextId + 1 }.modPart p fun q => { q with bookflush := true }

/-! ### RREAD -/

/-- The remote part of another module's RREAD: steps 6 to 9 under the interned chain, with the page request of a translation that
fails (R222, R104, R325); or the state in which it waits for an entry that is being written or for a scrub (R102, R332). [log 46 DEDUCED] -/
def State.rreadAnswer (s : State) (p : Nat) (links : List (Nat × Nat)) (region : Nat) (addr : DWord) (src : BitVec 20)
    (ltag : BitVec 16) : Except State (RReadAnswer × State) :=
  let fails (c : Cause) (s : State) : Except State (RReadAnswer × State) := .ok (.fails c.code, s)
  if links.isEmpty then fails .chaindead s
  else
    match s.intern p links with
    | (.claimed, _) => .error s
    | (.held f, _) => .error (s.demanded f)
    | (.found h, s) =>
      if !isGlobal addr.toNat then fails .nomap s
      else
        match s.fitWalk noPanel p h region with
        | (.held f, s) => .error (s.demanded f)
        | (.dead, s) => fails .chaindead s
        | (.undecided, s) => fails .nofit s
        | (.rule perms _, s) =>
          if !needLd.within perms then fails .nofit s
          else
            let off := addr.toNat - 2 ^ 48
            match s.resolve p off true false with
            | .error x =>
              fails .xlat (s.pageMiss { part := p, off := off, wr := false, fault := x, src := src.toNat, ltag := ltag,
                                        chain := BitVec.ofNat 16 h, asker := .remote })
            | .ok e =>
              let m := e.frame + off % 2 ^ 16
              if s.holds e then .error (s.demanded e.frame)
              else if (s.homeOf m).isNone then fails .nomap s
              else .ok (.value (BitVec.ofNat 64 (s.mem.read m 8)) (s.mem.anyPoison m 8), s)
    | _ => fails .chaindead s

/-- The causes with which the remote part of an RREAD fails, those of steps 6 to 9 of R192 (R222). -/
def remoteCauses : List Nat := [Cause.nofit, .chaindead, .xlat, .nomap].map Cause.code

/-- An answer that a module gives to an RREAD (R60, R222). -/
def soundAnswer (a : RReadAnswer) : Bool :=
  match a with
  | .fails c => remoteCauses.contains c
  | .value .. => true

/-- RREAD_SERVE (R222): another module's answer reaches a waiting core, or this module answers another's request. [log 46 DEDUCED] -/
def State.rreadServed (s : State) (side : RReadSide) : State :=
  match side with
  | .answer n a =>
    match (s.getCore n).rread with
    | some w =>
      if w.answer.isNone && s.reach.contains w.mod && soundAnswer a then s.modCore n fun c => { c with rread := some { w with answer := some a } }
      else s
    | none => s
  | .request p links region addr src ltag =>
    match s.rreadAnswer p links region addr src ltag with
    | .ok r => { r.2 with sentOut := r.2.sentOut ++ [r.1] }
    | .error s => s

/-! ### Loads that perform early -/

/-- A load of core `n` performs ahead of its instruction, before accesses that it follows in program order (R88): of at most 16 bytes at
address `ea` of the core's map (R66), in a core that runs and whose streams no SC operation and no UNPICK holds back (R84, R230), of no
byte that a store of the core in its buffer or in flight touches (R70), past steps 6, 8 and 9 of R192 and the waits behind them. The
instruction makes the whole check when it takes what was read. [log 40 DESIGN CHOICE] -/
def State.earlyLoaded (s : State) (n : Nat) (st : Stream) (ea : DWord) (k : Nat) (alloc : Bool) : State :=
  let f := s.focus
  let t := s.focusOn n
  let c := t.core
  let acc := plainAcc Val.zero 0 ea k needLd
  let runs := match st with
    | .control => true
    | .body => c.rep.any fun r => !r.capturing
  if (c.task.isNone && !c.km) || c.sc.isSome || c.unpick.isSome || !runs || k = 0 || 16 < ea.toNat % 16 + k then s
  else match accRange acc t with
    | none => s
    | some (r, place) => match accWhere acc r place t with
      | .ok (.runs [(b, _)], t) =>
        if (t.core.stores.any fun e => e.touches b k) || t.flight.any fun g => g.core == n && g.store.touches b k then s
        else
          let t := t.touchLine n b alloc
          let e : Early := ⟨st, b, k, t.mem.read b k, t.mem.anyPoison b k, k == 16 && t.mem.tagged b, alloc, t.tick⟩
          { t with core := { t.core with early := c.early ++ [e], marked := c.marked } }.focusOn f
      | _ => s

/-- BLOAD reads an operand element (R249): the one that a stream of core `n` issues next, past its checks, with its latch free; the
elements that it has read keep the value and the table of that moment (R77, R129). [log 120 DESIGN CHOICE] -/
def State.latchRead (s : State) (n : Nat) (st : Stream) (x : Nat) : State :=
  let f := s.focus
  let t := s.focusOn n
  let c := t.core
  let next := match st with
    | .control => t.controlInsn
    | .body => c.rep.bind Rep.bodyInsn
  let runs := match c.rep with
    | some r => !r.capturing
    | none => st == .control
  match next with
  | some (.bload wa a ks) =>
    let y := (c.reg a).low
    let r0 := (y.extractLsb' 0 16).toNat
    let c0 := (y.extractLsb' 16 16).toNat
    let k := 8 * (ks.toNat + 1)
    let w := c.window wa
    let block := blockBytes w r0 k c0 8
    let got := match c.loading with
      | some g => if g.stream = st ∧ g.win = w ∧ g.row = r0 ∧ g.col = c0 ∧ g.k = k then g.got else []
      | none => []
    let reads := operandFmt (winFmt w) && decide (r0 + k - 1 < winRows w) && decide (c0 + 7 < winCols w) &&
      block.all (fun e => decide (e.1 + e.2 ≤ 0x8000)) && (c.blockedBy block).isNone
    if c.out || (c.task.isNone && !c.km) || !runs || c.bound a || (c.reg a).poison || c.mxFault.isSome || 4 ≤ c.mxq.length ||
        !c.latchFree || !reads || 8 * k ≤ x || (alookup x got).isSome then s
    else
      let t := t.forEngine n
      let g : LatchRead := { stream := st, win := w, row := r0, col := c0, k := k, got := got ++ [(x, t.latchElem n w r0 c0 x)] }
      { t with core := { t.core with loading := some g } }.focusOn f
  | _ => s

/-! ### The host -/

/-- What a host access leaves at its location (R91, R199), given the old value; none where it only reads. -/
def hostWrites (op : HostOp) (old : Nat) : Option Nat :=
  match op with
  | .read => none
  | .write v => some v.toNat
  | .swap v => some v.toNat
  | .fetchAdd v => some (old + v.toNat)
  | .fetchOr v => some (old ||| v.toNat)

/-- Whether a host access has a width it may have: atomics have 4 or 8 bytes (R198, R199). [log 45 DEDUCED] -/
def hostWidthOk (op : HostOp) (n : Nat) : Bool :=
  match op with
  | .read => true
  | .write _ => true
  | _ => n == 4 || n == 8

/-- HOST_ACCESS: a host read, write or atomic at a module physical address, served by the line's holder or at the home (R20,
R91, R199). [log 45 DEDUCED] -/
def State.hostAccessed (s : State) (mpa n : Nat) (op : HostOp) : State :=
  if (s.homeOf mpa).isNone || mpa % n != 0 || !hostWidthOk op n then s
  else
    let old := s.mem.read mpa n
    let poison := s.mem.anyPoison mpa n
    let s := { s with hostIn := match op with
      | .write _ => s.hostIn
      | _ => some ⟨BitVec.ofNat 128 old, false, poison⟩ }
    match hostWrites op old with
    | none => s
    | some v =>
      let keeps := match op with
        | .write _ => false
        | _ => poison
      { s with mem := s.mem.store mpa n (v % 2 ^ (8 * n)) keeps false }.written none mpa

def execStoreBufferDrain (what : Drain) (s : State) : Out := .next (s.drainStep what)
def execDirectoryRequest (core line : Nat) (fill : Bool) (s : State) : Out := .next (s.sliceRequest core line fill)
def execRemoteWordAccess (i : Nat) (s : State) : Out := .next (s.remoteWord i)
def execLineEviction (core line : Nat) (s : State) : Out := .next (s.evict core line)
def execScPresent (core : Nat) (s : State) : Out := .next (s.scPresented core)
def execScApply (die window : Nat) (s : State) : Out := .next (s.scApplied die window)
def execFittingWalk (core region : Nat) (need : BitVec 4) (s : State) : Out := .next (s.fittingWalked core region (needOf need))
def execUnpickPresent (i : Nat) (s : State) : Out := .next (s.unpickPresented i)
def execUnpickReceive (i core : Nat) (s : State) : Out := .next (s.unpickReceived i core)
def execUnpickComplete (i : Nat) (s : State) : Out := .next (s.unpickCompleted i)
def execDomainUnpick (part p : Nat) (s : State) : Out := .next (s.domainUnpicked part p)
def execBookflush (part : Nat) (s : State) : Out := .next (s.bookFlushed part)
def execRreadServe (side : RReadSide) (s : State) : Out := .next (s.rreadServed side)
def execHostAccess (_ mpa bytes : Nat) (op : HostOp) (s : State) : Out := .next (s.hostAccessed mpa bytes op)

end Sys2Proof.Machine
end

