-- ==== Sys2Proof/Machine/Alu.lean ====
section
/-! DEFINITION. The integer instructions: register forms (R174, R175), immediate forms (R176 to R178) and their 16-bit
forms (R190). -/

namespace Sys2Proof.Machine

/-- One bit as a doubleword. -/
def boolWord (b : Bool) : DWord := if b then 1 else 0

/-- The shift amount of R174: b mod 64. -/
def shiftOf (b : DWord) : Nat := b.toNat % 64

/-- The high doubleword of a product of integers (R174). -/
def highWord (x : Int) : DWord := BitVec.ofInt 64 (x / 2 ^ 64)

/-- DIV and DIVU (R175). -/
def divWord (a b : DWord) : DWord := if b = 0 then BitVec.allOnes 64 else a.sdiv b
def divuWord (a b : DWord) : DWord := if b = 0 then BitVec.allOnes 64 else a / b

/-- Leading zero bits (R174). -/
def clzWord (a : DWord) : DWord := if a = 0 then 64 else BitVec.ofNat 64 (63 - Nat.log2 a.toNat)

/-- Trailing zero bits of a number, up to a bound. -/
def trailing : Nat → Nat → Nat
  | 0, _ => 0
  | k + 1, n => if n % 2 = 1 then 0 else trailing k (n / 2) + 1

/-- Trailing zero bits (R174). -/
def ctzWord (a : DWord) : DWord := BitVec.ofNat 64 (trailing 64 a.toNat)

/-- One bits (R174). -/
def popcWord (a : DWord) : DWord := BitVec.ofNat 64 ((List.range 64).countP a.getLsbD)

/-- The lesser or greater of signed readings (R174). -/
def minWord (a b : DWord) : DWord := if a.slt b then a else b
def maxWord (a b : DWord) : DWord := if a.slt b then b else a
/-- The lesser or greater of unsigned readings (R174). -/
def minuWord (a b : DWord) : DWord := if a.ult b then a else b
def maxuWord (a b : DWord) : DWord := if a.ult b then b else a

/-- A data operation of two sources (R172, R174). -/
def alu2 (op : DWord → DWord → DWord) (d a b : Reg) : Ex Flow := do
  let x ← readReg a
  let y ← readReg b
  writeData d (op x.low y.low) (x.poison || y.poison)
  pure .seq

/-- A data operation of one source (R172, R174, R176, R177). -/
def alu1 (op : DWord → DWord) (d a : Reg) : Ex Flow := do
  let x ← readReg a
  writeData d (op x.low) x.poison
  pure .seq

/-- SEL (R173, R174). -/
def selEx (d a b : Reg) : Ex Flow := do
  let c ← readDest d
  let x ← readReg a
  let y ← readReg b
  let v := if c.low = 0 then y else x
  writeData d v.low (c.poison || v.poison)
  pure .seq

/-- LI (R178) and C.LI: a clean constant. -/
def constEx (d : Reg) (v : DWord) : Ex Flow := do
  writeData d v false
  pure .seq

/-- LIS (R173, R178). -/
def lisEx (d : Reg) (imm : BitVec 20) : Ex Flow := do
  let x ← readDest d
  writeData d ((x.low <<< 20) ||| imm.setWidth 64) x.poison
  pure .seq

def execAdd (d a b : Reg) (s : State) : Out := finish 2 (alu2 (· + ·) d a b) s
def execSub (d a b : Reg) (s : State) : Out := finish 2 (alu2 (· - ·) d a b) s
def execAnd (d a b : Reg) (s : State) : Out := finish 2 (alu2 (· &&& ·) d a b) s
def execOr (d a b : Reg) (s : State) : Out := finish 2 (alu2 (· ||| ·) d a b) s
def execXor (d a b : Reg) (s : State) : Out := finish 2 (alu2 (· ^^^ ·) d a b) s
def execAndn (d a b : Reg) (s : State) : Out := finish 2 (alu2 (fun x y => x &&& ~~~y) d a b) s
def execSll (d a b : Reg) (s : State) : Out := finish 2 (alu2 (fun x y => x <<< shiftOf y) d a b) s
def execSrl (d a b : Reg) (s : State) : Out := finish 2 (alu2 (fun x y => x >>> shiftOf y) d a b) s
def execSra (d a b : Reg) (s : State) : Out := finish 2 (alu2 (fun x y => x.sshiftRight (shiftOf y)) d a b) s
def execRol (d a b : Reg) (s : State) : Out := finish 2 (alu2 (fun x y => x.rotateLeft (shiftOf y)) d a b) s
def execSlt (d a b : Reg) (s : State) : Out := finish 2 (alu2 (fun x y => boolWord (x.slt y)) d a b) s
def execSltu (d a b : Reg) (s : State) : Out := finish 2 (alu2 (fun x y => boolWord (x.ult y)) d a b) s
def execMin (d a b : Reg) (s : State) : Out := finish 2 (alu2 minWord d a b) s
def execMax (d a b : Reg) (s : State) : Out := finish 2 (alu2 maxWord d a b) s
def execMinu (d a b : Reg) (s : State) : Out := finish 2 (alu2 minuWord d a b) s
def execMaxu (d a b : Reg) (s : State) : Out := finish 2 (alu2 maxuWord d a b) s
def execMul (d a b : Reg) (s : State) : Out := finish 2 (alu2 (· * ·) d a b) s
def execMulh (d a b : Reg) (s : State) : Out := finish 2 (alu2 (fun x y => highWord (x.toInt * y.toInt)) d a b) s
def execMulhu (d a b : Reg) (s : State) : Out :=
  finish 2 (alu2 (fun x y => highWord ((x.toNat : Int) * (y.toNat : Int))) d a b) s
def execDiv (d a b : Reg) (s : State) : Out := finish 2 (alu2 divWord d a b) s
def execDivu (d a b : Reg) (s : State) : Out := finish 2 (alu2 divuWord d a b) s
def execRem (d a b : Reg) (s : State) : Out := finish 2 (alu2 (fun x y => x.srem y) d a b) s
def execRemu (d a b : Reg) (s : State) : Out := finish 2 (alu2 (· % ·) d a b) s
def execClz (d a : Reg) (s : State) : Out := finish 2 (alu1 clzWord d a) s
def execCtz (d a : Reg) (s : State) : Out := finish 2 (alu1 ctzWord d a) s
def execPopc (d a : Reg) (s : State) : Out := finish 2 (alu1 popcWord d a) s
def execSel (d a b : Reg) (s : State) : Out := finish 2 (selEx d a b) s
def execMix (d a : Reg) (s : State) : Out := finish 2 (alu1 mix64 d a) s

def execAddi (d a : Reg) (imm : BitVec 15) (s : State) : Out := finish 2 (alu1 (· + imm.signExtend 64) d a) s
def execAndi (d a : Reg) (imm : BitVec 15) (s : State) : Out := finish 2 (alu1 (· &&& imm.signExtend 64) d a) s
def execOri (d a : Reg) (imm : BitVec 15) (s : State) : Out := finish 2 (alu1 (· ||| imm.signExtend 64) d a) s
def execXori (d a : Reg) (imm : BitVec 15) (s : State) : Out := finish 2 (alu1 (· ^^^ imm.signExtend 64) d a) s
def execSlli (d a : Reg) (sh : BitVec 6) (s : State) : Out := finish 2 (alu1 (· <<< sh.toNat) d a) s
def execSrli (d a : Reg) (sh : BitVec 6) (s : State) : Out := finish 2 (alu1 (· >>> sh.toNat) d a) s
def execSrai (d a : Reg) (sh : BitVec 6) (s : State) : Out := finish 2 (alu1 (·.sshiftRight sh.toNat) d a) s
def execRoli (d a : Reg) (sh : BitVec 6) (s : State) : Out := finish 2 (alu1 (·.rotateLeft sh.toNat) d a) s
def execSlti (d a : Reg) (imm : BitVec 15) (s : State) : Out :=
  finish 2 (alu1 (fun x => boolWord (x.slt (imm.signExtend 64))) d a) s
def execSltiu (d a : Reg) (imm : BitVec 15) (s : State) : Out :=
  finish 2 (alu1 (fun x => boolWord (x.ult (imm.signExtend 64))) d a) s
def execLi (d : Reg) (imm : BitVec 20) (s : State) : Out := finish 2 (constEx d (imm.signExtend 64)) s
def execLis (d : Reg) (imm : BitVec 20) (s : State) : Out := finish 2 (lisEx d imm) s

def execCAddi (x : Reg) (imm : BitVec 6) (s : State) : Out := finish 1 (alu1 (· + imm.signExtend 64) x x) s
def execCLi (x : Reg) (imm : BitVec 6) (s : State) : Out := finish 1 (constEx x (imm.signExtend 64)) s
def execCAdd (x y : Reg) (s : State) : Out := finish 1 (alu2 (· + ·) x x y) s
def execCSub (x y : Reg) (s : State) : Out := finish 1 (alu2 (· - ·) x x y) s
def execCAnd (x y : Reg) (s : State) : Out := finish 1 (alu2 (· &&& ·) x x y) s
def execCSlli (x : Reg) (sh : BitVec 6) (s : State) : Out := finish 1 (alu1 (· <<< sh.toNat) x x) s

end Sys2Proof.Machine
end

