-- ==== Sys2Proof/Machine/Bind.lean ====
section
/-! DEFINITION. Binding registers: SBIND, QBIND, LBIND, UNBIND and BSTAT (R203, R204, R206 to R209). -/

namespace Sys2Proof.Machine

/-- A STRM instruction of the control stream waits while it names a register of the active rotating range (R161, R203). [log 37 DEDUCED] -/
def awaitRange (r : Reg) : Ex Unit := do
  let c ← getC
  match c.stream, c.rep with
  | .control, some p =>
    if p.rotates r then stall else pure ()
  | _, _ => pure ()

/-- The shared checks on D (R203). [log 35 DEDUCED] -/
def needBindable (d : Reg) : Ex Unit := do
  awaitRange d
  let c ← getC
  checkReg (decide (16 ≤ d.toNat)) .bind d
  checkReg (!c.bound d) .bind d
  checkReg (decide (c.binds.length < 4)) .bind d

/-- Binds D. What the register held is not reachable from here on, and it reads zero once it is unbound (R203). [log 35 DEDUCED] -/
def bindReg (d : Reg) (b : Binding) : Ex Flow := do
  modC fun c => { c.setReg d Val.zero with binds := aset d.toNat b c.binds }
  pure .seq

/-- SBIND (R203, R204). [log 35 DEDUCED] -/
def sbindEx (d a b : Reg) : Ex Flow := do
  needBindable d
  awaitRange a
  awaitRange b
  match ← rawRegs [a, b] with
  | [cap, par] => do
    checkReg cap.tag .captag a
    checkReg (capOtype cap.bits == 0) .capseal a
    let w := par.low
    let esz : BitVec 3 := w.extractLsb' 0 3
    let write := w.getLsbD 4
    checkReg (!(write && decide (4 ≤ esz.toNat) && decide (esz.toNat ≤ 6))) .bind d
    bindReg d (.gen cap (w.extractLsb' 32 32) (w.extractLsb' 8 24) write (w.getLsbD 3) esz 0)
  | _ => pure .seq

/-- QBIND (R206). -/
def qbindEx (d : Reg) (q : BitVec 2) (pop : Bool) : Ex Flow := do
  needBindable d
  bindReg d (.queue q pop)

/-- LBIND (R207). -/
def lbindEx (d : Reg) (out fwd : Bool) : Ex Flow := do
  needBindable d
  checkReg (!(out && fwd)) .bind d
  bindReg d (.link out fwd)

/-- UNBIND (R208). -/
def unbindEx (d : Reg) : Ex Flow := do
  awaitRange d
  modC fun c => { c with binds := aerase d.toNat c.binds }
  pure .seq

/-- The bits of BSTAT for g0: which of g16 to g31 are bound (R209). -/
def boundMask (bs : List (Nat × Binding)) : Nat := bs.foldl (fun m b => m + 2 ^ (b.1 - 16)) 0

/-- What BSTAT reports of a binding (R209). -/
def bindWord (s : State) : Binding → DWord
  | .gen _ count _ _ _ _ x => BitVec.ofNat 64 (2 ^ 63 + (count.toNat - x))
  | .queue q _ => BitVec.ofNat 64 (2 ^ 63 + 2 ^ 61 + (s.core.aq q).length)
  | .link out _ =>
    BitVec.ofNat 64 (2 ^ 63 + 2 ^ 62 + (if out then s.core.link else (s.getCore (predecessor s.focus)).link).length)

/-- BSTAT (R209). -/
def bstatEx (d a : Reg) : Ex Flow := do
  awaitRange a
  awaitRange d
  let s ← getS
  let v :=
    if a = 0 then BitVec.ofNat 64 (boundMask s.core.binds)
    else match alookup a.toNat s.core.binds with
      | some b => bindWord s b
      | none => 0
  writeData d v false
  pure .seq

def execSbind (d a b : Reg) (s : State) : Out := finish 2 (sbindEx d a b) s
def execQbind (d : Reg) (q : BitVec 2) (pop : Bool) (s : State) : Out := finish 2 (qbindEx d q pop) s
def execLbind (d : Reg) (out fwd : Bool) (s : State) : Out := finish 2 (lbindEx d out fwd) s
def execUnbind (d : Reg) (s : State) : Out := finish 2 (unbindEx d) s
def execBstat (d a : Reg) (s : State) : Out := finish 2 (bstatEx d a) s

end Sys2Proof.Machine
end

