-- ==== Sys2Proof/Machine/Cap.lean ====
section
/-! DEFINITION. The capability instructions (R182 to R189). -/

namespace Sys2Proof.Machine

/-- A quadword with bits [lo + n − 1 : lo] replaced. -/
def putBits (c : QWord) (lo n : Nat) (v : Nat) : QWord :=
  (c &&& ~~~(BitVec.ofNat 128 ((2 ^ n - 1) * 2 ^ lo))) ||| BitVec.ofNat 128 (v % 2 ^ n * 2 ^ lo)

/-- A capability with its address replaced. -/
def capAt (c : QWord) (a : DWord) : QWord := putBits c 0 64 a.toNat

/-- Whether an address is representable for a capability (R182). -/
def representable (c : QWord) (a : DWord) : Bool := capBounds (capAt c a) == capBounds c

/-- perms of a capability (R12). -/
def capPermByte (c : QWord) : Nat := (c.extractLsb' 120 8).toNat

/-- An inspecting form (R184). -/
def inspectEx (f : Val → DWord) (d a : Reg) : Ex Flow := do
  let x ← readReg a
  writeData d (f x) x.poison
  pure .seq

/-- CGETBASE and CGETLEN (R184). -/
def baseOf (v : Val) : DWord := BitVec.ofInt 64 (capBounds v.bits).1
def lenOf (v : Val) : DWord :=
  let b := capBounds v.bits
  if 2 ^ 64 ≤ b.2 - b.1 then BitVec.allOnes 64 else BitVec.ofInt 64 (b.2 - b.1)

/-- A tagged operand must be unsealed (R183). -/
def needUnsealed (v : Val) (r : Reg) : Ex Unit := checkReg (!v.tag || capOtype v.bits == 0) .capseal r

/-- A capability moved to an address (R185). -/
def moveCap (v : Val) (a : DWord) (poison : Bool) : Val := ⟨capAt v.bits a, v.tag && representable v.bits a, poison⟩

/-- CSETADDR and CINC (R185). -/
def moveEx (f : DWord → DWord → DWord) (d a b : Reg) : Ex Flow := do
  let x ← readReg a
  let y ← readReg b
  needUnsealed x a
  writeReg d (moveCap x (f x.low y.low) (x.poison || y.poison))
  pure .seq

/-- CINCI (R185). -/
def cinciEx (d a : Reg) (imm : BitVec 15) : Ex Flow := do
  let x ← readReg a
  needUnsealed x a
  writeReg d (moveCap x (x.low + imm.signExtend 64) x.poison)
  pure .seq

/-- The quotient rounded up. -/
def ceilDiv (x m : Nat) : Nat := (x + (m - 1)) / m

/-- The least exponent from `e` up whose bounds fit in 16 bits (R186). -/
def leastExp (a n : Nat) : Nat → Nat → Nat
  | 0, e => e
  | k + 1, e => if ceilDiv (a + n) (2 ^ e) - a / 2 ^ e ≤ 0xFFFF then e else leastExp a n k (e + 1)

/-- CSETBND and CSETBI (R186): the bounds narrowed to [a, a + n), or none where they pass the old ones. -/
def narrowed (c : QWord) (n : Nat) : Option QWord :=
  let a := (capAddr c).toNat
  let old := capBounds c
  let e := leastExp a n 64 0
  let lo := a / 2 ^ e
  let hi := ceilDiv (a + n) (2 ^ e)
  if (lo * 2 ^ e : Nat) < old.1 ∨ old.2 < (hi * 2 ^ e : Nat) then none
  else some (putBits (putBits (putBits c 98 6 e) 80 16 (lo % 65536)) 64 16 (hi - lo))

/-- The checks and the result of CSETBND and CSETBI (R183, R186). -/
def boundEx (d a : Reg) (x : Val) (n : Nat) (poison : Bool) : Ex Flow := do
  checkReg x.tag .captag a
  checkReg (capOtype x.bits == 0) .capseal a
  match narrowed x.bits n with
  | none => raise .capbound x.low
  | some c => do
    writeReg d ⟨c, true, poison⟩
    pure .seq

/-- CSETBND (R186). -/
def csetbndEx (d a b : Reg) : Ex Flow := do
  let x ← readReg a
  let y ← readReg b
  boundEx d a x y.low.toNat (x.poison || y.poison)

/-- CSETBI (R186): the length is unsigned. -/
def csetbiEx (d a : Reg) (len : BitVec 15) : Ex Flow := do
  let x ← readReg a
  boundEx d a x len.toNat x.poison

/-- CANDPERM (R187). -/
def candpermEx (d a b : Reg) : Ex Flow := do
  let x ← readReg a
  let y ← readReg b
  needUnsealed x a
  let c ← getC
  let v := putBits x.bits 120 8 (capPermByte x.bits &&& (y.low.extractLsb' 0 8).toNat)
  let v := if c.km && y.low.getLsbD 63 then putBits v 104 10 (y.low.extractLsb' 8 10).toNat else v
  writeReg d ⟨v, x.tag, x.poison || y.poison⟩
  pure .seq

/-- An authority for CSEAL or CUNSEAL: tagged, unsealed, with the permission (R183). [log 47 DEDUCED] -/
def needAuthority (y : Val) (b : Reg) (perm : QWord → Bool) : Ex Unit := do
  checkReg y.tag .captag b
  checkReg (capOtype y.bits == 0) .capseal b
  checkReg (perm y.bits) .capperm b

/-- CSEAL (R183, R188). -/
def csealEx (d a b : Reg) : Ex Flow := do
  let x ← readReg a
  let y ← readReg b
  checkReg x.tag .captag a
  checkReg (capOtype x.bits == 0) .capseal a
  needAuthority y b capSeal
  let t := y.low.toNat
  check (decide (1 ≤ t) && decide (t ≤ 63) && inBounds y.bits t 1) .capbound y.low
  writeReg d ⟨putBits x.bits 114 6 t, x.tag, x.poison || y.poison⟩
  pure .seq

/-- CUNSEAL (R183, R188). [log 47 DEDUCED] -/
def cunsealEx (d a b : Reg) : Ex Flow := do
  let x ← readReg a
  let y ← readReg b
  checkReg x.tag .captag a
  checkReg (capOtype x.bits != 0) .capseal a
  needAuthority y b capUnseal
  let t := y.low.toNat
  check (t == capOtype x.bits && inBounds y.bits t 1) .capbound y.low
  writeReg d ⟨putBits x.bits 114 6 0, x.tag, x.poison || y.poison⟩
  pure .seq

/-- CMOV and C.MOV (R189): all bits, the tag and the poison. -/
def cmovEx (d a : Reg) : Ex Flow := do
  let x ← readReg a
  writeReg d x
  pure .seq

/-- Whether B is a subset of A (R189). -/
def subCap (x y : Val) : Bool :=
  let p := capBounds x.bits
  let q := capBounds y.bits
  x.tag && y.tag && capOtype x.bits == capOtype y.bits && capRtag x.bits == capRtag y.bits &&
    capPermByte y.bits &&& capPermByte x.bits == capPermByte y.bits && decide (p.1 ≤ q.1) && decide (q.2 ≤ p.2)

/-- CTESTSUB (R189). -/
def ctestsubEx (d a b : Reg) : Ex Flow := do
  let x ← readReg a
  let y ← readReg b
  writeData d (boolWord (subCap x y)) (x.poison || y.poison)
  pure .seq

/-- CCLRTAG (R189). -/
def cclrtagEx (d a : Reg) : Ex Flow := do
  let x ← readReg a
  writeReg d { x with tag := false }
  pure .seq

def execCgetbase (d a : Reg) (s : State) : Out := finish 2 (inspectEx baseOf d a) s
def execCgetlen (d a : Reg) (s : State) : Out := finish 2 (inspectEx lenOf d a) s
def execCgetperm (d a : Reg) (s : State) : Out := finish 2 (inspectEx (fun v => BitVec.ofNat 64 (capPermByte v.bits)) d a) s
def execCgettype (d a : Reg) (s : State) : Out := finish 2 (inspectEx (fun v => BitVec.ofNat 64 (capOtype v.bits)) d a) s
def execCgetreg (d a : Reg) (s : State) : Out := finish 2 (inspectEx (fun v => BitVec.ofNat 64 (capRtag v.bits)) d a) s
def execCgettag (d a : Reg) (s : State) : Out := finish 2 (inspectEx (fun v => boolWord v.tag) d a) s
def execCsetaddr (d a b : Reg) (s : State) : Out := finish 2 (moveEx (fun _ y => y) d a b) s
def execCinc (d a b : Reg) (s : State) : Out := finish 2 (moveEx (· + ·) d a b) s
def execCsetbnd (d a b : Reg) (s : State) : Out := finish 2 (csetbndEx d a b) s
def execCandperm (d a b : Reg) (s : State) : Out := finish 2 (candpermEx d a b) s
def execCseal (d a b : Reg) (s : State) : Out := finish 2 (csealEx d a b) s
def execCunseal (d a b : Reg) (s : State) : Out := finish 2 (cunsealEx d a b) s
def execCmov (d a : Reg) (s : State) : Out := finish 2 (cmovEx d a) s
def execCtestsub (d a b : Reg) (s : State) : Out := finish 2 (ctestsubEx d a b) s
def execCclrtag (d a : Reg) (s : State) : Out := finish 2 (cclrtagEx d a) s
def execCinci (d a : Reg) (imm : BitVec 15) (s : State) : Out := finish 2 (cinciEx d a imm) s
def execCsetbi (d a : Reg) (len : BitVec 15) (s : State) : Out := finish 2 (csetbiEx d a len) s
def execCMov (x y : Reg) (s : State) : Out := finish 1 (cmovEx x y) s

end Sys2Proof.Machine
end

