-- ==== Sys2Proof/Machine/Send.lean ====
section
/-! DEFINITION. The message instructions: SEND, SENDC, SENDK, SENDD, POST, MCAST, SENDE and RREAD (R38, R49, R218 to R222,
R233), END and ABORT (R223, R224). -/

namespace Sys2Proof.Machine

/-- The registers of a payload of `n` words from `b` up, as far as there are registers (R218). -/
def payloadRegs (b : Reg) (n : Nat) : List Reg :=
  (List.range n).filterMap fun i => if b.toNat + i < 32 then some (BitVec.ofNat 5 (b.toNat + i)) else none

/-- A destination that exists: a core of the module or a reachable module (R38). -/
def State.destOk (s : State) (hdr : DWord) : Bool :=
  hdrMod hdr == s.modnum.toNat || s.reach.contains (BitVec.ofNat 12 (hdrMod hdr))

/-- A send form: the kinds it allows, whether its words come from registers, whether CAP must be set, whether its header
names the destination, and the D that it reads (R219). -/
structure SendForm where
  kinds  : List Nat
  inRegs : Bool
  cap    : Bool
  dest   : Bool
  d      : Option Reg

/-- The checks that the send forms share, up to the form's own (R218): the header, the payload words read from registers,
and the value of D. -/
def sendHead (f : SendForm) (a b : Reg) : Ex (DWord × List DWord × Val) := do
  let c ← getC
  let hdr := (c.reg a).low
  let n := if f.inRegs then hdrLen hdr else 0
  let words := if f.inRegs then payloadRegs b n else [b]
  let _ ← rawRegs (a :: words ++ f.d.toList)
  check (f.kinds.contains (hdrKind hdr) && (!f.cap || hdrCap hdr)) .send hdr
  check (hdrKind hdr != kindSystem || c.km) .priv 0
  check (decide (b.toNat + n ≤ 32)) .send hdr
  check (!hdrCap hdr || (f.cap && hdrLen hdr != 7)) .send hdr
  let s ← getS
  check (!f.dest || s.destOk hdr) .send hdr
  pure (hdr, words.map fun r => (c.reg r).low, (f.d.map c.reg).getD Val.zero)

/-- The sends that the running task holds: entries not released (R38). -/
def Core.held (c : Core) : Nat := c.sendBuf.countP fun e => !e.released

/-- The end of every send (R218, R38): the seventeenth of a task traps, a full buffer waits; the entry is placed and the
send is priced (R116). -/
def place (hdr : DWord) (body : SendBody) (copies : List Copy) : Ex Unit := do
  let c ← getC
  check (decide (c.held < Config.sendEntries)) .send hdr
  if c.sendBuf.length < Config.sendEntries then
    modC fun c => { c with
      sendBuf := c.sendBuf ++ [{ order := c.orders, released := false, body := body, copies := copies, back := none }],
      orders := c.orders + 1 }
  else stall
  chargeBy Csrs.msgPrice

/-- A message as the running task sends it: the ignored bit of its header is zero (R5, R33); its trailer stands from the moment of the send (R34); to another module it
carries the links of its chain (R104). -/
def taskMsg (s : State) (hdr : DWord) (words : List DWord) (cap : Option QWord) (poison : Bool) : Msg :=
  let p := (s.partOf s.focus).getD 0
  { hdr := cleanHdr hdr, words := words, cap := cap, env := mkEnv 0 p s.core.handle s.modnum.toNat s.focus, work := s.core.work,
    launch := s.core.ltag.setWidth 64,
    links := if hdrMod hdr = s.modnum.toNat then [] else (s.chain p s.core.handle).getD [],
    free := false, waited := 0, poison := poison }

/-- One copy to one destination. -/
def copyTo (dmod dcore : Nat) : Copy := ⟨BitVec.ofNat 12 dmod, BitVec.ofNat 20 dcore, 0, .ready⟩

/-- A header with another destination. -/
def hdrTo (hdr : DWord) (dmod dcore : Nat) : DWord :=
  (hdr.extractLsb' 32 32).setWidth 64 <<< 32 ||| BitVec.ofNat 64 (dmod % 2 ^ 12 * 2 ^ 20 + dcore % 2 ^ 20)

/-- Places a message for its header's destination. -/
def placeMsg (hdr : DWord) (words : List DWord) (cap : Option QWord) (poison : Bool) : Ex Flow := do
  let s ← getS
  if hdrMod hdr != s.modnum.toNat then tableReady (s.partOf s.focus) fun s p => [s.chainAt p s.core.handle]
  place hdr (.msg (taskMsg s hdr words cap poison)) [copyTo (hdrMod hdr) (hdrCore hdr)]
  pure .seq

def sendKinds : List Nat := [kindActive, kindCount, kindCode, kindData, kindSystem]

/-- SEND (R219). -/
def sendEx (a b : Reg) : Ex Flow := do
  let (hdr, words, _) ← sendHead ⟨sendKinds, true, false, true, none⟩ a b
  placeMsg hdr words none false

/-- SENDC (R219). [log 65 DEDUCED] -/
def sendcEx (d a b : Reg) : Ex Flow := do
  let (hdr, words, v) ← sendHead ⟨[kindActive, kindData, kindSystem], true, true, true, some d⟩ a b
  checkReg v.tag .captag d
  checkReg (capGlobal v.bits) .capperm d
  placeMsg hdr words (some v.bits) false

/-- Doublewords of loaded bytes. -/
def wordsOf (v : Nat) (n : Nat) : List DWord := (List.range n).map fun i => BitVec.ofNat 64 (v / 2 ^ (64 * i))

/-- A payload read from memory at issue: an Access of `n` bytes with a stated alignment (R221). -/
def readPayload (cap : Val) (b : Reg) (n align : Nat) : Ex Loaded := do
  let p ← access { plainAcc cap b cap.low n needLd with align := some align }
  let x ← loadPlace p.cut true b
  chargeGmem cap.low
  pure x

/-- SENDD (R219, R221). [log 64 DEDUCED, log 125 DESIGN CHOICE] -/
def senddEx (a b : Reg) : Ex Flow := do
  let (hdr, _, _) ← sendHead ⟨sendKinds, false, false, true, none⟩ a b
  let c ← getC
  let n := hdrLen hdr
  let x ← if n = 0 then pure ⟨0, false, false⟩ else readPayload (c.reg b) b (8 * n) 8
  placeMsg hdr (wordsOf x.value n) none x.poison

/-- The packet of a launch request with the sender's chain in it (R221). -/
def underChain (words : List DWord) (handle : Nat) : List DWord :=
  match words with
  | w :: ws => ((w &&& 0xFFFF0000FFFFFFFF) ||| BitVec.ofNat 64 (handle * 2 ^ 32)) :: ws
  | [] => []

/-- SENDK (R221): the packet is a DISPATCH (2) or a POST (3). A mark in it is not looked at. [log 64 DEDUCED, log 124 DESIGN CHOICE] -/
def sendkEx (a b : Reg) : Ex Flow := do
  let c ← getC
  let _ ← rawRegs [a, b]
  let w := (c.reg a).low
  let x ← readPayload (c.reg b) b 64 16
  let words := wordsOf x.value 8
  let first := words.headD 0
  let kind := (first.extractLsb' 0 4).toNat
  check (kind == 2 || kind == 3) .send first
  place w (.launch (w.extractLsb' 0 2).toNat c.ltag words) []
  pure .seq

/-- The core that owns an address, among the cores of a partition's core list (R49, R330). [log 65 DEDUCED] -/
def State.owner (s : State) (p addr : Nat) : Option Nat :=
  let mine (n : Nat) : Option Nat := if (s.listPanels p).contains (panelOf n) then some n else none
  if 2 ^ 40 ≤ addr ∧ addr < 2 ^ 40 + 2 ^ 36 then mine ((addr - 2 ^ 40) / 2 ^ 16)
  else if 2 ^ 41 ≤ addr ∧ addr < 2 ^ 41 + 2 ^ 32 then
    let o := addr - 2 ^ 41
    mine (o / 2 ^ 18 * 64 + o / 2 ^ 8 % 64)
  else if isGlobal addr then
    let n := s.coreCount p
    if n = 0 then none else s.coreAt p ((mix64 (BitVec.ofNat 64 (addr / 2 ^ 8))).toNat % n)
  else none

/-- POST (R219, R220). [log 65 DEDUCED] -/
def postEx (d a b : Reg) : Ex Flow := do
  let (hdr, words, v) ← sendHead ⟨[kindActive], true, false, false, some d⟩ a b
  let s ← getS
  match (s.partOf s.focus).bind fun p => s.owner p v.low.toNat with
  | none => raise .nomap v.low
  | some n => do
    place hdr (.msg (taskMsg s (hdrTo hdr s.modnum.toNat n) words none false)) [copyTo s.modnum.toNat n]
    pure .seq

/-- The cores of a panel that a mask selects (R220). -/
def maskCores (base : Nat) (mask : DWord) : List Nat :=
  (List.range 64).filterMap fun c => if mask.getLsbD c then some (base + c) else none

/-- MCAST (R219, R220): each copy keeps DCORE of the sender's header. [log 115 DESIGN CHOICE] -/
def mcastEx (d a b : Reg) : Ex Flow := do
  let (hdr, words, v) ← sendHead ⟨[kindActive, kindCount, kindData], true, false, true, some d⟩ a b
  let s ← getS
  check (v.low != 0 && hdrMod hdr == s.modnum.toNat) .send hdr
  let cores := maskCores (hdrCore hdr / 64 * 64) v.low
  place hdr (.msg (taskMsg s hdr words none false)) (cores.map (copyTo s.modnum.toNat))
  pure .seq

/-- The valid output channel to a core, and its index (R231, R233). -/
def LocalTime.outTo (l : LocalTime) (dmod dcore : Nat) : Option OutChan :=
  l.outs.toList.find? fun o => o.valid && o.mod.toNat == dmod && o.core.toNat == dcore

/-- SENDE (R219, R233). -/
def sendeEx (a b : Reg) : Ex Flow := do
  let (hdr, words, _) ← sendHead ⟨[kindEvent], true, false, true, none⟩ a b
  let c ← getC
  check c.lt.on .send hdr
  match c.lt.outTo (hdrMod hdr) (hdrCore hdr), words with
  | some ch, stamp :: _ => do
    check (decide (c.lt.promise.toNat + ch.la.toNat ≤ stamp.toNat)) .lookahead stamp
    placeMsg hdr words none false
  | _, _ => raise .send hdr

/-- The first part of an RREAD (R222): the local checks; the issuing module's own memory is read at once. -/
def rreadBegin (d a b : Reg) : Ex Flow := do
  let m ← readClean a
  let cap ← readReg b
  let acc := plainAcc cap b cap.low 8 needLd
  accCap acc
  accAlign acc
  check (isGlobal cap.low.toNat) .nomap cap.low
  let s ← getS
  let mod : BitVec 12 := m.low.extractLsb' 0 12
  if mod = s.modnum then do
    let v ← loadVal cap b cap.low 3 false
    writeReg d v
    pure .seq
  else do
    dryRun (writeReg d Val.zero)
    modC fun c => { c with rread := some { mod := mod, addr := cap.low, answer := none } }
    pure .wait

/-- RREAD (R222): the core waits for the value, and a remote failure traps with its cause and the address. [log 34 DEDUCED, log 46 DEDUCED] -/
def rreadEx (d a b : Reg) : Ex Flow := do
  let c ← getC
  match c.rread with
  | none => rreadBegin d a b
  | some w =>
    match w.answer with
    | none => pure .wait
    | some (.fails cause) => fun _ => .error (.trap ⟨cause, w.addr, none, none, none⟩)
    | some (.value v p) => do
      let s ← getS
      modC fun c => { c with rread := none, loadAt := s.tick }
      chargeBy Csrs.gmemPrice
      writeData d v p
      pure .seq

/-! ### END and ABORT -/

/-- The scope at which END releases toward a receiver (R85, R89, R95). -/
def copyScope (s : State) (c : Copy) : Scope :=
  if c.dmod ≠ s.modnum then .sys else if dieOfCore c.dcore.toNat ≠ dieOfCore s.focus then .mod else .die

/-- The wider of two scopes. -/
def wider (a b : Scope) : Scope := if a.code < b.code then b else a

/-- The scope that releasing an entry needs. -/
def entryScope (s : State) (e : SendEntry) : Scope :=
  match e.body with
  | .engine _ => .sys
  | .launch die _ _ => if die = dieOfCore s.focus then .die else .mod
  | .msg _ => e.copies.foldl (fun a c => wider a (copyScope s c)) .core

/-- An entry as it is released: a CLOCK that LTANN or LTNULL has placed goes to every output channel that is then valid (R232), a
launch request stands under the sender's chain of that moment (R221). -/
def Core.addressed (c : Core) (e : SendEntry) : SendEntry :=
  if e.released then e
  else
    match e.body with
    | .msg m =>
      if m.kind = kindClock then
        { e with copies := c.lt.outs.toList.filterMap fun o => if o.valid then some (copyTo o.mod.toNat o.core.toNat) else none }
      else e
    | .launch die tag words => { e with body := .launch die tag (underChain words c.handle) }
    | .engine _ => e

/-- What END waits for before it takes effect (R223): the scopes of all the sends it releases. -/
def State.releaseAtEnd (s : State) : State :=
  match ((s.core.sendBuf.filter fun e => !e.released).map s.core.addressed).foldl (fun a e => wider a (entryScope s e)) Scope.core with
  | .core => s
  | .panel => s
  | .die => s.drain s.focus
  | x => s.releaseFor s.focus x

/-- Entries released one by one from `n` on, each message taking a send number unless it is a COUNT (R33, R38). An entry
with no destination, an announcement where no output channel is valid (R232), uses up its number too and is gone at once. [log 122 DESIGN CHOICE] -/
def numberEntries : List SendEntry → Nat → BitVec 16 → List SendEntry × Nat × BitVec 16
  | [], n, seq => ([], n, seq)
  | e :: es, n, seq =>
    if e.released then
      let r := numberEntries es n seq
      (e :: r.1, r.2)
    else
      match e.body with
      | .msg m =>
        let r := numberEntries es (n + 1) (if m.kind = kindCount then seq else seq + 1)
        if e.copies.isEmpty then r
        else ({ e with order := n, released := true, body := .msg (m.numbered seq) } :: r.1, r.2)
      | _ =>
        let r := numberEntries es (n + 1) seq
        ({ e with order := n, released := true } :: r.1, r.2)

/-- Releases the sends that a core holds, in program order (R38). -/
def Core.releaseSends (c : Core) : Core :=
  let r := numberEntries (c.sendBuf.map c.addressed) c.orders c.sendNo
  { c with sendBuf := r.1, orders := r.2.1, sendNo := r.2.2 }

/-- Released engine commands go to their streamers, in release order (R95, R338). [log 61 DEDUCED] -/
def State.launchEngines (s : State) : State :=
  let engine (e : SendEntry) : Option EngCmd := match e.released, e.body with
    | true, .engine c => some c
    | _, _ => none
  let cmds := s.core.sendBuf.filterMap engine
  cmds.foldl State.launchCmd { s with core := { s.core with sendBuf := s.core.sendBuf.filter fun e => (engine e).isNone } }

/-- The meter of the bank that runs split along its chain; kernel-bank work counts afresh (R118, R119). [log 22 DEDUCED] -/
def State.settleMeter (s : State) : State :=
  let c := s.core
  if c.csr.km then
    let s := s.settle (s.partOf s.focus) 0 c.csr.kmeter.toNat
    { s with core := { s.core with csr := { s.core.csr with kmeter := 0 } } }
  else
    s.settle (s.partOf s.focus) c.handle c.csr.meter.toNat

/-- What END and ABORT do last (R223): the instruction is priced and counted, the meter is split, every binding is let go
of, the trigger is freed, and the core goes back to its scheduler. -/
def State.taskGone (s : State) : State :=
  let s := { s with core := s.core.retired }.settleMeter
  let c := s.core
  let c := match c.task with
    | some k => c.freeTrigger k.trigger
    | none => c
  { s with core := { c.unbindAll with task := none, csr := { c.csr with km := false } } }

/-- The class of the thimble (R273). -/
def thimbleClass : Nat := 62

/-- The thimble is an ACTIVE message of class 62 (R273). -/
def isThimble (m : Msg) : Bool := m.kind == kindActive && m.cls == thimbleClass

/-- The message in the inbox slot of a trigger. -/
def Core.slotMsg (c : Core) (t : Trigger) : Option Msg :=
  match t with
  | .slot i => (c.inbox[i]?).bind id
  | _ => none

/-- What END notes of a group's thimble (R273, R275): a task that it has started leaves its core the holder, until a task of the
core sends a thimble on. [log 20 DEDUCED] -/
def State.noteHolder (s : State) : State :=
  let sent := s.core.sendBuf.any fun e => !e.released && (match e.body with
    | .msg m => isThimble m
    | _ => false)
  match s.partOf s.focus, s.core.task.bind fun k => s.core.slotMsg k.trigger with
  | none, _ => s
  | some p, m =>
    if sent then s.modPart p fun q => { q with holders := aerase s.focus q.holders }
    else match m with
      | some m => if isThimble m then s.modPart p fun q => { q with holders := aset s.focus m q.holders } else s
      | none => s

/-- END (R223, R245). [log 18 DEDUCED, log 21 DEDUCED] -/
def endEx : Ex Flow := do
  let c ← getC
  if c.rep.isSome then stall
  match c.mxFault with
  | some e => raise .mxfault e
  | none => do
    modS State.releaseAtEnd
    modS State.noteHolder
    modC Core.releaseSends
    modS State.launchEngines
    modS State.taskGone
    pure .ended

/-- ABORT (R224). -/
def abortEx : Ex Flow := do
  let c ← getC
  if c.rep.isSome then stall
  modC fun c => { c.dropSends with mxFault := none }
  modS State.taskGone
  pure .ended

def execSend (a b : Reg) (s : State) : Out := finish 2 (sendEx a b) s
def execSendc (d a b : Reg) (s : State) : Out := finish 2 (sendcEx d a b) s
def execSendk (a b : Reg) (s : State) : Out := finish 2 (sendkEx a b) s
def execSendd (a b : Reg) (s : State) : Out := finish 2 (senddEx a b) s
def execPost (d a b : Reg) (s : State) : Out := finish 2 (postEx d a b) s
def execMcast (d a b : Reg) (s : State) : Out := finish 2 (mcastEx d a b) s
def execRread (d a b : Reg) (s : State) : Out := finish 2 (rreadEx d a b) s
def execSende (a b : Reg) (s : State) : Out := finish 2 (sendeEx a b) s
def execEndTask (s : State) : Out := finish 2 endEx s
def execAbort (s : State) : Out := finish 2 abortEx s
def execCEnd (s : State) : Out := finish 1 endEx s

end Sys2Proof.Machine
end

