-- ==== Sys2Proof/Machine/LocalTime.lean ====
section
/-! DEFINITION. Local-time mode: LTON, LTOFF, LTCLK, LTCHAN, LTANN and LTNULL (R231, R232), safe time, the event queue's
order and its dispatch (R281, R282), automatic rounds with their probes (R286 to R288), and a raised ZEROLA (R287, R289). -/

namespace Sys2Proof.Machine

/-- What a valid input channel allows: its last announced clock and its lookahead (R231). -/
def InChan.limit (c : InChan) : Option Nat := if c.valid then some (c.last.toNat + c.la.toNat) else none

/-- The lesser of two bounds, none being no bound. -/
def minOpt (a b : Option Nat) : Option Nat :=
  match a, b with
  | none, y => y
  | x, none => x
  | some x, some y => some (min x y)

/-- The safe time S; none where it is unbounded (R231). -/
def LocalTime.safe (l : LocalTime) : Option Nat := l.ins.toList.foldl (fun s c => minOpt s c.limit) none

/-- Local-time state replaced; a change of S empties the probe record and drops a pending probe (R288, R291). -/
def Core.setLt (c : Core) (l : LocalTime) : Core :=
  { c with lt := if l.safe = c.lt.safe then l else { l with seen := 0, record := [], pending := none } }

/-- Whether every input channel that attains S has lookahead 0, S being bounded (R288). -/
def LocalTime.zeroBound (l : LocalTime) : Bool :=
  l.safe.isSome && l.ins.toList.all fun c => !(c.valid && c.limit == l.safe) || c.la == 0

/-- Stalled at a round, `n` rounds at least having passed since S last changed (R288). -/
def LocalTime.stalledAt (l : LocalTime) (n : Nat) : Bool := l.on && l.blocked.isSome && decide (n ≤ l.seen) && l.zeroBound

/-! ### The event queue -/

/-- The stamp of an EVENT: payload word 0 (R233, R280). -/
def evStamp (m : Msg) : DWord := m.words.headD 0

/-- The key of an entry, compared unsigned (R281). -/
def EvEntry.key (e : EvEntry) : Nat :=
  (evStamp e.msg).toNat * 2 ^ 64 + (e.msg.smod.toNat * 2 ^ 20 + e.msg.score.toNat) * 2 ^ 32 + e.seq.toNat

/-- Entry `i` of the event queue. -/
def Core.ev (c : Core) (i : Nat) : Option EvEntry := (c.evq[i]?).bind id

/-- The entries that wait in key order: (index, entry). -/
def Core.evWaiting (c : Core) : List (Nat × EvEntry) :=
  (List.range Config.eventEntries).filterMap fun i => match c.ev i with
    | some e => if e.phase == .waiting then some (i, e) else none
    | none => none

/-- The entry of least key. -/
def leastKey : List (Nat × EvEntry) → Option (Nat × EvEntry)
  | [] => none
  | x :: xs => match leastKey xs with
    | none => some x
    | some y => if y.2.key < x.2.key then some y else some x

/-- The head of the event queue (R281). -/
def Core.evHead (c : Core) : Option (Nat × EvEntry) := leastKey c.evWaiting

/-- Whether a start waits in a queue or is parked. -/
def Core.pendingStart (c : Core) (t : Trigger) : Bool := c.queued t || c.parked.any fun p => p.1 == t

/-- Whether a candidate has left the event queue and its task has not started or is to run again (R282). -/
def Core.hasCandidate (c : Core) : Bool :=
  (List.range Config.eventEntries).any fun i => match c.ev i with
    | some e => e.phase == .ready && c.pendingStart (.event i)
    | none => false

/-- The eligible head (R282): below S, or with ON 0 whatever it is. -/
def Core.evEligible (c : Core) : Option (Nat × EvEntry) :=
  if c.hasCandidate then none
  else match c.evHead with
    | none => none
    | some h =>
      if c.lt.on && (match c.lt.safe with
        | some s => decide (s ≤ (evStamp h.2.msg).toNat)
        | none => false) then none else some h

/-- EVENT_DISPATCH: the eligible head joins the tail of its priority queue (R282). -/
def State.evDispatch (s : State) (n : Nat) : State :=
  match (s.getCore n).evEligible with
  | none => s
  | some h => s.modCore n fun c =>
    { c with evq := c.evq.setIfInBounds h.1 (some { h.2 with phase := .ready }) }.enqueue h.2.msg.prio (.event h.1) s.clock

/-! ### The zero-lookahead map (R287) -/

/-- Destinations of a core's valid output channels with lookahead 0, by channel index; those of other modules lead
nowhere in the map. -/
def LocalTime.zeroOuts (l : LocalTime) (modnum : BitVec 12) : List (Nat × Nat) :=
  l.outs.toList.zipIdx.filterMap fun o =>
    if o.1.valid && o.1.la == 0 && o.1.mod == modnum then some (o.2, o.1.core.toNat) else none

/-- Whether recorded edges lead from a set of cores to a core, within `fuel` edges. [log 67 DEDUCED] -/
def zeroReaches (map_ : List (Nat × List Nat)) (goal : Nat) : Nat → List Nat → Bool
  | 0, cores => cores.contains goal
  | k + 1, cores => cores.contains goal ||
    zeroReaches map_ goal k ((cores.flatMap fun c => (alookup c map_).getD []).eraseDups)

/-- The first output channel of a core that lies on a cycle of at most 64 recorded edges. -/
def firstOnCycle (map_ : List (Nat × List Nat)) (n : Nat) (outs : List (Nat × Nat)) : Option Nat :=
  (outs.find? fun o => zeroReaches map_ n 63 [o.2]).map fun o => o.1

/-- A core's entries removed from the map (R287, R289). -/
def State.zeroForget (s : State) (n : Nat) : State :=
  match s.partOf n with
  | none => s
  | some p => s.modPart p fun q => { q with zeroMap := aerase n q.zeroMap }

/-! ### The instructions -/

/-- SEND where ON is 0 (R232). -/
def needOn : Ex Unit := do
  let c ← getC
  check c.lt.on .send 0

/-- LTON (R232, R287). [log 67 DEDUCED] -/
def ltonEx (a : Reg) : Ex Flow := do
  let v ← readClean a
  let s ← getS
  let c := s.core
  if c.lt.on then pure ()
  else modC fun c => { c with lt := { c.lt with on := true, clock := v.low, promise := v.low } }
  match s.partOf s.focus with
  | none => pure .seq
  | some p => do
    let outs := c.lt.zeroOuts s.modnum
    let map_ := aset s.focus (outs.map fun o => o.2) (s.part p).zeroMap
    match firstOnCycle map_ s.focus outs with
    | some ch => raise .zerola (BitVec.ofNat 64 ch)
    | none => do
      modS fun s => s.modPart p fun q => { q with zeroMap := map_ }
      pure .seq

/-- LTOFF (R232, R287). -/
def ltoffEx : Ex Flow := do
  needOn
  modS fun s => { s with core := { s.core with lt := { s.core.lt with on := false, blocked := none } } }.zeroForget s.focus
  pure .seq

/-- LTCLK (R232). [log 67 DEDUCED] -/
def ltclkEx (d a : Reg) : Ex Flow := do
  let v ← readClean a
  needOn
  let s ← getS
  let l := s.core.lt
  let x : DWord := match (v.low.extractLsb' 0 2).toNat with
    | 0 => l.clock
    | 1 => match l.safe with
      | none => BitVec.allOnes 64
      | some t => if t < 2 ^ 64 then BitVec.ofNat 64 t else Config.strayWord s.tick t
    | 2 => l.promise
    | _ => BitVec.ofNat 64 s.core.evWaiting.length
  writeData d x false
  pure .seq

/-- LTCHAN (R231, R281). -/
def ltchanEx (a : Reg) : Ex Flow := do
  let v ← readClean a
  let w := v.low
  let c ← getC
  let l := c.lt
  let out := w.getLsbD 63
  let valid := w.getLsbD 62
  let ch := (w.extractLsb' 48 3).toNat
  let la : BitVec 16 := w.extractLsb' 32 16
  let mod : BitVec 12 := w.extractLsb' 20 12
  let core : BitVec 20 := w.extractLsb' 0 20
  let taken := if out then l.outs.toList.zipIdx.any fun o => o.2 != ch && o.1.valid && o.1.mod == mod && o.1.core == core
    else l.ins.toList.zipIdx.any fun o => o.2 != ch && o.1.valid && o.1.mod == mod && o.1.core == core
  check (!(valid && taken)) .send w
  if out then
    modC fun c => c.setLt { l with outs := l.outs.setIfInBounds ch (if valid then ⟨true, la, mod, core⟩ else OutChan.zero) }
  else
    modC fun c => c.setLt
      { l with ins := l.ins.setIfInBounds ch (if valid then ⟨true, la, mod, core, 0, 0⟩ else InChan.zero) }
  pure .seq

/-- A CLOCK message of core `n` (R285): handle 0, and what it says. -/
def clockMsg (s : State) (n : Nat) (clk word1 : DWord) (work : DWord) (ltag : BitVec 16) : Msg :=
  let p := (s.partOf n).getD 0
  { niMsg s n (mkHdr 0 2 0 0 kindClock 0 0) [clk, word1] 0 work ltag with links := (s.chain p 0).getD [] }

/-- The announcement of LTANN and LTNULL placed (R232): its destinations are those of its release. -/
def announce : Ex Flow := do
  let s ← getS
  place 0 (.msg (clockMsg s s.focus s.core.lt.promise 0 s.core.work s.core.ltag)) []
  pure .seq

/-- LTANN (R232). -/
def ltannEx : Ex Flow := do
  needOn
  announce

/-- The greater of two stamps. -/
def laterOf (a b : DWord) : DWord := if a.ult b then b else a

/-- LTNULL (R232). -/
def ltnullEx (a : Reg) : Ex Flow := do
  let v ← readClean a
  needOn
  modC fun c => { c with lt := { c.lt with promise := laterOf c.lt.promise v.low } }
  announce

/-! ### Rounds and probes -/

/-- Word 1 of a CLOCK that carries a probe or a confirmation (R285). -/
def probeWord (confirm : Bool) (initiator : Nat) : DWord :=
  BitVec.ofNat 64 ((if confirm then 2 ^ 62 else 2 ^ 63) + initiator % 2 ^ 32)

/-- A CLOCK with the current promise sent by a core's NI on the channels of a list of indices (R286, R288). -/
def State.sendClock (s : State) (n : Nat) (word1 : DWord) (chans : List Nat) : State :=
  let l := (s.getCore n).lt
  let dests := chans.filterMap fun i => match l.outs[i]? with
    | some o => if o.valid then some (o.mod.toNat, o.core.toNat) else none
    | none => none
  if dests.isEmpty then s
  else s.modCore n fun c => c.niPost (clockMsg s n l.promise word1 0 0) dests

/-- The valid output channels, and those with lookahead 0. -/
def LocalTime.outList (l : LocalTime) (zero : Bool) : List Nat :=
  l.outs.toList.zipIdx.filterMap fun o => if o.1.valid && (!zero || o.1.la == 0) then some o.2 else none

/-- A core as an initiator: IMOD and ICORE (R285). -/
def initiatorOf (s : State) (n : Nat) : Nat := s.modnum.toNat * 2 ^ 20 + n

/-- An initiator recorded with the channels that carried its probe (R288). -/
def LocalTime.noteProbe (l : LocalTime) (i : Nat) (chans : List Nat) : LocalTime :=
  { l with record := (i, chans) :: l.record.filter fun r => !(r.1 == i) }

/-- A probe sent at a round (R288). -/
def State.sendProbe (s : State) (n i : Nat) : State :=
  let chans := (s.getCore n).lt.outList true
  (s.sendClock n (probeWord false i) chans).modCore n fun c => { c with lt := c.lt.noteProbe i chans }

/-- The probe rules of a round (R288). [log 67 DEDUCED] -/
def State.probeRound (s : State) (n : Nat) : State :=
  let c := s.getCore n
  let me := initiatorOf s n
  let stalled := c.lt.stalledAt 2
  let s := if stalled && !c.evWaiting.isEmpty && c.lt.record.all fun r => decide (me ≤ r.1) then s.sendProbe n me else s
  match c.lt.pending with
  | some i => if stalled then (s.sendProbe n i).modCore n fun c => { c with lt := { c.lt with pending := none } } else s
  | none => s

/-- What a round announces: the lesser of the head's stamp and S (R286). -/
def Core.nextSafe (c : Core) : Option Nat := minOpt (c.evHead.map fun h => (evStamp h.2.msg).toNat) c.lt.safe

/-- A promise raised to a value, which may lie beyond the register. -/
def promiseOf (s : State) (t : Nat) : DWord := if t < 2 ^ 64 then BitVec.ofNat 64 t else Config.strayWord s.tick t

/-- Whether a core is blocked (R286): local time is on, no task runs, and no ready work waits. -/
def Core.isBlocked (c : Core) : Bool :=
  c.lt.on && c.task.isNone && !c.km && c.kwork.isEmpty && c.starts.isEmpty

/-- A core that is blocked counts from now, unless it counts already (R286). -/
def Core.countBlocked (c : Core) (now : Nat) : Core :=
  if c.isBlocked && c.lt.blocked.isNone then { c with lt := { c.lt with blocked := some now, rounds := 0, seen := 1 } } else c

/-- An automatic round (R286). -/
def State.round (s : State) (n : Nat) : State :=
  let c := s.getCore n
  match c.lt.blocked with
  | none => s.modCore n fun c => c.countBlocked s.clock
  | some t =>
    if c.isBlocked then
      let s := { s with clock := max s.clock (t + Config.roundCycles * (c.lt.rounds + 1)) }
      let s := match c.nextSafe with
        | some x =>
          if c.lt.promise.toNat < x then
            let s := s.modCore n fun c => { c with lt := { c.lt with promise := promiseOf s x } }
            s.sendClock n 0 (c.lt.outList false)
          else s
        | none => s
      (s.probeRound n).modCore n fun c => { c with lt := { c.lt with rounds := c.lt.rounds + 1, seen := c.lt.seen + 1 } }
    else s

/-- ZEROLA raised at a core: kernel work (R288, R289). -/
def State.raiseZerola (s : State) (n initiator : Nat) : State :=
  s.modCore n fun c => { c with kwork := c.kwork ++ [.zerola initiator] }

/-- What a probe or a confirmation does on arrival over an input channel (R288). [log 67 DEDUCED] -/
def State.probeArrives (s : State) (n : Nat) (ch : InChan) (word1 : DWord) : State :=
  let i := (word1.extractLsb' 0 32).toNat
  let me := initiatorOf s n
  let l := (s.getCore n).lt
  if word1.getLsbD 63 then
    if ch.la != 0 then s
    else if i = me then
      if l.stalledAt 3 then
        let chans := match l.record.find? fun r => r.1 == me with
          | some r => r.2
          | none => []
        (s.raiseZerola n me).sendClock n (probeWord true me) chans
      else s
    else if l.record.all fun r => decide (i < r.1) then s.modCore n fun c => { c with lt := { c.lt with pending := some i } }
    else s
  else if word1.getLsbD 62 && i != me then
    match l.record.find? fun r => r.1 == i with
    | some r => (s.raiseZerola n i).sendClock n (probeWord true i) r.2
    | none => s
  else s

/-- The queued starts and entries of the event queue let go of; each is reported to its launch (R289). -/
def State.dropEvents (s : State) (n cause : Nat) : State :=
  (List.range Config.eventEntries).foldl (fun s i =>
    let c := s.getCore n
    match c.ev i with
    | some e =>
      if (c.task.map Task.trigger) == some (.event i) || c.parked.any (fun p => p.1 == .event i) then s
      else (s.modCore n fun c => (c.dequeue (.event i)).freeTrigger (.event i)).report (some n) (s.partOf n) e.msg.ltag repTrapped cause
    | none => s) s

/-- The kernel's handling of a raised ZEROLA (R289). -/
def State.serveZerola (s : State) (n initiator : Nat) : State :=
  let s := s.modCore n fun c => { c with
    csr := { c.csr with ecause := BitVec.ofNat 64 Cause.zerola.code, epc := 0, eval := BitVec.ofNat 64 initiator, emsg := 0,
                        echn := 0 },
    lt := { c.lt with on := false, blocked := none } }
  (s.dropEvents n Cause.zerola.code).zeroForget n

/-- ZEROLA_ENTRY: the raised ZEROLA at a task boundary (R289). -/
def State.zerolaEntry (s : State) (n : Nat) : State :=
  let c := s.getCore n
  if c.task.isSome || c.km || c.out then s
  else
    match c.kwork.findSome? fun w => match w with
      | .zerola i => some i
      | _ => none with
    | none => s
    | some i => (s.modCore n fun c => { c with kwork := c.kwork.erase (.zerola i) }).serveZerola n i

def execLton (a : Reg) (s : State) : Out := finish 2 (ltonEx a) s
def execLtoff (s : State) : Out := finish 2 ltoffEx s
def execLtclk (d a : Reg) (s : State) : Out := finish 2 (ltclkEx d a) s
def execLtchan (a : Reg) (s : State) : Out := finish 2 (ltchanEx a) s
def execLtann (s : State) : Out := finish 2 ltannEx s
def execLtnull (a : Reg) (s : State) : Out := finish 2 (ltnullEx a) s
def execAutomaticRound (core : Nat) (s : State) : Out := .next (s.round core)
def execEventDispatch (core : Nat) (s : State) : Out := .next (s.evDispatch core)
def execZerolaEntry (core : Nat) (s : State) : Out := .next (s.zerolaEntry core)

end Sys2Proof.Machine
end

