-- ==== Sys2Proof/Machine/Sample.lean ====
section
/-! DEFINITION. Sampling: SMPARM, SMPINJ and SMPGET, Better, and the application of an arrival to its slot (R237 to R239). -/

namespace Sys2Proof.Machine

/-- SMPARM (R237). [log 69 DEDUCED] -/
def smparmEx (a b : Reg) : Ex Flow := do
  let x ← readReg a
  let y ← readReg b
  checkReg (!x.poison) .poison a
  checkReg (!y.poison) .poison b
  let i := (x.low.extractLsb' 32 6).toNat
  let tag : BitVec 32 := x.low.extractLsb' 0 32
  let expect : BitVec 16 := y.low.extractLsb' 0 16
  let c ← getC
  check (!(c.samples.toList.zipIdx.any fun p => p.2 != i && p.1.armed && p.1.tag == tag)) .send x.low
  let slot : SampleSlot :=
    { armed := expect != 0, tag := tag, expect := expect, cls := y.low.extractLsb' 16 6, prio := y.low.extractLsb' 22 2,
      best := none, count := 0, complete := false, chain := c.chn.extractLsb' 0 16, ltag := c.ltag, work := c.work }
  modC fun c => { c.dequeue (.sample i) with samples := c.samples.setIfInBounds i slot,
                                             parked := c.parked.filter fun p => !(p.1 == .sample i) }
  pure .seq

/-- SMPINJ (R238): the message's words hold the tag, the value with its index, and the contribution count. [log 69 DEDUCED] -/
def smpinjEx (a b : Reg) : Ex Flow := do
  match ← rawRegs [a, b] with
  | [x, y] => do
    let s ← getS
    let n := (x.low.extractLsb' 0 20).toNat
    check (match s.partOf s.focus with
      | some p => s.inSet p (panelOf n)
      | none => false) .send x.low
    let hdr := mkHdr 0 3 0 0 kindSample s.modnum.toNat n
    place x.low (.msg (taskMsg s hdr [x.low >>> 32, y.low, 1] none false)) [copyTo s.modnum.toNat n]
    pure .seq
  | _ => pure .seq

/-- rank of an FP32 value (R239). -/
def sampleRank (v : BitVec 32) : Nat := laneRank fp32 v.toNat

/-- Better (R239). -/
def better (x y : Option (BitVec 32 × BitVec 32)) : Option (BitVec 32 × BitVec 32) :=
  match x, y with
  | none, y => y
  | x, none => x
  | some p, some q =>
    if sampleRank p.1 < sampleRank q.1 then some q
    else if sampleRank q.1 < sampleRank p.1 then some p
    else if q.2.ult p.2 then some q
    else some p

/-- The fields of a SAMPLE message: its tag, the value with its index, the contributions. [log 69 DEDUCED] -/
def sampleTag (m : Msg) : BitVec 32 := (m.words[0]?.getD 0).setWidth 32
def samplePair (m : Msg) : BitVec 32 × BitVec 32 :=
  let w := m.words[1]?.getD 0
  (w.setWidth 32, w.extractLsb' 32 32)
def sampleCount (m : Msg) : BitVec 32 := (m.words[2]?.getD 0).setWidth 32

/-- A SAMPLE combined into a slot (R238). -/
def SampleSlot.combine (e : SampleSlot) (m : Msg) : SampleSlot :=
  { e with best := better e.best (some (samplePair m)), count := e.count + sampleCount m }

/-- An arrival applied to the armed slot of its tag (R238); with none it is counted and discarded by the kernel. -/
def Core.sampleArrives (c : Core) (m : Msg) (now : Nat) : Core :=
  match c.samples.toList.findIdx? fun e => e.armed && e.tag == sampleTag m with
  | none => { c with discards := c.discards + 1 }
  | some i =>
    let e := (c.sample i).combine m
    let fire := decide (e.expect.toNat ≤ e.count.toNat) && !e.complete
    let e := if fire then { e with complete := true } else e
    let c := { c with samples := c.samples.setIfInBounds i e }
    if fire then c.enqueue e.prio.toNat (.sample i) now else c

/-- What SMPGET reads (R239). -/
def SampleSlot.report (e : SampleSlot) : QWord :=
  if e.armed then
    let p := e.best.getD (0, 0)
    BitVec.ofNat 128 (2 ^ 97 + (if e.complete then 2 ^ 96 else 0) + e.count.toNat * 2 ^ 64 + p.2.toNat * 2 ^ 32 + p.1.toNat)
  else 0

/-- SMPGET (R239), which acquires the arrivals that it reflects (R85, R89). -/
def smpgetEx (d a : Reg) : Ex Flow := do
  let x ← readClean a
  modC Core.acquires
  let c ← getC
  writeReg d ⟨(c.sample (x.low.extractLsb' 0 6).toNat).report, false, false⟩
  pure .seq

def execSmparm (a b : Reg) (s : State) : Out := finish 2 (smparmEx a b) s
def execSmpinj (a b : Reg) (s : State) : Out := finish 2 (smpinjEx a b) s
def execSmpget (d a : Reg) (s : State) : Out := finish 2 (smpgetEx d a) s

end Sys2Proof.Machine
end

