-- ==== Sys2Proof/Machine/Ni.lean ====
section
/-! DEFINITION. The network interfaces: arrivals and refusals (R35, R40, R104, R280, R281, R285), retries and undeliverable
messages (R39, R41, R57), routers that combine samples (R239), and the counter unit's network (R43, R45). -/

namespace Sys2Proof.Machine

/-- The messages that a unit holds (R33, R39). -/
def State.sends (s : State) : Sender → List SendEntry
  | .core n => (s.getCore n).sendBuf
  | .ni n => (s.getCore n).ni
  | .frontEnd d => (s.die d).fe
  | .home d => (s.die d).home

/-- The messages that a unit holds, replaced. -/
def State.setSends (s : State) (u : Sender) (l : List SendEntry) : State :=
  match u with
  | .core n => s.modCore n fun c => { c with sendBuf := l }
  | .ni n => s.modCore n fun c => { c with ni := l }
  | .frontEnd d => s.modDie d fun x => { x with fe := l }
  | .home d => s.modDie d fun x => { x with home := l }

/-- Everything that the unit's owner holds, which R39 orders: a core's NI sends for its tasks and outside any task. -/
def State.sendsBeside (s : State) : Sender → List SendEntry
  | .core n => (s.getCore n).sendBuf ++ (s.getCore n).ni
  | .ni n => (s.getCore n).sendBuf ++ (s.getCore n).ni
  | u => s.sends u

/-- A released message of a unit with one of its copies. -/
structure Outgoing where
  entry : SendEntry
  msg   : Msg
  copy  : Copy

/-- Copy `i` of entry `slot` of a unit, where it is a released message. -/
def State.outgoing (s : State) (u : Sender) (slot i : Nat) : Option Outgoing :=
  match (s.sends u)[slot]? with
  | none => none
  | some e =>
    match e.released, e.body, e.copies[i]? with
    | true, .msg m, some c => some ⟨e, m, c⟩
    | _, _, _ => none

/-- Whether another message holds this one back: an earlier one to the same destination at the same priority (R39); a CLOCK every
EVENT to it, released or not, and no EVENT a CLOCK (R285). [log 66 DEDUCED] -/
def Outgoing.behind (o : Outgoing) (others : List SendEntry) : Bool :=
  others.any fun e =>
    (match e.body with
     | .msg m =>
       if o.msg.kind = kindClock ∧ m.kind = kindEvent then true
       else !(o.msg.kind == kindEvent && m.kind == kindClock) && e.released && decide (e.order < o.entry.order) &&
         m.prio == o.msg.prio
     | _ => false) &&
      e.copies.any fun c => c.dmod == o.copy.dmod && c.dcore == o.copy.dcore

/-- A copy changed in place. -/
def State.setCopy (s : State) (u : Sender) (slot i : Nat) (f : Copy → Copy) : State :=
  s.setSends u ((s.sends u).modify slot fun e => { e with copies := e.copies.modify i f })

/-- A copy that is accepted or handed over leaves its entry; an entry without copies is gone (R39, R220). -/
def State.dropCopy (s : State) (u : Sender) (slot i : Nat) : State :=
  let l := (s.sends u).modify slot fun e => { e with copies := e.copies.eraseIdx i }
  s.setSends u (match l[slot]? with
    | some e => if e.copies.isEmpty then l.eraseIdx slot else l
    | none => l)

/-! ### Arrival -/

/-- What an arrival comes to: refused (R40), accepted, or held until a chain entry that is being written is whole (R102) or until a frame of
the chain table has been scrubbed (R332). -/
inductive Arrival where
  | refused (why : Reason)
  | accepted (s : State)
  | held
  | scrub (frame : Nat)

/-- Whether a message needs an inbox slot (R35): an EVENT does where local-time mode is off. -/
def Core.needsSlot (c : Core) (m : Msg) : Bool :=
  m.kind == kindActive || m.kind == kindCode || m.kind == kindData || m.kind == kindSystem || (m.kind == kindEvent && !c.lt.on)

/-- The first free inbox slot, and how many are free. -/
def Core.freeSlot (c : Core) : Option Nat := c.inbox.toList.findIdx? Option.isNone
def Core.freeSlots (c : Core) : Nat := c.inbox.toList.countP Option.isNone
/-- The first free entry of the event queue. -/
def Core.freeEvent (c : Core) : Option Nat := c.evq.toList.findIdx? Option.isNone

/-- GONE and AWAY (R40, R62, R331, R367): a panel that is being added does not accept messages yet. -/
def State.refusal (s : State) (m : Msg) (n : Nat) : Option Reason :=
  let panel := panelOf n
  let filling := (s.die (dieOfPanel panel)).cmds.any fun c => c.begun && c.op != .remove && c.panel == panel % 4096
  if !s.inSet m.part panel || (s.part m.part).dying then some .gone
  else if filling then some .away
  else if s.occupant panel != some m.part || (s.getCore n).out then some .away
  else none

/-- A message in an inbox slot, queued (R35, R57): a SYSTEM message as kernel work, another at its priority with the age it
brings. -/
def Core.receive (c : Core) (m : Msg) (i now : Nat) : Core :=
  let c := { c with inbox := c.inbox.setIfInBounds i (some m) }
  if m.kind = kindSystem then { c with kwork := c.kwork ++ [.system i] } else c.enqueue m.prio (.slot i) (now - m.waited)

/-- The valid input channel of a source (R231, R280). -/
def LocalTime.inFrom (l : LocalTime) (m : Msg) : Option Nat :=
  l.ins.toList.findIdx? fun c => c.valid && c.mod == m.smod && c.core == m.score

/-- An EVENT that arrives while local-time mode is on (R280, R281, R284). -/
def Core.eventArrives (c : Core) (m : Msg) (now : Nat) : Except Reason Core :=
  match c.lt.inFrom m with
  | none => .ok { c with discards := c.discards + 1 }
  | some ch =>
    match c.freeEvent with
    | none => .error .full
    | some i =>
      let seq := (c.lt.ins[ch]?.getD InChan.zero).seq
      let late := (evStamp m).ult c.lt.clock
      let c := { c with
        evq := c.evq.setIfInBounds i (some ⟨m, seq, if late then .late else .waiting⟩),
        lt := { c.lt with ins := c.lt.ins.setIfInBounds ch { c.lt.ins[ch]?.getD InChan.zero with seq := seq + 1 } } }
      .ok (if late then c.enqueueHead 0 (.event i) now else c)

/-- A CLOCK that arrives (R231, R285, R288). -/
def State.clockArrives (s : State) (n : Nat) (m : Msg) : State :=
  let l := (s.getCore n).lt
  match l.inFrom m with
  | none => s.modCore n fun c => { c with discards := c.discards + 1 }
  | some ch =>
    let e := l.ins[ch]?.getD InChan.zero
    let s := s.modCore n fun c => c.setLt { l with ins := l.ins.setIfInBounds ch { e with last := laterOf e.last (m.words[0]?.getD 0) } }
    s.probeArrives n e (m.words[1]?.getD 0)

/-- An accepted message of a core of the module (R35). -/
def State.arrive (s : State) (m : Msg) (n : Nat) (retry : Bool) : Arrival :=
  match s.refusal m n with
  | some why => .refused why
  | none =>
    let c := s.getCore n
    if c.needsSlot m then
      match c.freeSlot with
      | none => .refused .full
      | some i =>
        if !retry && c.freeSlots < 2 then .refused .full
        else .accepted (s.modCore n fun c => c.receive m i s.clock)
    else if m.kind = kindCount then .accepted (s.decrement n m.cls (hdrSeq m.hdr).toNat)
    else if m.kind = kindClock then .accepted (s.clockArrives n m)
    else if m.kind = kindSample then .accepted (s.modCore n fun c => c.sampleArrives m s.clock)
    else match c.eventArrives m s.clock with
      | .error why => .refused why
      | .ok c => .accepted (s.setCore n c)

/-- The kinds that are queued where they arrive (R35). -/
def queuedKind (m : Msg) : Bool := !(m.kind == kindCount || m.kind == kindClock || m.kind == kindSample)

/-- An envelope with another chain handle. [log 28 DEDUCED] -/
def withChain (env : DWord) (h : Nat) : DWord := (env &&& ~~~((0xFFFF : DWord) <<< 32)) ||| BitVec.ofNat 64 (h % 2 ^ 16 * 2 ^ 32)

/-- A message that comes from another module (R104), whose header's ignored bit reads as zero (R5): its chain is interned here; where the table is full it is handed to
the receiving kernel. A kind that is not queued and carries no links has its effect without a chain. [log 28 DEDUCED] -/
def State.arriveFar (s : State) (m : Msg) (n : Nat) (retry : Bool) : Arrival :=
  let m := { m with hdr := cleanHdr m.hdr, free := false, waited := 0 }
  match s.refusal m n with
  | some why => .refused why
  | none =>
    let lost : Arrival := .accepted (s.modCore n fun c => { c with kwork := c.kwork ++ [.undelivered m 0 .nochain] })
    if m.links.isEmpty then (if queuedKind m then lost else s.arrive m n retry)
    else
      match s.intern m.part m.links with
      | (.found h, s') =>
        match s'.arrive { m with env := withChain m.env h, links := [] } n retry with
        | .refused why => .refused why
        | r => r
      | (.claimed, _) => .held
      | (.held f, _) => .scrub f
      | _ => lost

/-- A message of a kind arrives (R35, R39, R40). -/
def State.deliver (s : State) (kind : Nat) (src : MsgSrc) : State :=
  match src with
  | .wire m retry =>
    if m.kind = kind ∧ hdrMod m.hdr = s.modnum.toNat ∧ m.smod ≠ s.modnum then
      match s.arriveFar m (hdrCore m.hdr) retry with
      | .accepted s => s
      | .scrub f => s.demanded f
      | _ => s
    else s
  | .held u slot i =>
    match s.outgoing u slot i with
    | none => s
    | some o =>
      if o.msg.kind = kind ∧ o.copy.phase = .ready ∧ o.copy.dmod = s.modnum ∧ !o.behind (s.sendsBeside u) then
        match s.arrive o.msg o.copy.dcore.toNat (decide (0 < o.copy.refusals)) with
        | .accepted s =>
          let s := match o.entry.back, u with
            | some b, .ni n => s.modCore n fun c => c.moved b
            | _, _ => s
          s.dropCopy u slot i
        | .refused why => s.setCopy u slot i fun c => { c with phase := .nacked why }
        | .held => s
        | .scrub f => s.demanded f
      else s
  | .remote u slot i answer =>
    match s.outgoing u slot i with
    | none => s
    | some o =>
      if o.msg.kind = kind ∧ o.copy.phase = .ready ∧ o.copy.dmod ≠ s.modnum ∧ s.reach.contains o.copy.dmod ∧
          !o.behind (s.sendsBeside u) then
        match answer with
        | none => s.dropCopy u slot i
        | some .gone => s.setCopy u slot i fun c => { c with phase := .nacked .gone }
        | some .away => s.setCopy u slot i fun c => { c with phase := .nacked .away }
        | some .full =>
          if o.msg.kind = kindCount ∨ o.msg.kind = kindClock ∨ o.msg.kind = kindSample then s
          else s.setCopy u slot i fun c => { c with phase := .nacked .full }
        | _ => s
      else s

/-! ### Refusals and retries -/

/-- A message handed over as undeliverable (R41): to the sending core's kernel, or counted by the front end of its launch;
a core that a gang holds for it is held no longer (R51). -/
def State.handOver (s : State) (u : Sender) (slot i : Nat) (o : Outgoing) (why : Reason) : State :=
  let far := o.copy.dcore.toNat
  let s := if o.copy.dmod = s.modnum ∧ (s.getCore far).hold = some (o.msg.ltag, o.msg.work) then
      s.modCore far fun c => { c with hold := none } else s
  let give (s : State) (n : Nat) : State :=
    s.modCore n fun c => { c with kwork := c.kwork ++ [.undelivered o.msg o.copy.refusals why] }
  let s := match u with
    | .core n => give s n
    | .ni n => give s n
    | _ => s.report none (some o.msg.part) o.msg.ltag repUndelivered (reasonCode why)
  s.dropCopy u slot i

/-- The first copy of a unit's released messages that goes to module `m`. -/
def State.copyFor (s : State) (u : Sender) (m : BitVec 12) : Option (Nat × Nat × Outgoing) :=
  (s.sends u).zipIdx.findSome? fun e =>
    (List.range e.1.copies.length).findSome? fun i =>
      match s.outgoing u e.2 i with
      | some o => if o.copy.dmod = m then some (e.2, i, o) else none
      | none => none

/-- Every released copy of a unit that goes to module `m` handed over (R41), within fuel. -/
def State.handAll (s : State) (u : Sender) (m : BitVec 12) : Nat → State
  | 0 => s
  | k + 1 => match s.copyFor u m with
    | some x => (s.handOver u x.1 x.2.1 x.2.2 .unreachable).handAll u m k
    | none => s

/-- How many copies a unit's entries hold. -/
def copiesIn (l : List SendEntry) : Nat := (l.map fun e => e.copies.length).sum

/-- UNREACHABLE: another module can no longer be reached; every released message to it is handed over at once (R41). -/
def State.lostModule (s : State) (m : BitVec 12) : State :=
  if m = s.modnum then s
  else
    let units := s.coreNos.flatMap (fun n => [Sender.core n, Sender.ni n]) ++ (List.range 4).flatMap fun d => [.frontEnd d, .home d]
    units.foldl (fun s u => s.handAll u m (copiesIn (s.sends u))) { s with reach := s.reach.filter fun x => !(x == m) }

/-- The delay of R41 after the n-th refusal; a front end and a duplex home have no offset (R34). -/
def retryDelay (u : Sender) (score : BitVec 20) (n : Nat) : Nat :=
  min (32 * 2 ^ (n - 1)) 4096 + (match u with
    | .core _ => score.toNat % 32
    | .ni _ => score.toNat % 32
    | _ => 0)

/-- REFUSAL_RECEIVED (R41); a task that balancing moved stands at its original place, which it has kept, when its message is refused (R57).
[log 30 DEDUCED] -/
def State.refused (s : State) (u : Sender) (slot i : Nat) : State :=
  match s.outgoing u slot i with
  | none => s
  | some o =>
    match o.copy.phase with
    | .nacked why =>
      match o.entry.back, u with
      | some _, .ni _ => s.dropCopy u slot i
      | _, _ =>
        let k := o.copy.refusals + 1
        let o := { o with copy := { o.copy with refusals := k } }
        if why = .gone ∨ 64 ≤ k then s.handOver u slot i o why
        else s.setCopy u slot i fun c => { c with refusals := k, phase := .waiting (s.clock + retryDelay u o.msg.score k) }
    | _ => s

/-- RETRY_TIMER (R41). -/
def State.retry (s : State) (u : Sender) (slot i : Nat) : State :=
  match s.outgoing u slot i with
  | none => s
  | some o =>
    match o.copy.phase with
    | .waiting due => { s with clock := max s.clock due }.setCopy u slot i fun c => { c with phase := .ready }
    | _ => s

/-- ROUTER_SAMPLE_COMBINE: the second message is merged into the first (R239). [log 29 DEDUCED] -/
def State.combine (s : State) (u v : Sender) (slotU copyU slotV copyV : Nat) : State :=
  match s.outgoing u slotU copyU, s.outgoing v slotV copyV with
  | some x, some y =>
    if !(u = v ∧ slotU = slotV) ∧ x.msg.kind = kindSample ∧ y.msg.kind = kindSample ∧ x.copy.phase = .ready ∧
        y.copy.phase = .ready ∧ x.copy.dmod = y.copy.dmod ∧ x.copy.dcore = y.copy.dcore ∧ x.msg.part = y.msg.part ∧
        sampleTag x.msg = sampleTag y.msg then
      let p := (better (some (samplePair x.msg)) (some (samplePair y.msg))).getD (samplePair x.msg)
      let m := { x.msg with words := [x.msg.words.headD 0, p.2.setWidth 64 <<< 32 ||| p.1.setWidth 64,
                                      (sampleCount x.msg + sampleCount y.msg).setWidth 64] }
      let s := s.setSends u ((s.sends u).modify slotU fun e => { e with body := .msg m })
      s.dropCopy v slotV copyV
    else s
  | _, _ => s

/-- COUNTER_DECREMENT: decrement `i` on its way reaches its counter (R43). -/
def State.decrementArrives (s : State) (i : Nat) : State :=
  match s.decs[i]? with
  | none => s
  | some d => { s with decs := s.decs.eraseIdx i }.decrement d.core d.ctr d.by_

/-- DOWNWARD_FLIP: flip `i` on its way reaches its counter (R45). -/
def State.flipArrives (s : State) (i : Nat) : State :=
  match s.flips[i]? with
  | none => s
  | some f => { s with flips := s.flips.eraseIdx i }.modCore f.1 fun c =>
      let e := c.counter f.2
      c.setCounter f.2 { e with phase := !e.phase }

def execActiveMessage (src : MsgSrc) (s : State) : Out := .next (s.deliver kindActive src)
def execCountMessage (src : MsgSrc) (s : State) : Out := .next (s.deliver kindCount src)
def execCodeMessage (src : MsgSrc) (s : State) : Out := .next (s.deliver kindCode src)
def execDataMessage (src : MsgSrc) (s : State) : Out := .next (s.deliver kindData src)
def execSystemMessage (src : MsgSrc) (s : State) : Out := .next (s.deliver kindSystem src)
def execEventMessage (src : MsgSrc) (s : State) : Out := .next (s.deliver kindEvent src)
def execClockMessage (src : MsgSrc) (s : State) : Out := .next (s.deliver kindClock src)
def execSampleMessage (src : MsgSrc) (s : State) : Out := .next (s.deliver kindSample src)
def execRouterSampleCombine (u v : Sender) (slotU copyU slotV copyV : Nat) (s : State) : Out :=
  .next (s.combine u v slotU copyU slotV copyV)
def execRefusalReceived (u : Sender) (slot copy : Nat) (s : State) : Out := .next (s.refused u slot copy)
def execRetryTimer (u : Sender) (slot copy : Nat) (s : State) : Out := .next (s.retry u slot copy)
def execUnreachable (m : BitVec 12) (s : State) : Out := .next (s.lostModule m)
def execCounterDecrement (i : Nat) (s : State) : Out := .next (s.decrementArrives i)
def execDownwardFlip (i : Nat) (s : State) : Out := .next (s.flipArrives i)

end Sys2Proof.Machine
end

