-- ==== Sys2Proof/Machine/Front.lean ====
section
/-! DEFINITION. What the front ends' packets are built on: their accesses (R311, R317), queue state blocks and run lists
(R307 to R310), the scoreboard (R311, R312, R314) and the taking of a packet. -/

namespace Sys2Proof.Machine

/-! ### Accesses -/

/-- Where a front end's access goes: a location, a page that is missing, a frame that is scrub-pending, nowhere; it waits for a reply
already. -/
inductive FrontAt where
  | loc (mpa : Nat)
  | waits
  | miss (m : PageMiss)
  | scrub (frame : Nat)
  | failed

/-- Steps 6, 8 and 9 of R192 for a front end, which translates under the partition (R308, R311, R317). [log 73 DESIGN CHOICE] -/
def State.frontAt (s : State) (p : Nat) (addr : DWord) (w : Bool) (who : FrontWait) (ltag chain : BitVec 16) : FrontAt :=
  if isGlobal addr.toNat then
    let off := addr.toNat - 2 ^ 48
    match s.resolve p off (!w) w with
    | .error x => .miss { part := p, off := off, wr := w, fault := x, src := Config.pickOne s.tick, ltag := ltag, chain := chain,
                          asker := .front who }
    | .ok e =>
      let m := e.frame + off % 2 ^ 16
      if (s.homeOf m).isNone then .failed else if e.scrub then .scrub e.frame else .loc m
  else .failed

/-- Whether an access of a front end waits for the reply to its page request (R308, R317). -/
def State.frontWaits (s : State) (p : Nat) (who : FrontWait) : Bool := (s.part p).reqs.any fun r => r.front.contains who

/-- The fitting check of a front end: region tag 0 decides (R110, R311, R317, R297); or the frame for whose scrub its walk waits (R332). -/
def State.frontFits (s : State) (p : Nat) (chain : BitVec 16) (need : Need) : Except Nat Bool :=
  match (s.fitWalk noPanel p chain.toNat 0).1 with
  | .rule perms _ => .ok (need.within perms)
  | .held f => .error f
  | _ => .ok false

/-- How a front end's store ends: performed, waiting for a page or a scrub, failed. -/
inductive FrontEnd where
  | done (s : State)
  | waits (s : State)
  | failed

/-- Where a front end's access goes in a core's TCM or a panel scratchpad of the partition (R22, R23): a front end has neither of its own. -/
def State.frontLocal (s : State) (p : Nat) (addr : DWord) : Option Nat :=
  match rangeOf addr.toNat with
  | some (.tcm m o, _) => if s.partReaches p (panelOf m) then some (tcmBase m + o) else none
  | some (.spad q o, _) => if s.partReaches p q then some (spadBase q + o) else none
  | _ => none

/-- A front end's store of a doubleword under a chain (R311, R317): to the global region, or to a location that `near` names. [log 73 DESIGN CHOICE] -/
def State.frontStore (s : State) (p : Nat) (chain ltag : BitVec 16) (addr v : DWord) (near : Option Nat) (who : FrontWait) : FrontEnd :=
  if addr.toNat % 8 ≠ 0 ∨ (near.isNone ∧ !isGlobal addr.toNat) then .failed
  else
    match s.frontFits p chain needSt, near with
    | .error f, _ => .waits (s.demanded f)
    | .ok false, _ => .failed
    | .ok true, some m => .done (s.agentStore (some p) m 8 v.toNat false)
    | .ok true, none =>
      match s.frontAt p addr true who ltag chain with
      | .failed => .failed
      | .waits => .waits s
      | .miss m => .waits (s.pageMiss m)
      | .scrub f => .waits (s.demanded f)
      | .loc m => .done (s.agentStore (some p) m 8 v.toNat false)

/-- STAMP's count: 2.5 GHz cycles since module reset (R311, R356). -/
def State.stampNow (s : State) : DWord := BitVec.ofNat 64 (s.ref24 / 24)

/-! ### Queue state blocks -/

/-- A queue state block (R308), at its place in die SRAM. -/
structure Qsb where
  at_      : Nat
  unlink   : Bool
  next     : Nat
  rbase    : DWord
  revoking : Bool
  en       : Bool
  prio     : Nat
  part     : Nat
  log2n    : Nat
  ridx     : BitVec 32
  queue    : Nat
  cword    : DWord

/-- The die SRAM offset in bits [30:7] of a link (R308, R309). -/
def linkOff (w : DWord) : Nat := (w.extractLsb' 7 24).toNat * 128

/-- The block at an offset of a die's SRAM (R308). -/
def State.qsb (s : State) (d off : Nat) : Qsb :=
  let at_ := d * 2 ^ 31 + off
  let w (i : Nat) : DWord := s.tableWord (at_ + 8 * i)
  { at_ := at_, unlink := (w 0).getLsbD 63, next := linkOff (w 0), rbase := w 1, revoking := (w 2).getLsbD 19,
    en := (w 2).getLsbD 18, prio := ((w 2).extractLsb' 16 2).toNat, part := ((w 2).extractLsb' 8 8).toNat,
    log2n := ((w 2).extractLsb' 0 5).toNat, ridx := (w 3).extractLsb' 0 32,
    queue := d * 2048 + ((w 4).extractLsb' 0 11).toNat, cword := w 5 }

/-- The blocks of a list from an offset on, within fuel (R308, R309). -/
def State.blocks (s : State) (d : Nat) : Nat → Nat → List Qsb
  | 0, _ => []
  | k + 1, off => if off = 0 then [] else let b := s.qsb d off; b :: s.blocks d k b.next

/-- The block on a run list that serves a queue: no list has more blocks than a die has queues. -/
def State.blockOf (s : State) (q : Nat) : Option Qsb :=
  let d := q / 2048
  ((s.die d).lhead.toList.flatMap fun h => s.blocks d 2048 (linkOff h)).find? fun b => b.queue == q

/-- QERR of a block set to STAT.ERR of its window (R308). -/
def State.mirror (s : State) (b : Qsb) : State :=
  let a := b.at_ + 16
  let w := s.tableWord a
  s.putWord a (if (s.window b.queue).err then w ||| (1 <<< 20) else w &&& ~~~((1 : DWord) <<< 20))

/-- ERR set with its REASON and FIDX (R307); the block on a list mirrors it. -/
def State.queueError (s : State) (q : Nat) (reason : Byte) (fidx : BitVec 32) : State :=
  let s := s.modWindow q fun w => { w with err := true, reason := reason, fidx := fidx }
  match s.blockOf q with
  | some b => s.mirror b
  | none => s

def errOverrun : Byte := 1
def errBadkind : Byte := 2
def errBadqsb : Byte := 3
def errBadimage : Byte := 4
def errBadsignal : Byte := 5
def errDonefault : Byte := 6
def errRingfault : Byte := 7

/-- A packet's queue stopped, where it has one. [log 71 DEDUCED] -/
def State.packetError (s : State) (k : Packet) (reason : Byte) : State :=
  match k.slot with
  | some q => s.queueError q.1 reason q.2
  | none => s

/-- Whether a write index runs past the ring (R307). [log 72 DEDUCED] -/
def overruns (b : Qsb) (widx : BitVec 32) : Bool := decide (2 ^ b.log2n < (widx - b.ridx).toNat)

/-- Whether a block keeps the rules of R308 on its list. -/
def State.blockOk (s : State) (b : Qsb) (p : Nat) : Bool :=
  b.prio == p && b.part == (s.window b.queue).part.toNat && decide (1 ≤ b.log2n) && decide (b.log2n ≤ 16)

/-- Whether a partition's queues are served: it runs and is not being terminated (R328, R367). -/
def State.serves (s : State) (p : Nat) : Bool := (s.part p).en && !(s.part p).dying

/-- The block that the walker of list `p` stands at, where it takes packets (R309). -/
def State.stands (s : State) (d p : Nat) : Option Qsb :=
  let off := linkOff ((s.die d).wcur[p]?.getD 0)
  if off = 0 then none
  else
    let b := s.qsb d off
    if b.en && !b.unlink && !(s.window b.queue).err && s.blockOk b p && s.serves b.part then some b else none

/-! ### The scoreboard -/

/-- An eligible packet: its ring index, its words, its extension's words. -/
structure Eligible where
  index : BitVec 32
  words : List DWord
  ext   : Option (List DWord)

/-- What the scoreboard finds: nothing, a packet, a read that waits, a read that fails. -/
inductive Scan where
  | nothing
  | found (e : Eligible)
  | miss (m : PageMiss)
  | scrub (frame : Nat)
  | fault (index : BitVec 32)

/-- The eight doublewords at a location. -/
def State.eight (s : State) (m : Nat) : List DWord := (List.range 8).map fun i => BitVec.ofNat 64 (s.mem.read (m + 8 * i) 8)

/-- LTAG and CHAIN of a page request that belongs to no launch and no chain: R325 states none. -/
def openTag (tick : Nat) : BitVec 16 := BitVec.ofNat 16 (Config.pickOne tick)

/-- Where ring slot `i` lies (R308). -/
def State.slotAt (s : State) (b : Qsb) (i : BitVec 32) : FrontAt :=
  if b.rbase.toNat % 64 ≠ 0 then .failed
  else if s.frontWaits b.part (.slot b.queue i) then .waits
  else s.frontAt b.part (b.rbase + BitVec.ofNat 64 (64 * (i.toNat % 2 ^ b.log2n))) false (.slot b.queue i) (openTag s.tick) (openTag s.tick)

/-- A tag of a die's pool as a launch tag (R316). -/
def fullTag (d n : Nat) : BitVec 16 := BitVec.ofNat 16 (d * 2 ^ 14 + n)

/-- Whether a tag number is free in a die's pool for a partition (R316). -/
def State.tagFree (s : State) (p d n : Nat) : Bool :=
  decide (1 ≤ n) && decide (n ≤ 0x3FFF) && !(s.launches.any fun l => l.part == p && l.tag == fullTag d n)

/-- Whether a die's pool for a partition is empty (R316). -/
def State.poolEmpty (s : State) (p d : Nat) : Bool :=
  decide (0x3FFF ≤ s.launches.countP fun l => l.part == p && l.tag.toNat / 2 ^ 14 == d)

/-- KIND of a packet (R311). -/
def pktKind (ws : List DWord) : Nat := ((ws.headD 0).extractLsb' 0 4).toNat
/-- XT of a DISPATCH or POST (R313, R314). [log 74 DEDUCED] -/
def pktXt (ws : List DWord) : Bool := (pktKind ws == 2 || pktKind ws == 3) && (ws.headD 0).getLsbD 4
/-- The kinds that take a launch tag: DISPATCH, POST and COPY, which writes a record (R311, R316, R317). -/
def pktTagged (ws : List DWord) : Bool := pktKind ws == 2 || pktKind ws == 3 || pktKind ws == 4

/-- The oldest eligible packet among the 32 slots from RIDX, below the WIDX that the walker has read at its visit (R312, R314, R321); `skip` passes over the extension of a packet that
waits. [log 74 DEDUCED] -/
def State.scanFrom (s : State) (b : Qsb) : Nat → Nat → Bool → Scan
  | 0, _, _ => .nothing
  | f + 1, k, skip =>
    let w := s.window b.queue
    let avail := (((s.die (b.queue / 2048)).seen[b.prio]?.getD 0) - b.ridx).toNat
    let i := b.ridx + BitVec.ofNat 32 k
    if avail ≤ k then .nothing
    else if skip ∨ s.taken.contains ⟨b.queue, i⟩ then s.scanFrom b f (k + 1) false
    else
      match s.slotAt b i with
      | .failed => .fault i
      | .waits => .nothing
      | .miss m => .miss m
      | .scrub x => .scrub x
      | .loc m =>
        let ws := s.eight m
        let xt := pktXt ws
        let waits := (ws[1]?.getD 0) &&& ~~~w.tokens != 0
        if waits || (xt && (decide (avail ≤ k + 1) || f == 0)) || (pktTagged ws && s.poolEmpty b.part (b.queue / 2048)) then
          s.scanFrom b f (k + 1) xt
        else if xt then
          match s.slotAt b (i + 1) with
          | .failed => .fault (i + 1)
          | .waits => .nothing
          | .miss m => .miss m
          | .scrub x => .scrub x
          | .loc m => .found ⟨i, ws, some (s.eight m)⟩
        else .found ⟨i, ws, none⟩

/-- The oldest eligible packet of a block. [log 71 DEDUCED] -/
def State.scan (s : State) (b : Qsb) : Scan := s.scanFrom b 32 0 false

/-- Whether list `p` of a die has a packet ready at its walker's block (R309). -/
def State.listReady (s : State) (d p : Nat) : Bool :=
  decide (0 < (s.die d).quota[p]?.getD 0) &&
    (match s.stands d p with
     | some b => (match s.scan b with
       | .found _ => true
       | _ => false)
     | none => false)

/-- The oldest packet of a partition's device queue (R319). -/
def State.deviceHead (s : State) (d part : Nat) : Option (List DWord) :=
  ((s.die d).devq.find? fun x => x.1 == part).map fun x => x.2

/-- PRIO of a DISPATCH or POST (R313). -/
def pktPrio (ws : List DWord) : Nat := ((ws.headD 0).extractLsb' 22 2).toNat

/-- Whether a list before `p` has a packet ready: the front end issues that one first (R309); of a partition's device queue only the
head can be taken (R319). -/
def State.readyBefore (s : State) (d p : Nat) : Bool :=
  ((List.range p).any fun q => s.listReady d q) ||
    (s.die d).devq.any fun x => s.deviceHead d x.1 == some x.2 && decide (pktPrio x.2 < p) && s.serves x.1 && !s.poolEmpty x.1 d

/-! ### Taking a packet -/

/-- A packet that a front end may take now. -/
structure Offer where
  die   : Nat
  part  : Nat
  block : Option Qsb
  index : BitVec 32
  words : List DWord
  ext   : Option (List DWord)

/-- The packet of an offer. -/
def Offer.packet (o : Offer) : Packet :=
  { slot := o.block.map fun b => (b.queue, o.index), set := if o.block.isSome then o.words[2]?.getD 0 else 0, part := o.part }

/-- A doubleword of an offer's packet, of its extension. -/
def Offer.w (o : Offer) (i : Nat) : DWord := o.words[i]?.getD 0
def Offer.x (o : Offer) (i : Nat) : DWord := (o.ext.bind fun e => e[i]?).getD 0

/-- The packet of a kind that a source offers; or the state that the attempt leaves: a read that waits, an error. -/
def State.offer (s : State) (src : PktSrc) (kind : Nat) : Except State Offer :=
  match src with
  | .device d part =>
    match s.deviceHead d part with
    | none => .error s
    | some ws =>
      if pktKind ws = kind ∧ s.serves part ∧ !s.readyBefore d (pktPrio ws) then
        .ok { die := d, part := part, block := none, index := 0, words := ws, ext := none }
      else .error s
  | .ring d p =>
    match s.stands d p with
    | none => .error s
    | some b =>
      if (s.die d).quota[p]?.getD 0 = 0 ∨ s.readyBefore d p then .error s
      else
        match s.scan b with
        | .nothing => .error s
        | .miss m => .error (s.pageMiss m)
        | .scrub f => .error (s.demanded f)
        | .fault i => .error (s.queueError b.queue errRingfault i)
        | .found e =>
          if 8 < pktKind e.words then .error (s.queueError b.queue errBadkind e.index)
          else if pktKind e.words = kind then
            .ok { die := d, part := b.part, block := some b, index := e.index, words := e.words, ext := e.ext }
          else .error s

/-- RIDX past every packet that has been taken and is followed only by taken packets, within fuel (R312). [log 71 DEDUCED] -/
def State.pastTaken (s : State) (q : Nat) (i : BitVec 32) : Nat → BitVec 32 × State
  | 0 => (i, s)
  | k + 1 =>
    if s.taken.contains ⟨q, i⟩ then { s with taken := s.taken.erase ⟨q, i⟩ }.pastTaken q (i + 1) k else (i, s)

/-- A packet taken (R312): its WAIT tokens are consumed, its slots are taken, RIDX moves on. -/
def State.take (s : State) (o : Offer) : State :=
  match o.block with
  | none =>
    s.modDie o.die fun d => { d with devq := d.devq.eraseP fun x => x.1 == o.part }
  | some b =>
    let s := s.modWindow b.queue fun w => { w with tokens := w.tokens &&& ~~~(o.w 1) }
    let ext : List TakenSlot := if o.ext.isSome then [⟨b.queue, o.index + 1⟩] else []
    let s := { s with taken := (⟨b.queue, o.index⟩ : TakenSlot) :: (ext ++ s.taken) }
    let r := s.pastTaken b.queue b.ridx 64
    let a := b.at_ + 24
    let s := r.2.putWord a ((s.tableWord a &&& ~~~(0xFFFFFFFF : DWord)) ||| r.1.setWidth 64)
    let s := s.modWindow b.queue fun w => { w with ridx := r.1 }
    s.modDie o.die fun d => { d with quota := d.quota.setIfInBounds b.prio (d.quota[b.prio]?.getD 0 - 1) }

/-- Runs what a packet of a kind does once it is taken. -/
def State.onPacket (s : State) (src : PktSrc) (kind : Nat) (f : State → Offer → State) : State :=
  match s.offer src kind with
  | .error s => s
  | .ok o => f (s.take o) o

end Sys2Proof.Machine
end

