-- ==== Sys2Proof/Machine/Kernel.lean ====
section
/-! DEFINITION. What the shipped kernel does at the end of its service of a trap (R61, R374): parking, removal and its report,
the late-frame message (R270, R298) and the thimble of a trapped holder (R273, R274). -/

namespace Sys2Proof.Machine

/-- A start that the kernel removes leaves its queue; its slot or entry is freed; a counter's PEND falls again by the one
that the start's return added, and the counter's next start is queued (R43, R61). -/
def Core.takeOut (c : Core) (t : Trigger) (now : Nat) : Core :=
  let c := c.dequeue t
  match t with
  | .counter k =>
    let e := c.counter k
    (c.setCounter k { e with pend := if e.pend = 0 then 0 else e.pend - 1 }).queueStart k now
  | t => c.freeTrigger t

/-- A start removed and reported TRAPPED (R61, R374). -/
def State.removeStart (s : State) (n : Nat) (t : Trigger) (ltag : BitVec 16) (cause : Nat) : State :=
  (s.modCore n fun c => c.takeOut t s.clock).report (some n) (s.partOf n) ltag repTrapped cause

/-- A start parked under its page-request tag (R327): it leaves its queue; a counter's PEND goes on counting it. [log 33 DEDUCED] -/
def State.parkStart (s : State) (n : Nat) (t : Trigger) (tag : BitVec 12) : State :=
  s.modCore n fun c =>
    let c := { c.dequeue t with parked := c.parked ++ [(t, tag)] }
    match t with
    | .counter k => c.queueStart k s.clock
    | _ => c

/-- The units of one native service go to the overhead principal (R119). [log 6 DESIGN CHOICE] -/
def State.kernelCharge (s : State) (n : Nat) : State := s.settle (s.partOf n) 0 (Config.kernelCost s.tick)

/-- A message that the kernel of core `n` sends (R33, R34). -/
def State.kernelSend (s : State) (n prio cls dmod dcore : Nat) (words : List DWord) (chain : BitVec 16) (work : DWord)
    (ltag : BitVec 16) : State :=
  let m := niMsg s n (mkHdr 0 words.length prio cls kindActive dmod dcore) words chain.toNat work ltag
  let links := if dmod = s.modnum.toNat then [] else ((s.partOf n).bind fun p => s.chain p chain.toNat).getD []
  s.niSend n { m with links := links }

/-- The late-frame message of R270, under the chain and launch tag of the trapped task (R298). [log 20 DEDUCED] -/
def State.lateFrame (s : State) (n : Nat) (v : Service) (dsd : DWord) : State :=
  match s.partOf n with
  | none => s
  | some p =>
    let w (i : Nat) : DWord := s.guestWord p (dsd.toNat + 8 * i)
    let o := w 15
    s.kernelSend n (o.extractLsb' 38 2).toNat (o.extractLsb' 40 6).toNat (o.extractLsb' 20 12).toNat
      (o.extractLsb' 0 20).toNat [((w 0).extractLsb' 0 32).setWidth 64, BitVec.ofNat 64 v.cause, v.eval] v.chain 0 v.ltag

/-- The thimble that a trapped task of core `n` holds (R273): the one that has started it, or, for a task that a counter has started,
the one that its core holds for the same launch (R275). [log 20 DEDUCED] -/
def State.thimbleMsg (s : State) (n : Nat) (v : Service) : Option Msg :=
  match v.trigger with
  | .slot _ => ((s.getCore n).slotMsg v.trigger).filter isThimble
  | .counter _ => (((s.partOf n).bind fun p => alookup n (s.part p).holders)).filter fun m => m.ltag == v.ltag
  | _ => none

/-- The group record, the iteration and the message of the thimble that a trapped task holds (R273). [log 20 DEDUCED] -/
def State.thimbleOf (s : State) (n : Nat) (v : Service) : Option (Nat × DWord × Msg) :=
  (s.thimbleMsg n v).map fun m => ((m.words[0]?.getD 0).toNat, m.words[1]?.getD 0, m)

/-- Words of one slate written into the other, within a count (R274). -/
def State.copySlate (s : State) (p src dst : Nat) : Nat → State
  | 0 => s
  | k + 1 => (s.setGuestWord p dst (s.guestWord p src)).copySlate p (src + 8) (dst + 8) k

/-- The active slate copied into the shadow for a trapped holder (R274): editors have finished. -/
def State.slateCopied (s : State) (p grp : Nat) : State :=
  let asw := s.guestWord p grp
  let slate (i : Bool) : Nat := (s.guestWord p (grp + 8 + (if i then 8 else 0))).toNat
  let nent := ((s.guestWord p (grp + 24)).extractLsb' 0 32).toNat
  s.copySlate p (slate (asw.getLsbD 0)) (slate (!asw.getLsbD 0)) (4 * nent)

/-- The kernel's last step for a slate that is being copied, SCADD ASW, −2, as an SC operation of its core (R84, R274); none where ASW
is not die-local. [log 19 DEDUCED] -/
def State.slateOp (s : State) (n p grp : Nat) : Option ScOp :=
  match s.tableAt p grp false with
  | some e =>
    if (s.guestWord p grp).getLsbD 1 ∧ localDie (e.mpa grp) = some (dieOfCore n) then
      some { stream := .control, fn := 3, loc := e.mpa grp, val := -2, poison := false, window := none, result := none }
    else none
  | none => none

/-- The slate protocol begun for a trapped holder (R274): the copy made, the SC operation of its core waiting to be presented; none
where nothing is being copied. [log 19 DEDUCED] -/
def State.slateBegin (s : State) (n : Nat) (v : Service) : Option State :=
  match s.thimbleOf n v, s.partOf n with
  | some t, some p => (s.slateOp n p t.1).map fun op =>
      ((s.slateCopied p t.1).drain n).modCore n fun c => { c with sc := some op }
  | _, _ => none

/-- Whether the kernel must still wait for editors in progress (R274). [log 19 DEDUCED] -/
def State.slateBusy (s : State) (n : Nat) (v : Service) : Bool :=
  match s.thimbleOf n v, s.partOf n with
  | some t, some p => let asw := s.guestWord p t.1; asw.getLsbD 1 && asw >>> 8 != 0
  | _, _ => false

/-- Whether the core list of a group may be read under the holder's chain (R273): with LD and region tag 0. [log 20 DEDUCED] -/
def State.listReadable (s : State) (p h : Nat) : Bool :=
  match (s.fitWalk noPanel p h 0).1 with
  | .rule perms _ => needLd.within perms
  | _ => false

/-- The core that follows core `n` in a group's core list (R273); where the list does not name `n`, some member. [log 20 DEDUCED] -/
def State.nextHolder (s : State) (p grp n h : Nat) : Option Nat :=
  let at_ := (s.guestWord p (grp + 32)).toNat
  let count := ((s.guestWord p (grp + 40)).extractLsb' 0 16).toNat
  let member (k : Nat) : Nat := ((s.guestWord p (at_ + 4 * k / 8 * 8)).extractLsb' (4 * k % 8 * 8) 20).toNat
  if count = 0 ∨ !s.listReadable p h then none
  else
    let k := match (List.range count).find? fun k => member k == n with
      | some k => k + 1
      | none => Config.pickOne s.tick
    some (member (k % count))

/-- What the kernel does for a trapped holder of the thimble once the slate protocol is complete (R273): a fresh thimble. [log 20 DEDUCED] -/
def State.thimbleTrapped (s : State) (n : Nat) (v : Service) : State :=
  match s.thimbleOf n v, s.partOf n with
  | some t, some p =>
    let s := s.modPart p fun q => { q with holders := aerase n q.holders }
    match s.nextHolder p t.1 n v.chain.toNat with
    | some m =>
      s.kernelSend n t.2.2.prio thimbleClass s.modnum.toNat m [BitVec.ofNat 64 t.1, t.2.1 + 1] v.chain v.work v.ltag
    | none => s
  | _, _ => s

/-- What the kernel reads of a partition's memory in its service of a trap (R270, R273, R274): the DSD of a late frame; for a trapped holder
the group record, both slates, the core list and the chain. -/
def State.serviceOffs (s : State) (n : Nat) (v : Service) (p : Nat) : List Nat :=
  (match v.dsd with
   | some d => pagesIn d.toNat 128
   | none => []) ++
  (match s.thimbleOf n v with
   | some t =>
     let g (i : Nat) : Nat := (s.guestWord p (t.1 + i)).toNat
     pagesIn t.1 48 ++ pagesIn (g 8) (32 * (g 24 % 2 ^ 32)) ++ pagesIn (g 16) (32 * (g 24 % 2 ^ 32)) ++
       pagesIn (g 32) (4 * (g 40 % 2 ^ 16)) ++ s.chainOffs p v.chain.toNat
   | none => [])

/-- Whether the kernel runs the trapped start again once its page is there (R374): the thimble's handler is not restartable (R273). -/
def State.parks (s : State) (n : Nat) (v : Service) : Bool :=
  v.cause == Cause.xlat.code && v.restart && !((s.getCore n).slotMsg v.trigger).any isThimble

/-- The shipped kernel's choice for a trap that it has served (R374). [log 5 DEDUCED, log 25 DEDUCED] -/
def State.dispose (s : State) (n : Nat) (v : Service) : State :=
  if s.parks n v then
    match v.reqTag with
    | some t => s.parkStart n v.trigger t
    | none => s
  else
    let s := match v.dsd with
      | some d => s.lateFrame n v d
      | none => s
    (s.thimbleTrapped n v).removeStart n v.trigger v.ltag v.cause

end Sys2Proof.Machine
end

