-- ==== Sys2Proof/Machine/Window.lean ====
section
/-! DEFINITION. Windows and decode tables: WSET, WGET and DTLOAD (R215, R216, R24, R129). -/

namespace Sys2Proof.Machine

/-- The fields of a window descriptor that are held; every other bit reads as zero (R24, R215). -/
def windowMask : QWord := 0x00000000FFFF7FFF0FFFFFFFFFFF7FFF

/-- WSET (R215). -/
def wsetEx (w : BitVec 4) (a : Reg) : Ex Flow := do
  let v ← readClean a
  check (decide (winFmt v.bits < 13)) .illegal v.low
  modC fun c => { c with windows := c.windows.setIfInBounds w.toNat (v.bits &&& windowMask) }
  pure .seq

/-- WGET (R215): clean and untagged. -/
def wgetEx (d : Reg) (w : BitVec 4) : Ex Flow := do
  let c ← getC
  writeReg d ⟨c.windows[w.toNat]?.getD 0, false, false⟩
  pure .seq

/-- The runs of a table image: 64 quadwords (R216). [log 38 DEDUCED] -/
def imageRuns (a : Nat) : List (Nat × Nat) := (List.range 64).map fun k => (a + 16 * k, 16)

/-- A table from its image: entry c from FP32 word c, with the flags raised (R129). -/
def tableOf (image : Nat) : Vector (BitVec 19) 256 × Flags :=
  let word (c : Nat) : BitVec 19 × Flags := fp32ToE8M10 (BitVec.ofNat 32 (image / 2 ^ (32 * c)))
  (vtab 256 fun c => (word c).1, (List.range 256).foldl (fun f c => f ||| (word c).2) 0)

/-- The offset in the core's own TCM at which a table image lies, where all of it does (R216). -/
def ownImage (n : Nat) (ea : DWord) : Option Nat :=
  if isOwnTcm n ea.toNat then
    match rangeOf ea.toNat with
    | some (.ownTcm o, left) => if 1024 ≤ left then some o else none
    | some (.tcm _ o, left) => if 1024 ≤ left then some o else none
    | _ => none
  else none

/-- DTLOAD (R216, R129). [log 38 DEDUCED] -/
def dtloadEx (a : Reg) (tblB : Bool) : Ex Flow := do
  let cap ← readReg a
  let acc : Acc := { plainAcc cap a cap.low 1024 needLd with align := some 16, window := false }
  accCap acc
  accAlign acc
  let s ← getS
  match ownImage s.focus cap.low with
  | none => raise .nomap cap.low
  | some off => do
    accFit acc
    keepingWalk (s.walkUnder (capRtag cap.bits) true) (awaitMarks off 1024 cap.low)
    let x ← loadRuns false a (imageRuns (tcmBase s.focus + off))
    let t := tableOf x.value
    modC fun c => if tblB then { c with tblB := t.1 } else { c with tblA := t.1 }
    raiseFlags t.2
    pure .seq

def execWset (w : BitVec 4) (a : Reg) (s : State) : Out := finish 2 (wsetEx w a) s
def execWget (d : Reg) (w : BitVec 4) (s : State) : Out := finish 2 (wgetEx d w) s
def execDtload (a : Reg) (tblB : Bool) (s : State) : Out := finish 2 (dtloadEx a tblB) s

end Sys2Proof.Machine
end

