-- ==== Sys2Proof/Machine/Scheduler.lean ====
section
/-! DEFINITION. The scheduler of a core: the start of a task (R31, R32, R36, R37, R43, R238, R282, R284), kernel work (R53,
R57, R327), ageing (R54), the watchdog (R55) and kernel balancing (R57). -/

namespace Sys2Proof.Machine

/-- What a start gives its task (R32). -/
structure Start where
  trigger : Trigger
  regs    : List (Nat × Val)
  routine : Option Routine
  chain   : BitVec 16
  ltag    : BitVec 16
  work    : DWord
  msrc    : DWord
  emsg    : DWord
  budget  : BitVec 25
  pc      : BitVec 12
  kern    : Bool
  restart : Bool
  code    : Option (Nat × Nat)
  writes  : List (Nat × DWord × Bool)

/-- What examining a start finds: a task, or work that the kernel counts and discards, with the cause that it reports. -/
inductive Verdict where
  | go (k : Start)
  | discard (cause : Option Cause)

/-- g10 of a routine (R157): its named regions, with LD and ST. [log 26 DEDUCED] -/
def routineCap (r : Routine) : Val :=
  if r.rbytes = 0 then Val.zero
  else ⟨BitVec.ofNat 128 (3 * 2 ^ 126 + r.region.toNat * 2 ^ 104 + r.tb * 2 ^ 80 + r.rbytes * 2 ^ 64 + r.tb), true, false⟩

/-- The launch that a tag names in a partition (R316). -/
def State.launchOf (s : State) (p : Option Nat) (tag : BitVec 16) : Option Launch :=
  s.launches.find? fun l => some l.part == p && l.tag == tag

/-- g11: the launch's argument capability (R32, R314). -/
def State.argOf (s : State) (p : Option Nat) (tag : BitVec 16) : Val :=
  match (s.launchOf p tag).bind Launch.arg with
  | some c => ⟨c, true, false⟩
  | none => Val.zero

/-- The budget of a message's task (R32, R55). [log 24 DESIGN CHOICE] -/
def State.budgetOf (s : State) (p : Option Nat) (tag : BitVec 16) : BitVec 25 :=
  BitVec.ofNat 25 (min Config.maxBudget (match s.launchOf p tag with
    | some l => l.budget.toNat
    | none => Config.orphanBudget s.tick))

/-- A routine installed on a core, by index (R36), or by a parcel of its code (R32). -/
def Core.routineNo (c : Core) (r : Byte) : Option Routine := c.routines.find? fun x => x.index == r
def Core.routineAt (c : Core) (pc : BitVec 12) : Option Routine :=
  c.routines.find? fun x => decide (x.imemOff ≤ pc.toNat) && decide (pc.toNat < x.imemOff + x.nparc)

/-- g1 to g7, g8 and g9 of a message's task (R32): one mark in a payload poisons all of its registers. [log 125 DESIGN CHOICE] -/
def msgRegs (m : Msg) : List (Nat × Val) :=
  (m.words.zipIdx.map fun w => (w.2 + 1, Val.ofDWord w.1 m.poison)) ++
    (match m.cap with
      | some c => [(7, ⟨c, true, false⟩)]
      | none => []) ++ [(8, Val.ofDWord m.work false), (9, Val.ofDWord m.hdr false)]

/-- A start by a message from an inbox slot or an event-queue entry (R32, R35, R36). [log 26 DEDUCED] -/
def State.msgStart (s : State) (n : Nat) (t : Trigger) (m : Msg) : Verdict :=
  let c := s.getCore n
  let p := s.partOf n
  let h := c.handler m.cls
  let base : Start :=
    { trigger := t, regs := msgRegs m, routine := if hndValid h then c.routineNo (hndRoutine h) else none, chain := m.chain,
      ltag := m.ltag, work := m.work, msrc := m.env, emsg := m.ident, budget := s.budgetOf p m.ltag, pc := hndPc h,
      kern := hndKern h, restart := hndRestart h, code := none, writes := [] }
  match t, m.kind with
  | .slot i, 2 => .go { base with pc := 0, kern := false, restart := hndValid h && hndRestart h, code := some (i, hdrLen m.hdr) }
  | _, k =>
    if !hndValid h then .discard none
    else if k = kindData ∧ hndInen h then
      let at_ := hndInbase h
      if m.words.length ≠ 0 ∧ 0x8000 ≤ at_ + 8 * (m.words.length - 1) then .discard (some .nomap)
      else .go { base with writes := m.words.zipIdx.map fun w => (at_ + 8 * w.2, w.1, m.poison) }
    else .go base

/-- A start by a counter (R32, R43, R61): it is restartable where a handler-table entry in use with RESTART set has its PC as its
entry. [log 26 DEDUCED, log 117 DESIGN CHOICE] -/
def State.counterStart (s : State) (n k : Nat) : Verdict :=
  let c := s.getCore n
  let e := c.counter k
  match c.routineAt e.pc with
  | none => .discard (some .illegal)
  | some r => .go
    { trigger := .counter k, regs := [(1, Val.ofDWord (BitVec.ofNat 64 k) false), (2, Val.ofDWord e.arg false), (8, Val.ofDWord e.work false)],
      routine := some r, chain := e.chain, ltag := e.ltag, work := e.work, msrc := 0, emsg := BitVec.ofNat 64 (2 ^ 63 + k),
      budget := c.csr.sbudget, pc := e.pc, kern := false,
      restart := c.handlers.toList.any fun h => hndValid h && hndRestart h && hndPc h == e.pc, code := none, writes := [] }

/-- A start by a sampling slot (R238), with what the slot holds when the task starts. [log 126 DESIGN CHOICE] -/
def State.sampleStart (s : State) (n i : Nat) : Verdict :=
  let c := s.getCore n
  let e := c.sample i
  let h := c.handler e.cls.toNat
  let b := e.best.getD (0, 0)
  let reg (k v : Nat) : Nat × Val := (k, Val.ofDWord (BitVec.ofNat 64 v) false)
  if !hndValid h then .discard none
  else .go
    { trigger := .sample i, regs := [reg 1 b.1.toNat, reg 2 b.2.toNat, reg 3 e.count.toNat, reg 4 e.tag.toNat, reg 5 i, reg 8 e.work.toNat],
      routine := c.routineNo (hndRoutine h), chain := e.chain, ltag := e.ltag, work := e.work, msrc := 0,
      emsg := BitVec.ofNat 64 (2 ^ 62 + i), budget := c.csr.sbudget, pc := hndPc h, kern := hndKern h,
      restart := hndRestart h, code := none, writes := [] }

/-- What a start comes to. -/
def State.examine (s : State) (n : Nat) (t : Trigger) : Verdict :=
  let c := s.getCore n
  match t with
  | .slot i => match (c.inbox[i]?).bind id with
    | some m => s.msgStart n t m
    | none => .discard none
  | .event i => match c.ev i with
    | some e => s.msgStart n t e.msg
    | none => .discard none
  | .counter k => s.counterStart n k
  | .sample i => s.sampleStart n i

/-- The launch tag that a start names. -/
def Core.tagOf (c : Core) (t : Trigger) : BitVec 16 :=
  match t with
  | .slot i => match (c.inbox[i]?).bind id with
    | some m => m.ltag
    | none => 0
  | .event i => match c.ev i with
    | some e => e.msg.ltag
    | none => 0
  | .counter k => (c.counter k).ltag
  | .sample i => (c.sample i).ltag

/-- A register file that holds the values of a list and zeros (R32). -/
def freshRegs (l : List (Nat × Val)) : Vector Val 32 :=
  l.foldl (fun v r => v.setIfInBounds r.1 r.2) (Vector.replicate 32 Val.zero)

/-- A start taken from its queue: a counter's PEND falls, and its next start is queued behind (R43). -/
def Core.taken (c : Core) (t : Trigger) (now : Nat) : Core :=
  let c := c.dequeue t
  match t with
  | .counter k =>
    let e := c.counter k
    (c.setCounter k { e with pend := if e.pend = 0 then 0 else e.pend - 1 }).queueStart k now
  | _ => c

/-- The clock and the promise at the start of an event's task (R282). -/
def Core.eventClock (c : Core) (t : Trigger) : Core :=
  match t with
  | .event i => match c.ev i with
    | some e =>
      if e.phase == .ready then
        { c with lt := { c.lt with clock := evStamp e.msg, promise := laterOf c.lt.promise (evStamp e.msg) } }
      else c
    | none => c
  | _ => c

/-- The state of a core at the start of a task (R32): one that runs in the kernel bank has CHN of handle 0 (R101), and the window
registers hold no bit that R24 ignores; their format is not checked again. [log 110 DEDUCED, log 121 DESIGN CHOICE] -/
def State.started (s : State) (n : Nat) (k : Start) (c : Core) : Core :=
  let p := s.partOf n
  let rgn := (k.routine.map routineCap).getD Val.zero
  let regs := freshRegs (k.regs ++ [(10, rgn), (11, s.argOf p k.ltag)])
  let c := (c.taken k.trigger s.clock).unbindAll.eventClock k.trigger
  let x := c.csr
  let x := { x with fflags := 0, rmode := 0, budget := k.budget }
  let c := if k.kern then { c with kregs := regs, kpc := k.pc, csr := { x with km := true, kmeter := 0 } }
    else { c with regs := regs, pc := k.pc, csr := { x with km := false, meter := 0 } }
  { c with
    chn := if k.kern then s.kernelChn n
      else match p with
        | some q => s.chnOf q k.chain.toNat
        | none => k.chain.setWidth 64
    windows := vmap (fun w => w &&& windowMask) ((k.routine.map Routine.windows).getD (Vector.replicate 16 0))
    task := some { trigger := k.trigger, number := c.tasks + 1, rgn := rgn, work := k.work, ltag := k.ltag, msrc := k.msrc,
                   emsg := k.emsg, code := k.code, restart := k.restart, started := s.clock }
    tasks := c.tasks + 1, mxFault := none, stalled := false, hold := none,
    lt := { c.lt with blocked := none, rounds := 0 } }

/-- The payload of a DATA message written to its region (R36): to memory, past what waits in the core's store buffer. [log 118 DESIGN CHOICE] -/
def State.writeData (s : State) (n : Nat) (ws : List (Nat × DWord × Bool)) : State :=
  ws.foldl (fun s w => s.agentStore (s.partOf n) (tcmBase n + w.1) 8 w.2.1.toNat w.2.2) s

/-- A late event (R284): its task traps before its first instruction. [log 27 DEDUCED] -/
def Core.isLate (c : Core) (t : Trigger) : Option DWord :=
  match t with
  | .event i => match c.ev i with
    | some e => if e.phase == .late then some (evStamp e.msg) else none
    | none => none
  | _ => none

/-- A start taken by core `n`, once the entry of its chain can be read (R332): its task starts, or the kernel counts and discards it (R32, R36, R238).
[log 27 DEDUCED] -/
def State.begin (s : State) (n : Nat) (t : Trigger) : State :=
  match s.examine n t with
  | .go k =>
    match (if k.kern then none else (s.partOf n).bind fun p => s.heldAt p (s.chainAt p k.chain.toNat)) with
    | some f => (s.demanded f).rests n
    | none =>
      let late := (s.getCore n).isLate t
      let s := (s.writeData n k.writes).modCore n (s.started n k)
      match late with
      | none => s
      | some stamp =>
        let f := s.focus
        (trapEntry ⟨Cause.lateevent.code, stamp, none, none, none⟩ k.pc (s.focusOn n)).focusOn f
  | .discard cause =>
    let tag := (s.getCore n).tagOf t
    let s := s.modCore n fun c =>
      let c := (c.taken t s.clock).freeTrigger t
      { c with discards := c.discards + 1 }
    match cause with
    | some x => s.report (some n) (s.partOf n) tag repTrapped x.code
    | none => s

/-! ### Kernel work -/

/-- The class of the SYSTEM messages in which kernels tell their counts (R57): the model's own. -/
def balanceClass : Nat := 0

/-- The cores that core `n` balances with (R57): its ring neighbours and the same place in the four adjacent panels of its
die that belong to its partition. -/
def State.neighbours (s : State) (n : Nat) : List Nat :=
  let col := n / 64 % 64
  let row := n / 4096 % 64
  let side : List Nat :=
    (if 0 < row then [n - 4096] else []) ++ (if col < 63 then [n + 64] else []) ++ (if row < 63 then [n + 4096] else []) ++
      (if 0 < col then [n - 64] else [])
  [predecessor n, successor n] ++ side.filter fun m => (s.partOf m).isSome && s.partOf m == s.partOf n

/-- Parked starts answered (R327): returned to the heads of their queues, the first parked first, or removed. [log 33 DEDUCED] -/
def State.unpark (s : State) (n : Nat) (tag : BitVec 12) (retry : Bool) : State :=
  let c := s.getCore n
  let mine := (c.parked.filter fun p => p.2 == tag).map fun p => p.1
  let s := s.modCore n fun c => { c with parked := c.parked.filter fun p => !(p.2 == tag) }
  if retry then
    mine.reverse.foldl (fun s t => s.modCore n fun c => (c.dequeue t).enqueueHead (c.prioOf t) t s.clock) s
  else mine.foldl (fun s t => s.removeStart n t ((s.getCore n).tagOf t) Cause.xlat.code) s

/-- A SYSTEM message served (R35, R57): a neighbour's count is kept, any other is counted and discarded. [log 30 DEDUCED] -/
def State.systemMsg (s : State) (n slot : Nat) : State :=
  let c := s.getCore n
  let known : Option (Nat × Nat) := match (c.inbox[slot]?).bind id with
    | some m =>
      if m.cls = balanceClass ∧ m.words.length = 1 ∧ (s.neighbours n).contains m.score.toNat then
        some (m.score.toNat, (m.words.headD 0).toNat)
      else none
    | none => none
  s.modCore n fun c =>
    let c := { c with inbox := c.inbox.setIfInBounds slot none }
    match known with
    | some k => { c with reported := aset k.1 k.2 c.reported }
    | none => { c with discards := c.discards + 1 }

/-- One piece of kernel work (R41, R53, R289, R327). [log 5 DEDUCED] -/
def State.kernelWork (s : State) (n : Nat) (w : KWork) : State :=
  match w with
  | .system slot => s.systemMsg n slot
  | .undelivered m _ why => s.report (some n) (s.partOf n) m.ltag repUndelivered (reasonCode why)
  | .reply tag retry => s.unpark n tag retry
  | .preempt => s
  | .zerola i => s.serveZerola n i

/-! ### The next work -/

/-- Whether a panel lies in a group's panel set (R369). -/
def State.inGroup (s : State) (g : Group) (panel : Nat) : Bool :=
  (s.mem.byte (g.gsbase.toNat + panel / 8)).getLsbD (panel % 8)

/-- Whether a switch is under way in a group that holds a panel, whichever die's window the group stands in (R369). -/
def State.inSwitch (s : State) (panel : Nat) : Bool :=
  s.dies.toList.any fun d => d.groups.toList.any fun g => g.switching && s.inGroup g panel

/-- Whether a core starts no other task for now: its context is being saved, its panel removed or switched (R331, R333,
R369), or its partition terminated (R367). -/
def State.quiesced (s : State) (n p : Nat) : Bool :=
  let panel := panelOf n
  let d := s.die (dieOfPanel panel)
  !(s.part p).en || (s.part p).dying || (s.part p).context != .idle ||
    (d.cmds.any fun c => c.begun && c.panel == panel % 4096) || s.inSwitch panel

/-- Whether an item is the task that a held core waits for (R51). -/
def Core.heldFor (c : Core) (h : BitVec 16 × DWord) (t : Trigger) : Bool :=
  match t with
  | .slot i => match (c.inbox[i]?).bind id with
    | some m => m.ltag == h.1 && m.work == h.2
    | none => false
  | _ => false

/-- The start that comes next (R53): the head of the lowest-numbered queue that is not empty; a core held for a gang starts
only its member (R51). -/
def Core.nextStart (c : Core) : Option Trigger :=
  match c.hold with
  | none => c.starts.head?
  | some h => c.starts.find? (c.heldFor h)

/-- The queued and parked starts of a core, tasks on their way to a neighbour among them, and the entries of its event queue, dropped with
what they hold (R367). -/
def Core.dropStarts (c : Core) : Core :=
  let starts := (c.queues.toList.flatMap id).map QItem.what ++ c.parked.map fun x => x.1
  let c := starts.foldl (fun c t => (c.dequeue t).freeTrigger t) c
  { c with parked := [], hold := none, ni := c.ni.filter fun e => e.back.isNone, evq := Vector.replicate 64 none, counters := vmap (fun e => { e with pend := 0 }) c.counters }

/-- The records that wait for no partition any more are written (R367, step 5). [log 95 DEDUCED] -/
def State.recordsDue (s : State) : State :=
  (List.range 4).foldl (fun s d =>
    let ready (r : List Nat × List DWord) : Bool := r.1.all fun p => !(s.part p).dying && !(s.part p).doomed
    let due := (s.die d).recs.filter ready
    due.foldl (fun s r => s.errRecord d r.2) (s.modDie d fun x => { x with recs := x.recs.filter fun r => !ready r })) s

/-- A terminated partition whose launches have completed and whose tasks and commands have ended stops running (R367). -/
def State.dyingEnds (s : State) (p : Nat) : State :=
  let part := s.part p
  let busy := s.launches.any (fun l => l.part == p) || (s.jobs.any fun j => !j.finished && j.cmd.part == p) ||
    s.coreNos.any fun n => s.partOf n == some p && ((s.getCore n).task.isSome || (s.getCore n).svc.isSome)
  if part.dying && !busy then (s.modPart p fun q => { q with en := false, dying := false }).recordsDue else s

/-- STATUS of a launch of a terminated partition (R317, R367). -/
def statusMemerr : Nat := 6

/-- Partition `p` is terminated (R367, step 1): nothing more is taken or sent for it, its queued and parked work is dropped,
its launches will complete with MEMERR. -/
def State.terminateNow (s : State) (p : Nat) : State :=
  let s := s.modPart p fun q => { q with dying := true, doomed := false }
  let ended (l : Launch) : Launch :=
    if l.part = p then { l with status := statusMemerr, total := l.next, held := false, stream := none } else l
  let s := { s with launches := s.launches.map ended }
  let s := (s.coreNos.filter fun n => s.partOf n == some p).foldl (fun s n => s.modCore n Core.dropStarts) s
  let s := (List.range 4).foldl (fun s d => s.modDie d fun x => { x with devq := x.devq.filter fun e => !(e.1 == p) }) s
  s.dyingEnds p

/-- Partition `p` is terminated, after a SAVE of it that is under way (R367, R373). -/
def State.terminate (s : State) (p : Nat) : State :=
  if (s.part p).context == .saving then s.modPart p fun q => { q with doomed := true } else s.terminateNow p

/-- A core with nothing to do: with local time on it is blocked from now (R286). -/
def State.idle (s : State) (n : Nat) : State :=
  (s.modCore n fun c => c.countBlocked s.clock).rests n

/-- TASK_DISPATCH at a task boundary (R31, R53): an image to install, kernel work, the next start, or nothing. A core that
starts nothing for now still starts the gang member that it is held for (R51). -/
def State.dispatchTask (s : State) (n : Nat) : State :=
  let c := s.getCore n
  if c.task.isSome || c.km || c.out then s
  else if c.install.any fun x => some x.1 == s.partOf n then s.installNext n
  else
    match c.kwork with
    | w :: r => ((s.modCore n fun c => { c with kwork := r }).kernelWork n w).kernelCharge n
    | [] =>
      match s.partOf n with
      | none => s.idle n
      | some p =>
        if (s.part p).dying then
          let s := (s.modCore n Core.dropStarts).dyingEnds p
          s.rests n
        else if s.quiesced n p && c.hold.isNone then s.rests n
        else match c.nextStart with
          | some t => s.begin n t
          | none => s.idle n

/-! ### The watchdog and ageing -/

/-- An instruction that has begun and only waits for its answer: the watchdog acts at the boundary behind it (R86). -/
def Core.committed (c : Core) : Bool := c.sc.isSome || c.unpick.isSome

/-- Whether the body of a running repetition waits at its instruction while the control stream's trap waits for the iteration: only the
body has moved since then (R86). -/
def Core.bodyStalled (c : Core) : Bool := c.stalled && (c.rep.bind Rep.stop).isSome

/-- Whether BUDGET may be taken now: a task runs, in whichever bank, and no trap that the control stream has left waits for an iteration
that still moves (R55, R86). While the kernel serves a trap the core has no task. [log 23 DEDUCED] -/
def Core.watched (c : Core) : Option Task :=
  if c.committed || ((c.rep.bind Rep.stop).isSome && !c.bodyStalled) then none else c.task

/-- The running task's budget has run out at an instruction boundary (R55). [log 23 DEDUCED] -/
def State.expired (s : State) : Bool :=
  match s.core.watched with
  | some k => decide (s.core.csr.budget.toNat ≤ s.clock - k.started)
  | none => false

/-- BUDGET taken by the focus core, at the control stream's instruction (R55, R64, R86, R217, R240); the iteration in progress is
finished first, unless it waits. [log 23 DEDUCED] -/
def State.budgetTrap (s : State) : State :=
  let t : TrapInfo := ⟨Cause.budget.code, 0, none, none, none⟩
  let stuck := s.core.bodyStalled
  let s := { s with core := { s.core with stream := .control } }
  if stuck then trapEntry t s.core.at_ s else takeTrap t s

/-- BUDGET_EXPIRY of core `n`, when its budget is due (R55). -/
def State.budgetExpiry (s : State) (n : Nat) : State :=
  match (s.getCore n).watched with
  | none => s
  | some k =>
    let f := s.focus
    let due := k.started + (s.getCore n).csr.budget.toNat
    ({ s with clock := max s.clock due }.focusOn n).budgetTrap.focusOn f

/-- QUEUE_AGEING of item `i` of queue `q` (R54); a task on its way to a neighbour keeps its place (R57). -/
def State.age (s : State) (n q i : Nat) : State :=
  match q, ((s.getCore n).queue q)[i]? with
  | 0, _ => s
  | _, none => s
  | q + 1, some x =>
    if (s.getCore n).away x.what then s
    else
      let now := max s.clock (x.since + Config.ageing + 1)
      { s with clock := now }.modCore n fun c =>
        { c with queues := c.queues.setIfInBounds (q + 1) ((c.queue (q + 1)).eraseIdx i) }.enqueue q x.what now

/-! ### Balancing -/

/-- The message of a queue item that is FREE work and not on its way to a neighbour (R48, R57). -/
def Core.freeMsg (c : Core) (x : QItem) : Option (Nat × Msg) :=
  match x.what with
  | .slot i => match (c.inbox[i]?).bind id with
    | some m => if m.free && !c.away x.what then some (i, m) else none
    | none => none
  | _ => none

/-- The count of queued FREE tasks (R57). -/
def Core.freeCount (c : Core) : Nat := (c.queues.toList.flatMap id).countP fun x => (c.freeMsg x).isSome

/-- The last FREE item of a queue: its inbox slot and message, and since when it waits. -/
def Core.lastFree (c : Core) (q : Nat) : Option (Nat × Msg × Nat) :=
  (c.queue q).reverse.findSome? fun x => (c.freeMsg x).map fun m => (m.1, m.2, x.since)

/-- The task that moves next: from the tail of the lowest-priority queue that holds FREE work (R57). [log 30 DEDUCED] -/
def Core.toMove (c : Core) : Option (Nat × Msg × Nat) := [3, 2, 1, 0].findSome? c.lastFree

/-- Moves up to `k` tasks to a neighbour as messages, each with a send number of this core's NI (R33); each keeps its place and slot until it
is accepted (R57). [log 30 DEDUCED] -/
def State.moveTasks (s : State) (n m : Nat) : Nat → State
  | 0 => s
  | k + 1 =>
    match (s.getCore n).toMove with
    | none => s
    | some (slot, msg, since) =>
      let msg := { msg with hdr := hdrTo msg.hdr s.modnum.toNat m, waited := s.clock - since }
      (s.modCore n fun c =>
        { c with
          ni := c.ni ++ [{ order := c.orders, released := true, body := .msg (msg.numbered c.sendNo),
                           copies := [copyTo s.modnum.toNat m], back := some slot }],
          sendNo := c.sendNo + 1, orders := c.orders + 1 }).moveTasks n m k

/-- BALANCING_ROUND of core `n` (R57). [log 30 DEDUCED] -/
def State.balance (s : State) (n : Nat) : State :=
  match s.partOf n with
  | none => s
  | some _ =>
    let c := s.getCore n
    if c.out || c.task.isSome || c.km then s
    else
      let own := c.freeCount
      let tell (s : State) (m : Nat) : State :=
        s.niSend n (niMsg s n (mkHdr 0 1 0 balanceClass kindSystem s.modnum.toNat m) [BitVec.ofNat 64 own] 0 0 0)
      let s := (s.neighbours n).foldl tell s
      ((s.neighbours n).foldl (fun s m =>
        match alookup m c.reported with
        | some r => if r < own then s.moveTasks n m (min 8 ((own - r) / 4)) else s
        | none => s) s).kernelCharge n

def execTaskDispatch (core : Nat) (s : State) : Out := .next (s.dispatchTask core)
def execBudgetExpiry (core : Nat) (s : State) : Out := .next (s.budgetExpiry core)
def execQueueAgeing (core q i : Nat) (s : State) : Out := .next (s.age core q i)
def execBalancingRound (core : Nat) (s : State) : Out := .next (s.balance core)

end Sys2Proof.Machine
end

