-- ==== Sys2Proof/Machine/Launch.lean ====
section
/-! DEFINITION. Launches: their identifiers and placement (R47 to R49), admission (R52, R292, R297, R301, R302, R314, R315,
R340), the sending of their tasks (R51, R316), reports, completion and its record (R65, R98, R317). -/

namespace Sys2Proof.Machine

/-! ### Identifiers and placement -/

/-- Widths and level codes of the six fields, from doubleword 3 (R313). -/
def launchWidths (w : DWord) : List Nat := (List.range 6).map fun i => (w.extractLsb' (6 * i) 6).toNat
def launchLevels (w : DWord) : List Nat := (List.range 6).map fun i => (w.extractLsb' (36 + 3 * i) 3).toNat

/-- Extents of the fields, each read at the field's own bits of LIMIT (R313). -/
def launchExtents (limit : Nat) : List Nat → List Nat
  | [] => []
  | w :: ws => (if w = 0 then 1 else limit % 2 ^ w + 1) :: launchExtents (limit / 2 ^ w) ws

/-- The values of the fields of the `k`-th identifier in increasing order (R47). -/
def fieldValues : Nat → List Nat → List Nat
  | _, [] => []
  | k, e :: es => k % e :: fieldValues (k / e) es

/-- The identifier that field values make (R47). -/
def identOf : List Nat → List Nat → Nat
  | w :: ws, v :: vs => v + 2 ^ w * identOf ws vs
  | _, _ => 0

/-- A field of an identifier. -/
structure Field where
  width  : Nat
  level  : Nat
  extent : Nat
  value  : Nat
deriving DecidableEq, Repr

/-- The fields of an identifier of a launch with given values, F0 first. -/
def fieldsOf (l : Launch) (values : List Nat) : List Field :=
  ((l.widths.zip l.levels).zip (l.extents.zip values)).map fun x => ⟨x.1.1, x.1.2, x.2.1, x.2.2⟩

/-- The field values of an identifier (R47). -/
def identValues : List Nat → Nat → List Nat
  | [], _ => []
  | w :: ws, x => x % 2 ^ w :: identValues ws (x / 2 ^ w)

/-- The place of field values in increasing order (R47). -/
def valueIndex : List Nat → List Nat → Nat
  | e :: es, v :: vs => v + e * valueIndex es vs
  | _, _ => 0

/-- Which identifier of a launch, in increasing order, a work identifier is (R47). -/
def workIndex (l : Launch) (work : DWord) : Nat := valueIndex l.extents (identValues l.widths work.toNat)

/-- The `k`-th identifier of a launch (R47). -/
def launchIdent (l : Launch) (k : Nat) : Nat := identOf l.widths (fieldValues k l.extents)

/-- The mixed-radix number that the fields of a level select, the outer field more significant (R48). -/
def selected (fs : List Field) (level : Nat) : Option Nat :=
  let mine := fs.filter fun f => f.width != 0 && f.level == level
  if mine.isEmpty then none else some (mine.reverse.foldl (fun a f => a * f.extent + f.value) 0)

/-- MIX of the identifier with its SERIAL fields zeroed (R48). -/
def placeHash (fs : List Field) : DWord :=
  mix64 (BitVec.ofNat 64 (identOf (fs.map Field.width) (fs.map fun f => if f.level = 5 then 0 else f.value)))

/-- A level's coordinate among `count`, and whether it is hashed, from bit `at_` of the hash (R48). [log 76 DEDUCED] -/
def coordinate (fs : List Field) (h : DWord) (level at_ count : Nat) : Nat × Bool :=
  match selected fs level with
  | some v => (v % count, false)
  | none => ((h.extractLsb' at_ 16).toNat % count, true)

/-- The panel of an identifier among a partition's, and whether it is hashed (R48). [log 76 DEDUCED] -/
def placePanel (fs : List Field) (h : DWord) (panels : List Nat) : Nat × Bool :=
  match selected fs 4 with
  | some v => (panels[v % panels.length]?.getD 0, false)
  | none =>
    let dies := (panels.map dieOfPanel).eraseDups
    let d := coordinate fs h 3 48 dies.length
    let here := panels.filter fun n => dieOfPanel n == dies[d.1]?.getD 0
    let q := coordinate fs h 2 32 here.length
    (here[q.1]?.getD 0, d.2 || q.2)

/-- The core of the `k`-th identifier of a launch, and whether the task is FREE work (R48, R49). [log 76 DEDUCED] -/
def State.placeOf (s : State) (l : Launch) (k : Nat) : Option (Nat × Bool) :=
  match l.post with
  | some a => (s.owner l.part a.1).map fun n => (n, false)
  | none =>
    let panels := s.listPanels l.part
    if panels.isEmpty then none
    else
      let fs := fieldsOf l (fieldValues k l.extents)
      let h := placeHash fs
      let p := placePanel fs h panels
      let seam := coordinate fs h 1 16 8
      let core := coordinate fs h 0 0 8
      let serial := fs.any fun f => f.width != 0 && f.level == 5
      some (p.1 * 64 + seam.1 * 8 + core.1, (p.2 || seam.2 || core.2) && !serial && l.prog != 2)

/-! ### Admission -/

def statusComplete : Nat := 1
def statusBadlaunch : Nat := 2
def statusNoprogress : Nat := 3
def statusNomap : Nat := 4
def statusResized : Nat := 5

/-- A capability over [a, a + n) as CSETBND makes it, with perms and a region tag (R186, R314). -/
def launchCap (a : DWord) (n perms rtag : Nat) : QWord :=
  let e := leastExp a.toNat n 64 0
  let lo := a.toNat / 2 ^ e
  let hi := ceilDiv (a.toNat + n) (2 ^ e)
  BitVec.ofNat 128 (perms * 2 ^ 120 + rtag * 2 ^ 104 + e * 2 ^ 98 + lo % 65536 * 2 ^ 80 + (hi - lo) % 65536 * 2 ^ 64 + a.toNat)

/-- g7 of a `cap` launch (R292): CAPP gives LD, ST, ENGINE and GLOBAL. -/
def capKey (capp : BitVec 4) (rtag : Nat) : QWord :=
  let perms := (if capp.getLsbD 0 then 128 else 0) + (if capp.getLsbD 1 then 64 else 0) + (if capp.getLsbD 3 then 2 else 0) +
    (if capp.getLsbD 2 then 1 else 0)
  BitVec.ofNat 128 (perms * 2 ^ 120 + rtag * 2 ^ 104 + 9 * 2 ^ 98 + 0x8200 * 2 ^ 64)

/-- g7 of a `revoke` launch (R301). -/
def revokeKey (p prin : Nat) : QWord := BitVec.ofNat 128 (2 * 2 ^ 120 + 2 * 2 ^ 114 + p * 2 ^ 24 + prin)

/-- g11 of a `stream` launch (R297). -/
def streamCap (k : StreamKey) (rtag : Nat) : QWord :=
  BitVec.ofNat 128 (0xE2 * 2 ^ 120 + rtag * 2 ^ 104 + k.s.toNat % 65536 * 2 ^ 80 + k.l % 65536 * 2 ^ 64 + k.s.toNat)

/-- A routine that launches may name: installed, and not uninstalled (R315). -/
def State.routineOf (s : State) (p : Nat) (r : Byte) : Option RoutineInfo :=
  (s.part p).routines.find? fun i => i.routine.index == r && i.ready && !i.gone

/-- The region tag of a launch's routine. -/
def State.routineTag (s : State) (p : Nat) (r : Byte) : Nat :=
  match s.routineOf p r with
  | some i => i.routine.region.toNat
  | none => 0

/-- G7K and ARGK of an extension (R314). -/
def Offer.g7k (o : Offer) : Nat := ((o.x 0).extractLsb' 2 2).toNat
def Offer.argk (o : Offer) : Nat := ((o.x 0).extractLsb' 0 2).toNat
/-- REVP of an extension (R314). -/
def Offer.revp (o : Offer) : Nat := ((o.x 4).extractLsb' 0 24).toNat

/-- The launch of a DISPATCH or POST packet under a tag (R311, R313, R314, R316). [log 74 DEDUCED, log 75 DEDUCED] -/
def State.launchFrom (s : State) (o : Offer) (tag : BitVec 16) : Launch :=
  let w0 := o.w 0
  let r : Byte := w0.extractLsb' 8 8
  let rtag := s.routineTag o.part r
  let isPost := pktKind o.words == 3
  let widths := if isPost then [] else launchWidths (o.w 3)
  let extents := if isPost then [] else launchExtents (o.w 4).toNat widths
  { tag := tag, part := o.part, die := o.die, chain := w0.extractLsb' 32 16, routine := r, cls := w0.extractLsb' 16 6,
    prio := w0.extractLsb' 22 2, prog := w0.extractLsb' 24 2, gang := (w0.extractLsb' 26 3).toNat,
    budget := ((o.w 6).extractLsb' 0 24).setWidth 25 + 1,
    widths := widths, levels := if isPost then [] else launchLevels (o.w 3), extents := extents,
    total := extents.foldl (· * ·) 1, next := 0, held := false,
    stream := if o.argk = 2 then some ⟨o.x 1, ((o.x 2).extractLsb' 0 32).toNat, o.x 3⟩ else none,
    post := if isPost then some ((o.w 3).toNat, [o.w 4, o.w 7]) else none,
    cap := if o.g7k = 1 then some (capKey ((o.x 0).extractLsb' 4 4) rtag)
           else if o.g7k = 2 then some (revokeKey o.part o.revp) else none,
    revoke := o.g7k == 2,
    arg := if o.argk = 1 then
        some (launchCap (o.x 1) ((o.x 2).extractLsb' 0 32).toNat (if (o.x 5).getLsbD 0 then 129 else 128)
          (if (o.x 0).getLsbD 18 then ((o.x 0).extractLsb' 8 10).toNat else rtag))
      else none,
    done := if o.w 5 = 0 then (o.block.map Qsb.cword).getD 0 else o.w 5,
    packet := o.packet, nfail := 0, first := 0, cause := 0, status := 0, aside := [], rtag := BitVec.ofNat 10 rtag }

/-- Whether an entry of a partition's chain table is LIVE (R101). -/
def State.chainLive (s : State) (p h : Nat) : Bool := (s.guestWord p (s.chainAt p h)).extractLsb' 62 2 == 1#2

/-- Orders 1 to 4 of R315 but for the quadword of a `stream` key; true where one fails. [log 75 DEDUCED] -/
def State.badLaunch (s : State) (o : Offer) (l : Launch) : Bool :=
  let known := match s.routineOf l.part l.routine with
    | some i => i.classes.any fun e => e.1 == l.cls.toNat && hndValid e.2
    | none => false
  let fields := decide (l.widths.sum ≤ 64) && (l.widths.zip l.levels).all fun x => x.1 == 0 || x.2 != 7
  let progOk := l.prog != 3 && (l.prog != 2 || (decide (1 ≤ l.gang) && decide (l.gang ≤ 6)))
  let keys := o.g7k != 3 && o.argk != 3 && (!(o.x 5).getLsbD 0 || o.argk == 1)
  let sendk := o.block.isNone && (o.w 0).getLsbD 4
  let revoke := match o.block with
    | some b => b.revoking && decide (o.revp < (s.part l.part).ptcount.toNat)
    | none => false
  !(known && s.chainLive l.part l.chain.toNat && fields && progOk && keys && !sendk && (o.g7k != 2 || revoke))

/-- How many members a gang of a CONCURRENT launch has: the fields below its level (R51). -/
def gangSize (l : Launch) : Nat := (l.extents.take l.gang).foldl (· * ·) 1

/-- The cores of the members of the gang that holds identifier `k`, in order. -/
def State.gangCores (s : State) (l : Launch) (k : Nat) : List (Option Nat) :=
  (List.range (gangSize l)).map fun j => (s.placeOf l (k / gangSize l * gangSize l + j)).map fun x => x.1

/-- Whether no value stands twice in a list. -/
def allDistinct {α : Type} [BEq α] : List α → Bool
  | [] => true
  | x :: r => !(r.contains x) && allDistinct r

/-- The rules of progress (R52); true where one is broken. -/
def State.noProgress (s : State) (l : Launch) : Bool :=
  l.prog == 2 &&
    (decide (s.coreCount l.part < gangSize l) ||
      ((l.widths.zip l.levels).take l.gang).any (fun x => x.1 != 0 && (x.2 == 5 || x.2 == 6)) ||
      (s.dies.toList.any fun d => d.cmds.any fun c => c.part == l.part) ||
      (List.range (l.total / gangSize l)).any fun g => !allDistinct (s.gangCores l (g * gangSize l)))

/-- Orders 5 and 6 of R315. -/
def State.lateStatus (s : State) (l : Launch) : Option Nat :=
  if s.noProgress l then some statusNoprogress
  else match l.post with
    | some a => if (s.owner l.part a.1).isNone then some statusNomap else none
    | none => none

/-- The launch of a tag changed. -/
def State.modLaunch (s : State) (p : Nat) (tag : BitVec 16) (f : Launch → Launch) : State :=
  { s with launches := s.launches.map fun l => if l.part = p ∧ l.tag = tag then f l else l }

/-- A launch that ends before any task of it starts (R315). -/
def rejected (l : Launch) (status : Nat) : Launch :=
  { l with status := status, total := 0, next := 0, held := false, stream := none }

/-- What a `stream` key comes to: the quadword at S is the stream's sealed capability, the read waits, or it is not (R297). -/
def State.keyRead (s : State) (l : Launch) (k : StreamKey) : FrontEnd :=
  if k.s.toNat % 16 ≠ 0 ∨ !isGlobal k.s.toNat then .failed
  else
    match s.frontFits l.part l.chain needLd, s.frontAt l.part k.s false (.key l.part l.tag) l.tag l.chain with
    | .error f, _ => .waits (s.demanded f)
    | .ok false, _ => .failed
    | .ok true, .failed => .failed
    | .ok true, .waits => .waits s
    | .ok true, .miss m => .waits (s.pageMiss m)
    | .ok true, .scrub f => .waits (s.demanded f)
    | .ok true, .loc m =>
      let c := BitVec.ofNat 128 (s.mem.read m 16)
      if s.mem.tagged m && capOtype c == 3 && capAddr c == k.d then .done s else .failed

/-- The launch's tag written at S + 16 (R297). -/
def State.keyWrite (s : State) (l : Launch) (k : StreamKey) : FrontEnd :=
  match s.frontAt l.part (k.s + 16) true (.key l.part l.tag) l.tag l.chain with
  | .failed => .failed
  | .waits => .waits s
  | .miss m => .waits (s.pageMiss m)
  | .scrub f => .waits (s.demanded f)
  | .loc m => .done (s.agentStore (some l.part) m 8 l.tag.toNat false)

/-- A launch with a `stream` key goes on: its quadword, the later checks, its tag (R297, R315). -/
def State.settleKey (s : State) (l : Launch) : State :=
  match l.stream with
  | none => s
  | some k =>
    let fail (status : Nat) : State := s.modLaunch l.part l.tag fun x => rejected x status
    match s.keyRead l k with
    | .failed => fail statusBadlaunch
    | .waits s => s
    | .done _ =>
      match s.lateStatus l with
      | some status => fail status
      | none =>
        match s.keyWrite l k with
        | .failed => fail statusBadlaunch
        | .waits s => s
        | .done s => s.modLaunch l.part l.tag fun x =>
            { x with held := false, stream := none, arg := some (streamCap k l.rtag.toNat) }

/-- A DISPATCH or POST that has been taken is admitted or rejected (R315). [log 75 DEDUCED] -/
def State.admitted (s : State) (o : Offer) (tag : BitVec 16) : State :=
  let l := s.launchFrom o tag
  let add (l : Launch) : State := { s with launches := s.launches ++ [l] }
  if s.badLaunch o l then add (rejected l statusBadlaunch)
  else if l.stream.isSome then
    let l := { l with held := true }
    (add l).settleKey l
  else match s.lateStatus l with
    | some status => add (rejected l status)
    | none => add l

/-- DISPATCH (2) or POST (3) taken from a source under a tag of the front end's choice (R311, R313, R316), once the entry of its chain can
be read (R332). -/
def State.dispatchPacket (s : State) (src : PktSrc) (kind tag : Nat) : State :=
  match s.offer src kind with
  | .error s => s
  | .ok o =>
    match s.heldAt o.part (s.chainAt o.part (s.launchFrom o (fullTag o.die tag)).chain.toNat) with
    | some f => s.demanded f
    | none => if s.tagFree o.part o.die tag then (s.take o).admitted o (fullTag o.die tag) else s

/-! ### Sending the tasks -/

/-- A message of a die's front end (R33, R34, R316). -/
def State.frontSend (s : State) (d : Nat) (m : Msg) (core : Nat) : State :=
  s.modDie d fun x =>
    { x with
      fe := x.fe ++ [{ order := x.orders, released := true, body := .msg (m.numbered x.feNo), copies := [copyTo s.modnum.toNat core],
                       back := none }],
      feNo := x.feNo + 1, orders := x.orders + 1 }

/-- The words of a launch's task message (R301, R311, R316). -/
def taskWords (l : Launch) : List DWord :=
  let ws := match l.post with
    | some a => a.2
    | none => []
  if l.revoke then (ws ++ List.replicate 5 0).take 5 ++ [l.tag.setWidth 64] else ws

/-- The message of identifier `k` of a launch (R316). -/
def State.launchMsg (s : State) (l : Launch) (k core : Nat) (free : Bool) : Msg :=
  let ws := taskWords l
  let hdr := mkHdr 0 ws.length l.prio.toNat l.cls.toNat kindActive s.modnum.toNat core
  { hdr := if l.cap.isSome then hdr ||| (1 <<< 46) else hdr, words := ws, cap := l.cap,
    env := mkEnv 1 l.part l.chain.toNat s.modnum.toNat (l.die * 2 ^ 18), work := BitVec.ofNat 64 (launchIdent l k),
    launch := l.tag.setWidth 64, links := [], free := free, waited := 0, poison := false }

/-- Whether a gang may be released: each member's core waits for no other gang and has room (R51); while its partition's
context or one of its panels changes hands none is. [log 77 DEDUCED] -/
def State.gangMay (s : State) (l : Launch) (k : Nat) : Bool :=
  (s.part l.part).context == .idle &&
    (s.gangCores l k).all fun n => match n with
      | some n =>
        let c := s.getCore n
        c.hold.isNone && decide (2 ≤ c.freeSlots) && !s.inSwitch (panelOf n)
      | none => true

/-- The cores of a gang held for its members (R51). [log 77 DEDUCED] -/
def State.holdGang (s : State) (l : Launch) (k : Nat) : State :=
  ((s.gangCores l k).zipIdx).foldl (fun s x => match x.1 with
    | some n => s.modCore n fun c => { c with hold := some (l.tag, BitVec.ofNat 64 (launchIdent l (k + x.2))) }
    | none => s) s

/-- Whether a launch waits for the reply to a page request of its `stream` key (R297). -/
def State.keyWaits (s : State) (l : Launch) : Bool := s.frontWaits l.part (.key l.part l.tag)

/-- LAUNCH_TASK_SEND (R51, R316): the next identifier in increasing order; the first of a gang waits until the whole gang may
be released. A launch whose key waits for a reply sends none; one whose key has waited for a scrub tries again (R297). -/
def State.taskSend (s : State) (p : Nat) (tag : BitVec 16) : State :=
  match s.launchOf (some p) tag with
  | none => s
  | some l =>
    if l.held then (if s.keyWaits l then s else s.settleKey l)
    else if l.total ≤ l.next ∨ !s.serves p then s
    else
      let k := l.next
      let first := l.prog == 2 && k % gangSize l == 0
      if first && !s.gangMay l k then s
      else
        let s := if first then s.holdGang l k else s
        let s := s.modLaunch p tag fun x => { x with next := k + 1 }
        match s.placeOf l k with
        | none => s.report none (some p) tag repUndelivered (reasonCode .gone)
        | some x => s.frontSend l.die (s.launchMsg l k x.1 x.2) x.1

/-- SENDK_REQUEST: a released request enters the device queue of its partition on the die it names (R221, R319). [log 74 DEDUCED] -/
def State.sendkArrives (s : State) (n slot : Nat) : State :=
  match (s.getCore n).sendBuf[slot]?, s.partOf n with
  | some e, some p =>
    match e.released, e.body with
    | true, .launch die _ words =>
      (s.modCore n fun c => { c with sendBuf := c.sendBuf.eraseIdx slot }).modDie die fun d => { d with devq := d.devq ++ [(p, words)] }
    | _, _ => s
  | _, _ => s

/-! ### Completion -/

/-- Whether a send-buffer entry belongs to a launch: its message, its command, its request (R34, R98). -/
def SendEntry.carries (e : SendEntry) (p : Nat) (tag : BitVec 16) : Bool :=
  match e.body with
  | .msg m => m.part == p && m.ltag == tag
  | .launch _ t _ => t == tag
  | .engine c => c.part == p && c.ltag == tag

/-- Whether some message of a list of slots belongs to a launch. -/
def slotsCarry (l : List (Option Msg)) (tag : BitVec 16) : Bool := l.any fun x => match x with
  | some m => m.ltag == tag
  | none => false

/-- Whether a core still has work of a launch: tasks, starts, messages, matrix commands (R65, R98, R339). -/
def Core.carries (c : Core) (p : Nat) (tag : BitVec 16) : Bool :=
  let task := match c.task with
    | some k => k.ltag == tag
    | none => false
  let svc := match c.svc with
    | some v => v.ltag == tag
    | none => false
  let work := c.kwork.any fun w => match w with
    | .undelivered m _ _ => m.ltag == tag
    | _ => false
  let queued := c.queues.toList.any fun l => l.any fun x => c.tagOf x.what == tag
  task || svc || work || queued || slotsCarry c.inbox.toList tag || slotsCarry (c.evq.toList.map fun x => x.map EvEntry.msg) tag ||
    (c.parked.any fun x => c.tagOf x.1 == tag) || (c.counters.toList.any fun e => e.ltag == tag && e.pend != 0) ||
    (c.mxq.any fun x => x.ltag == tag) || ((c.sendBuf ++ c.ni).any fun e => e.carries p tag)

/-- Whether anything of a launch is still under way in the module (R65, R98, R317). -/
def State.underWay (s : State) (p : Nat) (tag : BitVec 16) : Bool :=
  (s.coreNos.any fun n => s.partOf n == some p && (s.getCore n).carries p tag) ||
    (s.jobs.any fun j => !j.finished && j.cmd.part == p && j.cmd.ltag == tag) ||
    (s.decs.any fun d => s.partOf d.core == some p && d.ltag == tag) ||
    (s.reports.any fun r => r.part == p && r.ltag == tag) ||
    (s.dies.toList.any fun d => (d.fe ++ d.home).any fun e => e.carries p tag)

/-- Whether parts of a launch lie in the save area of a panel of its partition's set (R98, R333). -/
def State.switchedOut (s : State) (l : Launch) : Bool :=
  l.aside.any fun n => s.inSet l.part n && !(s.die (dieOfPanel n)).dead.contains (n % 4096)

/-- Whether a launch has ended (R65, R98). [log 78 DEDUCED] -/
def State.launchEnded (s : State) (l : Launch) : Bool :=
  !l.held && decide (l.total ≤ l.next) && !s.underWay l.part l.tag && ((s.part l.part).dying || !s.switchedOut l)

/-- The completion record (R317). -/
def completionRecord (l : Launch) : DWord :=
  BitVec.ofNat 64 (l.nfail % 65536 * 2 ^ 48 + l.tag.toNat * 2 ^ 32 + l.cause % 64 * 2 ^ 16 + l.first % 256 * 2 ^ 8 +
    (if l.status = 0 then statusComplete else l.status))

/-- A routine uninstalled on every core that runs its partition (R311): its handler entries are made invalid. -/
def State.dropRoutine (s : State) (p : Nat) (r : Byte) : State :=
  if (s.part p).routines.any fun i => i.routine.index == r && !i.gone then s
  else
    let s := s.modPart p fun q => { q with routines := q.routines.filter fun i => !(i.routine.index == r) }
    (s.coreNos.filter fun n => s.partOf n == some p).foldl (fun s n => s.modCore n fun c =>
      { c.dropHandlers r with routines := c.routines.filter fun x => !(x.index == r) }) s

/-- UNINSTALL packets that wait for no launch any more complete (R311). [log 79 DEDUCED] -/
def State.uninstallEnds (s : State) : State :=
  let ready (k : Pending) : Option Byte := match k.body with
    | .uninstall r [] => some r
    | _ => none
  (s.pending.filter fun k => (ready k).isSome).foldl (fun s k => match ready k with
    | some r => (s.dropRoutine k.packet.part r).packetDone k.packet
    | none => s) { s with pending := s.pending.filter fun k => (ready k).isNone }

/-- A launch of a partition leaves the lists of what an UNINSTALL waits for. -/
def Pending.without (k : Pending) (p : Nat) (tag : BitVec 16) : Pending :=
  match k.body with
  | .uninstall r ts => if k.packet.part = p then { k with body := .uninstall r (ts.filter fun t => !(t == tag)) } else k
  | _ => k

/-- A launch is gone: its SET tokens are set, its tag is free again (R316, R317). -/
def State.closeLaunch (s : State) (l : Launch) : State :=
  let s := { s with launches := s.launches.filter fun x => !(x.part == l.part && x.tag == l.tag),
                    pending := s.pending.map (Pending.without · l.part l.tag) }
  ((s.packetDone l.packet).uninstallEnds).dyingEnds l.part

/-- The stores of a partition's cores performed before a launch of it completes (R98). -/
def State.drainPart (s : State) (p : Nat) : State :=
  (s.coreNos.filter fun n => s.partOf n == some p).foldl (fun s n => (s.drain n).land fun f => f.core == n) s

/-- A completion record dropped: ERR with DONEFAULT (R317). -/
def State.recordDropped (s : State) (l : Launch) : State := (s.packetError l.packet errDonefault).closeLaunch l

/-- LAUNCH_COMPLETE (R65, R98, R317). [log 78 DEDUCED] -/
def State.launchCompletes (s : State) (p : Nat) (tag : BitVec 16) : State :=
  match s.launchOf (some p) tag with
  | none => s.dyingEnds p
  | some l =>
    if s.launchEnded l && !s.frontWaits p (.record p tag) then
      let s := s.drainPart p
      if l.done = 0 then s.closeLaunch l
      else match s.frontStore p l.chain l.tag l.done (completionRecord l) none (.record p tag) with
        | .done s => s.closeLaunch l
        | .waits s => s
        | .failed => s.recordDropped l
    else s

/-- FAILURE_REPORT: report `i` reaches its front end (R317). -/
def State.reportArrives (s : State) (i : Nat) : State :=
  match s.reports[i]? with
  | none => s
  | some r =>
    { s with reports := s.reports.eraseIdx i }.modLaunch r.part r.ltag fun l =>
      { l with nfail := min 65535 (l.nfail + 1), first := if l.first = 0 then r.kind else l.first,
               cause := if l.first = 0 then r.cause % 64 else l.cause }

def execDispatch (src : PktSrc) (tag : Nat) (s : State) : Out := .next (s.dispatchPacket src 2 tag)
def execPostPacket (src : PktSrc) (tag : Nat) (s : State) : Out := .next (s.dispatchPacket src 3 tag)
def execSendkRequest (core slot : Nat) (s : State) : Out := .next (s.sendkArrives core slot)
def execLaunchTaskSend (part tag : Nat) (s : State) : Out := .next (s.taskSend part (BitVec.ofNat 16 tag))
def execLaunchComplete (part tag : Nat) (s : State) : Out := .next (s.launchCompletes part (BitVec.ofNat 16 tag))
def execFailureReport (i : Nat) (s : State) : Out := .next (s.reportArrives i)

end Sys2Proof.Machine
end

