-- ==== Sys2Proof/Machine/Packets.lean ====
section
/-! DEFINITION. The doorbell and the walkers (R307 to R310, R321), and the packets that are no launch of tasks: NOP, INSTALL,
COPY, SIGNAL, WRITE, STAMP, UNINSTALL (R311, R318). -/

namespace Sys2Proof.Machine

/-- The agents that reach the physical function's registers (R306, R343). -/
def asPf : RegAgent → Bool
  | .pf => true
  | .flint _ => true
  | _ => false

/-- Whether an agent may write a queue window (R306, R307). [log 74 DEDUCED] -/
def State.ownsQueue (s : State) (a : RegAgent) (q : Nat) : Bool :=
  match a with
  | .vf n => (s.window q).part.toNat == n
  | a => asPf a

/-- WIDX: the doorbell (R307). [log 72 DEDUCED] -/
def State.doorbell (s : State) (a : RegAgent) (q : Nat) (v : BitVec 32) : State :=
  if s.ownsQueue a q then
    let s := s.modWindow q fun w => { w with widx := v }
    match s.blockOf q with
    | some b => if overruns b v then s.queueError q errOverrun v else s
    | none => s
  else s

/-- QUEUE_ERR_CLEAR: the physical function writes 1 to ERR (R307, R321). -/
def State.errClear (s : State) (q : Nat) : State :=
  let s := s.modWindow q fun w => { w with err := false }
  match s.blockOf q with
  | some b => s.mirror b
  | none => s

/-- The checks of a block that a walker has come to (R307, R308, R311); the WIDX that it reads is the one of its visit (R321). [log 72 DEDUCED] -/
def State.visit (s : State) (d p : Nat) (b : Qsb) : State :=
  let s := (s.modWindow b.queue fun w => { w with ridx := b.ridx }).mirror b
  let w := s.window b.queue
  if !b.en || b.unlink || w.err then s
  else if !s.blockOk b p then s.queueError b.queue errBadqsb b.ridx
  else if !s.serves b.part then s
  else if overruns b w.widx then s.queueError b.queue errOverrun w.widx
  else
    let s := s.modDie d fun x => { x with quota := x.quota.setIfInBounds p 8, seen := x.seen.setIfInBounds p w.widx }
    match s.scan b with
    | .found e => if 8 < pktKind e.words then s.queueError b.queue errBadkind e.index else s
    | .fault i => s.queueError b.queue errRingfault i
    | .miss m => s.pageMiss m
    | .scrub f => s.demanded f
    | .nothing => s

/-- WALKER_STEP (R309): the walker reads NEXT of where it stands and moves there; PASS rises. -/
def State.walk (s : State) (d p : Nat) : State :=
  let x := s.die d
  let cur := x.wcur[p]?.getD 0
  let at_ := linkOff cur
  let next := if at_ = 0 then linkOff (x.lhead[p]?.getD 0) else (s.qsb d at_).next
  let pass := (cur.extractLsb' 40 24).toNat + 1
  let s := s.modDie d fun x =>
    { x with wcur := x.wcur.setIfInBounds p (BitVec.ofNat 64 (pass % 2 ^ 24 * 2 ^ 40 + next)), quota := x.quota.setIfInBounds p 0 }
  if next = 0 then s else s.visit d p (s.qsb d next)

/-! ### INSTALL and UNINSTALL -/

/-- The first page of an image that cannot be read now, among `k` pages from an address on (R318). -/
def State.imageFound (s : State) (p q : Nat) (i : BitVec 32) (addr : DWord) : Nat → FrontAt
  | 0 => .loc 0
  | k + 1 =>
    match s.frontAt p addr false (.image q i) (openTag s.tick) (openTag s.tick) with
    | .loc _ => s.imageFound p q i (BitVec.ofNat 64 (addr.toNat / 2 ^ 16 * 2 ^ 16 + 2 ^ 16)) k
    | x => x

/-- What the read of an image comes to (R318): it waits for a reply, or what its pages give. -/
def State.imageRead (s : State) (p q : Nat) (i : BitVec 32) (addr : DWord) (k : Nat) : FrontAt :=
  if s.frontWaits p (.image q i) then .waits else s.imageFound p q i addr k

/-- How many pages [addr, addr + n) touches. -/
def pagesOf (addr n : Nat) : Nat := if n = 0 then 0 else (addr % 2 ^ 16 + n - 1) / 2 ^ 16 + 1

/-- Whether [a, a + n) and [b, b + m) meet. [log 70 DESIGN CHOICE] -/
def meets (a n b m : Nat) : Bool := decide (0 < n) && decide (0 < m) && decide (a < b + m) && decide (b < a + n)

/-- Whether an image is rejected (R318): a routine counts until its UNINSTALL has completed (R311). [log 70 DESIGN CHOICE] -/
def State.badImage (s : State) (p q len : Nat) (i : RoutineInfo) : Bool :=
  let r := i.routine
  let others := (s.part p).routines.filter fun x => !(x.routine.index == r.index)
  decide (4096 < r.imemOff + r.nparc) || decide (0x8000 < r.tb + r.rbytes) ||
    len != (imageParts r.nparc r.rbytes i.classes.length).ends ||
    (i.classes.any (fun e => hndKern e.2) && !Config.pfQueue q) ||
    others.any fun x =>
      meets r.imemOff r.nparc x.routine.imemOff x.routine.nparc || meets r.tb r.rbytes x.routine.tb x.routine.rbytes ||
        i.classes.any fun e => x.classes.any fun f => f.1 == e.1 && hndValid f.2

/-- A routine kept by its front end, behind the others: one of the same index gives up its place (R318, R331). -/
def Part.addRoutine (q : Part) (i : RoutineInfo) : Part :=
  { q with routines := q.routines.filter (fun x => !(x.routine.index == i.routine.index)) ++ [i] }

/-- The cores of a panel. -/
def panelCores (panel : Nat) : List Nat := (List.range 64).map fun k => panel * 64 + k

/-- An image given to cores, which install it at their next task boundaries (R318). -/
def State.giveImage (s : State) (p : Nat) (r : Byte) (job : Nat) (cores : List Nat) : State :=
  cores.foldl (fun s n => s.modCore n fun c => { c with install := c.install ++ [(p, r, job)] }) s

/-- INSTALL (R318). An image that is rejected leaves its packet untaken. -/
def State.installPacket (s : State) (src : PktSrc) : State :=
  match s.offer src 1 with
  | .error s => s
  | .ok o =>
    let q := (o.packet.slot.map fun x => x.1).getD 0
    let addr := o.w 3
    let len := ((o.w 4).extractLsb' 0 32).toNat
    let reject : State := s.packetError o.packet errBadimage
    match s.imageRead o.part q o.index addr (pagesOf addr.toNat len) with
    | .waits => s
    | .miss m => s.pageMiss m
    | .scrub f => s.demanded f
    | .failed => reject
    | .loc _ =>
      let r : Byte := (o.w 0).extractLsb' 8 8
      let x := s.imageOf o.part (addr.toNat - 2 ^ 48) r
      let old := (s.part o.part).routines.find? fun i => i.routine.index == r && !i.gone
      let i : RoutineInfo :=
        { routine := x.1, image := addr - 2 ^ 48, bytes := len, classes := s.imageHandlers o.part (addr.toNat - 2 ^ 48) x.1 x.2,
          ready := (old.map RoutineInfo.ready).getD false, gone := false }
      if s.badImage o.part q len i then reject
      else
        let job := s.nextId
        let s := (s.take o).modPart o.part fun p => p.addRoutine i
        let s := { s with nextId := job + 1, pending := s.pending ++ [({ packet := o.packet, body := .install r job } : Pending)] }
        (s.giveImage o.part r job ((s.listPanels o.part).flatMap panelCores)).installEnds o.part job r

/-- A COPY is a launch without tasks (R311). -/
def isCopy (l : Launch) : Bool := l.extents.isEmpty && l.post.isNone

/-- UNINSTALL (R311): the earlier launches that name the routine are waited for. [log 79 DEDUCED] -/
def State.uninstallPacket (s : State) (src : PktSrc) : State :=
  s.onPacket src 8 fun s o =>
    let r : Byte := (o.w 0).extractLsb' 8 8
    let tags := (s.launches.filter fun l => l.part == o.part && l.routine == r && !isCopy l).map Launch.tag
    let s := s.modPart o.part fun p =>
      { p with routines := p.routines.map fun i => if i.routine.index = r then { i with gone := true } else i }
    { s with pending := s.pending ++ [({ packet := o.packet, body := .uninstall r tags } : Pending)] }.uninstallEnds

/-! ### COPY -/

/-- The streamer of a COPY's source among the partition's (R94, R311, R330, R338). [log 85 DEDUCED] -/
def State.copyStreamer (s : State) (p die : Nat) (src : DWord) : Option Nat :=
  let first := (s.ownedOf die p 0 64).head?.map (streamerKey die)
  match rangeOf src.toNat with
  | some (.global off, _) =>
    match s.resolve p off true false with
    | .ok e => if (s.walkHold p off).isSome then first else s.beside p (e.frame + off % 2 ^ 16) die
    | .error _ => first
  | some (.tcm m _, _) => some (panelOf m)
  | some (.spad q _, _) => some q
  | _ => first

/-- The core number under which a die's front end issues its commands, outside all core numbers. -/
def frontCore (die : Nat) : Nat := 2097152 + die

/-- The engine command of a COPY (R255, R311): region tag 0, the partition's price. -/
def State.copyCmd (s : State) (o : Offer) (tag : BitVec 16) : EngCmd :=
  let len := ((o.w 6).extractLsb' 0 32).toNat
  { kind := .cpy, core := frontCore o.die, part := o.part, chain := (o.w 0).extractLsb' 32 16, ltag := tag, work := 0,
    eng64 := (s.part o.part).price1.extractLsb' 0 16, src := launchCap (o.w 3) len 128 0, dst := launchCap (o.w 4) len 64 0,
    desc := 0, rows := 1, rowLen := len, idxOff := 0, sStep := 0, dStep := 0, remote := none, wmen := false, chan := 0,
    cen := false, cctr := 0, ccore := 0, mbox := none }

/-- The launch of a COPY: no identifiers (R311, R317). -/
def copyLaunch (o : Offer) (tag : BitVec 16) : Launch :=
  { tag := tag, part := o.part, die := o.die, chain := (o.w 0).extractLsb' 32 16, routine := 0, cls := 0, prio := 0, prog := 0,
    gang := 0, budget := 0, widths := [], levels := [], extents := [], total := 0, next := 0, held := false, stream := none,
    post := none, cap := none, revoke := false, arg := none,
    done := if o.w 5 = 0 then (o.block.map Qsb.cword).getD 0 else o.w 5, packet := o.packet, nfail := 0, first := 0, cause := 0,
    status := 0, aside := [], rtag := 0 }

/-- COPY (R311). -/
def State.copyPacket (s : State) (src : PktSrc) (tag : Nat) : State :=
  match s.offer src 4 with
  | .error s => s
  | .ok o =>
    if s.tagFree o.part o.die tag then
      let t := fullTag o.die tag
      let s := s.take o
      { s with launches := s.launches ++ [copyLaunch o t] }.startJob (s.copyCmd o t) (s.copyStreamer o.part o.die (o.w 3))
    else s

/-! ### NOP, SIGNAL, WRITE, STAMP -/

/-- NOP (R311). -/
def State.nopPacket (s : State) (src : PktSrc) : State := s.onPacket src 0 fun s o => s.packetDone o.packet

/-- SIGNAL (R311): the target window's PART alone decides. -/
def State.signalPacket (s : State) (src : PktSrc) : State :=
  s.onPacket src 5 fun s o =>
    let q := ((o.w 3).extractLsb' 0 13).toNat
    if (s.window q).part.toNat = o.part then
      (s.modWindow q fun w => { w with tokens := w.tokens ||| o.w 4 }).packetDone o.packet
    else s.packetError o.packet errBadsignal

/-- A store of a WRITE or STAMP packet tried (R311): it completes the packet, waits, or stops the queue. -/
def State.storeTried (s : State) (k : Packet) (chain : BitVec 16) (addr : DWord) (value : Option DWord) : State :=
  let who : FrontWait := match k.slot with
    | some q => .store q.1 q.2
    | none => .store 0 0
  match s.frontStore k.part chain (openTag s.tick) addr (value.getD s.stampNow) (s.frontLocal k.part addr) who with
  | .done s => s.packetDone k
  | .waits s => { s with pending := s.pending ++ [({ packet := k, body := .store chain addr value } : Pending)] }
  | .failed => s.packetError k errDonefault

/-- WRITE and STAMP (R311). -/
def State.storePacket (s : State) (src : PktSrc) (kind : Nat) (value : Offer → Option DWord) : State :=
  s.onPacket src kind fun s o => s.storeTried o.packet ((o.w 0).extractLsb' 32 16) (o.w 3) (value o)

/-- A WRITE or STAMP that has waited is tried again, or has been refused (R311). -/
def State.storeAnswered (s : State) (q : Nat) (i : BitVec 32) (retry : Bool) : State :=
  match s.pending.find? fun k => k.packet.slot == some (q, i) with
  | none => s
  | some k =>
    match k.body with
    | .store chain addr value =>
      let s := { s with pending := s.pending.erase k }
      if retry then s.storeTried k.packet chain addr value else s.packetError k.packet errDonefault
    | _ => s

def execWidx (agent : RegAgent) (queue : Nat) (v : BitVec 32) (s : State) : Out := .next (s.doorbell agent queue v)
def execQueueErrClear (queue : Nat) (s : State) : Out := .next (s.errClear queue)
def execWalkerStep (die prio : Nat) (s : State) : Out := .next (s.walk die prio)
def execNop (src : PktSrc) (s : State) : Out := .next (s.nopPacket src)
def execInstall (src : PktSrc) (s : State) : Out := .next (s.installPacket src)
def execCopy (src : PktSrc) (tag : Nat) (s : State) : Out := .next (s.copyPacket src tag)
def execSignal (src : PktSrc) (s : State) : Out := .next (s.signalPacket src)
def execWrite (src : PktSrc) (s : State) : Out := .next (s.storePacket src 6 fun o => some (o.w 4))
def execStamp (src : PktSrc) (s : State) : Out := .next (s.storePacket src 7 fun _ => none)
def execUninstall (src : PktSrc) (s : State) : Out := .next (s.uninstallPacket src)

end Sys2Proof.Machine
end

