-- ==== Sys2Proof/Machine/Partition.lean ====
section
/-! DEFINITION. Partitions: page requests and their replies (R325 to R327), translation flushes (R324), EN (R328, R335), panel
commands (R331, R64) and the scrub streamer (R332). -/

namespace Sys2Proof.Machine

/-! ### Page requests and replies -/

/-- PRQRIDX: consumed records make room, which held requests take in their order (R325). -/
def State.requestsRead (s : State) (p : Nat) (v : BitVec 32) : State :=
  let s := s.modPart p fun q => { q with prqridx := v }
  s.issueReqs p (s.part p).reqs.length 0

/-- A command told of a reply for one of its pieces (R327): a set-aside mailbox write that is refused ends it at once. [log 82 DEDUCED] -/
def State.jobAnswered (s : State) (x : Nat × Nat) (retry : Bool) : State :=
  if retry then s
  else
    match s.jobs[x.1]? with
    | none => s
    | some j =>
      if j.finished then s
      else if j.cmd.total ≤ x.2 then s.closeJob x.1 (some Cause.xlat.code)
      else { s with jobs := s.jobs.set x.1 { j with failed := j.failed.or (some Cause.xlat.code) } }

/-- A front end told of a reply (R308, R311, R317, R318, R297). -/
def State.frontAnswered (s : State) (w : FrontWait) (retry : Bool) : State :=
  match w with
  | .slot q i => if retry then s else s.queueError q errRingfault i
  | .image q i => if retry then s else s.queueError q errBadimage i
  | .store q i => s.storeAnswered q i retry
  | .record p tag =>
    match s.launchOf (some p) tag with
    | some l => if retry then s else s.recordDropped l
    | none => s
  | .key p tag => if retry then s else s.modLaunch p tag fun l => if l.held then rejected l statusBadlaunch else l

/-- One reply read (R326, R327): its tag is free, everyone who asked is told. -/
def State.reply (s : State) (p : Nat) (tag : BitVec 12) (retry : Bool) : State :=
  match (s.part p).reqs.find? fun r => r.tag == some tag with
  | none => s
  | some r =>
    let s := s.modPart p fun q => { q with reqs := q.reqs.erase r }
    let s := r.cores.foldl (fun s n => s.modCore n fun c => { c with kwork := c.kwork ++ [.reply tag retry] }) s
    let s := r.jobs.foldl (fun s x => s.jobAnswered x retry) s
    let s := r.front.foldl (fun s w => s.frontAnswered w retry) s
    s.issueReqs p (s.part p).reqs.length 0

/-- The replies up to RPWIDX read in order, within fuel (R326). [log 82 DEDUCED] -/
def State.readReplies (s : State) (p : Nat) : Nat → State
  | 0 => s
  | k + 1 =>
    let q := s.part p
    if q.rpridx = q.rpwidx then s
    else
      let w := s.tableWord (q.rpbase.toNat + 16 * (q.rpridx.toNat % 2 ^ q.rplog.toNat))
      let s := s.modPart p fun q => { q with rpridx := q.rpridx + 1 }
      (s.reply p (w.extractLsb' 0 12) ((w.extractLsb' 16 2) == 1)).readReplies p k

/-- Whether a partition is away from a panel of its set that a time-share group rotates, or is being saved there (R337, R369). -/
def State.slicedOut (s : State) (p : Nat) : Bool :=
  let mine (e : Bool × BitVec 6) : Bool := e.1 && e.2.toNat == p
  (s.panels p).any fun n => s.dies.toList.any fun d => d.groups.toList.any fun g =>
    g.en && g.ents.toList.any mine && s.inGroup g n &&
      (g.switching || !((g.ents[g.cur.toNat]?).any mine) || s.occupant n != some p)

/-- Replies wait while the partition's context is saved or being saved (R337, R369). [log 82 DEDUCED] -/
def State.repliesMay (s : State) (p : Nat) : Bool := (s.part p).context == .idle && !(s.part p).out && !s.slicedOut p

/-- RPWIDX: replies are published (R326). -/
def State.published (s : State) (p : Nat) (v : BitVec 32) : State :=
  let s := s.modPart p fun q => { q with rpwidx := v }
  if s.repliesMay p then s.readReplies p 65536 else s

/-- Whether a core is at a task boundary. -/
def Core.boundary (c : Core) : Bool := c.task.isNone && !c.km

/-- KERNEL_REPLY: the kernel of a core applies a reply that waits as kernel work (R327, R337). -/
def State.kernelReplies (s : State) (n : Nat) : State :=
  let c := s.getCore n
  let isReply (w : KWork) : Option (BitVec 12 × Bool) := match w with
    | .reply tag retry => some (tag, retry)
    | _ => none
  if c.boundary && !c.out then
    match c.kwork.findSome? isReply with
    | some r =>
      let s := s.modCore n fun c => { c with kwork := c.kwork.erase (.reply r.1 r.2) }
      (s.unpark n r.1 r.2).kernelCharge n
    | none => s
  else s

/-- XLFLUSH (R324, R328, R337): every translation of the partition goes; walks take the G1ROOT written last. [log 81 DEDUCED] -/
def State.xlFlushed (s : State) (p : Nat) : State :=
  (s.modPart p fun q => { q with g1live := q.g1root, xlflush := false }).ptcDrop fun _ e => e.part == p

/-! ### EN -/

/-- The start of a partition's context on a core (R328, R262): its prices, without the bits that R117 ignores, and SBUDGET. [log 80 DEDUCED] -/
def Core.contextStart (c : Core) (p : Part) : Core :=
  { c with csr := { c.csr with price0 := p.price0, price1 := (p.price1.extractLsb' 0 32).setWidth 64, sbudget := 0x1000000 } }

/-- A partition occupies a panel (R329). [log 80 DEDUCED] -/
def State.occupy (s : State) (p panel : Nat) : State :=
  let part := s.part p
  let s := s.modDie (dieOfPanel panel) fun d => { d with occ := aset (panel % 4096) (BitVec.ofNat 6 p) d.occ }
  (panelCores panel).foldl (fun s n => s.modCore n fun c => c.contextStart part) s

/-- A panel left without occupant (R329). -/
def State.vacate (s : State) (panel : Nat) : State :=
  s.modDie (dieOfPanel panel) fun d => { d with occ := aerase (panel % 4096) d.occ }

/-- EN (R328, R335): a partition that starts occupies the panels of its set that nobody occupies, unless its context has
been saved. [log 80 DEDUCED] -/
def State.enabled (s : State) (p : Nat) (v : Bool) : State :=
  let was := (s.part p).en
  let s := s.modPart p fun q => { q with en := v }
  if v && !was && !(s.part p).out then
    ((s.panels p).filter fun n => s.occupant n == some p || ((s.occupant n).isNone && !(s.die (dieOfPanel n)).dead.contains (n % 4096))).foldl
      (fun s n => s.occupy p n) s
  else s

/-! ### Panel commands -/

/-- The bit of a panel in a panel set at an MPA (R328, R369). -/
def State.setBit (s : State) (base panel : Nat) (v : Bool) : State :=
  let a := base + panel / 8
  let b := s.mem.byte a
  let m : Byte := 1 <<< (panel % 8)
  if (s.homeOf a).isSome then { s with mem := s.mem.setByte a (if v then b ||| m else b &&& ~~~m) } else s

/-- The bit of a panel in a partition's panel set (R328, R331). -/
def State.setPanelBit (s : State) (p panel : Nat) (v : Bool) : State := s.setBit (s.part p).psbase.toNat panel v

/-- A launch loses placed work to a resize (R64, R331). [log 83 DEDUCED] -/
def State.resized (s : State) (p : Nat) (tag : BitVec 16) : State :=
  s.modLaunch p tag fun l => { l with status := if l.status = 0 then statusResized else l.status }

/-- FREE work returns to the front end of its launch, which places it again (R64, R331). -/
def State.rehash (s : State) (p : Nat) (m : Msg) : State :=
  match s.launchOf (some p) m.ltag with
  | none => s.report none (some p) m.ltag repUndelivered (reasonCode .gone)
  | some l =>
    match s.placeOf l (workIndex l m.work) with
    | none => s.report none (some p) m.ltag repUndelivered (reasonCode .gone)
    | some x => s.frontSend l.die { m with hdr := hdrTo m.hdr s.modnum.toNat x.1, waited := 0 } x.1

/-- A start of a core taken away from it by a resize (R64, R331). -/
def State.evictStart (s : State) (n p : Nat) (t : Trigger) : State :=
  let c := s.getCore n
  let tag := c.tagOf t
  let s := s.modCore n fun c => { (c.dequeue t).freeTrigger t with parked := c.parked.filter fun x => !(x.1 == t) }
  match c.freeMsg ⟨t, 0⟩ with
  | some m => s.rehash p m.2
  | none => s.resized p tag

/-- Whether the starts of a core may be taken away from it by a panel command: it is at a task boundary, no trap is being served and no task
is on its way to a neighbour, or it is out of service (R331). -/
def Core.leaves (c : Core) : Bool := c.out || (c.boundary && c.svc.isNone && c.ni.all fun e => e.back.isNone)

/-- All queued and parked starts of a core, and the event-queue entries that are not queued, taken away from it at a task boundary (R331):
a start that runs, or whose trap is being served, stays until then. -/
def State.evictCore (s : State) (n p : Nat) : State :=
  let c := s.getCore n
  if !c.leaves then s
  else
    let starts := ((c.queues.toList.flatMap id).map QItem.what ++ c.parked.map fun x => x.1) ++
      ((List.range Config.eventEntries).filter fun i => (c.ev i).isSome).map Trigger.event
    starts.eraseDups.foldl (fun s t => s.evictStart n p t) s

/-- Whether a gang of a launch has a member on a panel. -/
def State.gangSpans (s : State) (l : Launch) (g panel : Nat) : Bool :=
  (s.gangCores l (g * gangSize l)).any fun n => n.map panelOf == some panel

/-- Whether a message starts a member of gang `g` of a launch. -/
def inGang (l : Launch) (g : Nat) (m : Msg) : Bool := m.ltag == l.tag && m.src == 1 && workIndex l m.work / gangSize l == g

/-- A gang aborted (R64, R331): its members that have not started are gone, its cores are held no longer, and what is left of
it is not sent. -/
def State.abortGang (s : State) (l : Launch) (g : Nat) : State :=
  let mine (m : Msg) : Bool := m.part == l.part && inGang l g m
  let s := (s.coreNos.filter fun n => s.partOf n == some l.part).foldl (fun s n => s.modCore n fun c =>
    let c := { c with hold := c.hold.filter fun h => !(h.1 == l.tag && workIndex l h.2 / gangSize l == g) }
    (List.range Config.inboxSlots).foldl (fun c i => match (c.inbox[i]?).bind id with
      | some m => if mine m && c.queued (.slot i) && c.svc.map Service.trigger != some (.slot i) then (c.dequeue (.slot i)).freeTrigger (.slot i) else c
      | none => c) c) s
  let s := s.modDie l.die fun d => { d with fe := d.fe.filter fun e => match e.body with
    | .msg m => !mine m
    | _ => true }
  s.modLaunch l.part l.tag fun x =>
    { x with status := if x.status = 0 then statusResized else x.status,
             next := if x.next / gangSize x = g ∧ x.next % gangSize x ≠ 0 then (g + 1) * gangSize x else x.next }

/-- Whether a gang is alive: released, with a member that has not ended. -/
def State.gangAlive (s : State) (l : Launch) (g : Nat) : Bool :=
  let mine (m : Msg) : Bool := m.part == l.part && inGang l g m
  (s.coreNos.any fun n => s.partOf n == some l.part && (
    let c := s.getCore n
    (c.inbox.toList.any fun x => match x with
      | some m => mine m
      | none => false) ||
    (match c.hold with
      | some h => h.1 == l.tag && workIndex l h.2 / gangSize l == g
      | none => false))) ||
  ((s.die l.die).fe.any fun e => match e.body with
    | .msg m => mine m
    | _ => false)

/-- The CONCURRENT gangs of a partition that are alive and have a member on a panel (R51, R331). -/
def State.gangsOn (s : State) (p panel : Nat) : List (Launch × Nat) :=
  (s.launches.filter fun l => l.part == p && l.prog == 2 && decide (0 < l.next)).flatMap fun l =>
    ((List.range ((l.next - 1) / gangSize l + 1)).filter fun g => s.gangSpans l g panel && s.gangAlive l g).map fun g => (l, g)

/-- What a core's removal and a saved context leave of it (R331, R333): no work, no state of the partition's. -/
def Core.cleared (c : Core) : Core :=
  { c.unbindAll with
    link := [], counters := Vector.replicate 64 Counter.zero, handlers := Vector.replicate 64 0, windows := Vector.replicate 16 0,
    tblA := presetA, tblB := presetB, fit := [], wms := Vector.replicate 4 Watermark.zero,
    samples := Vector.replicate 64 SampleSlot.zero, lt := LocalTime.zero, inbox := Vector.replicate 32 none, parked := [],
    evq := Vector.replicate 64 none, queues := Vector.replicate 4 [], kwork := [], sendBuf := [], latch := Latch.zero,
    inbound := none, mxq := [], slots := [], weight := 1, mxFault := none, early := [], pendRel := none, routines := [], reported := [], hold := none }

/-- Whether a core can be let go of: at a task boundary, its kernel work and matrix commands done, nothing of its own waiting
to be accepted but released messages of its tasks. -/
def Core.quiet (c : Core) : Bool :=
  c.boundary && c.svc.isNone && c.kwork.isEmpty && c.mxq.isEmpty && c.ni.isEmpty && c.sc.isNone && c.rread.isNone && c.unpick.isNone

/-- Whether every core of a panel is quiet, or out of service. -/
def State.panelQuiet (s : State) (panel : Nat) : Bool :=
  (panelCores panel).all fun n => (s.getCore n).out || (s.getCore n).quiet

/-- The stores and lines of a panel's cores gone home, its fitting and translation entries dropped (R331, R333). -/
def State.panelFlushed (s : State) (panel : Nat) : State :=
  let s := (panelCores panel).foldl (fun s n =>
    (((s.drain n).land fun f => f.core == n).releaseAll n).modCore n fun c => { c with fit := [] }) s
  { s with ptcs := aerase panel s.ptcs, strFit := aerase panel s.strFit }

/-- A panel's memories cleared (R331): the TCMs of its cores and its scratchpad. -/
def State.panelCleared (s : State) (panel : Nat) : State :=
  let m := (panelCores panel).foldl (fun m n => m.clear (tcmBase n) 65536) s.mem
  let s := { s with mem := m.clear (spadBase panel) 262144 }
  (panelCores panel).foldl (fun s n => s.modCore n Core.cleared) s

/-- Whether a panel is free of the other agents that change hands (R331, R337, R369, R373): no save of the partition runs, no
group that holds it is switching. -/
def State.panelFree (s : State) (p panel : Nat) : Bool :=
  (s.part p).context == .idle && !s.inSwitch panel

/-- REMOVE begins (R331): the panel leaves the core list, its queued work leaves it, gangs that span it are aborted. -/
def State.removeBegins (s : State) (p panel : Nat) : State :=
  let s := (s.gangsOn p panel).foldl (fun s x => s.abortGang x.1 x.2) s
  if s.occupant panel = some p then (panelCores panel).foldl (fun s n => s.evictCore n p) s else s

/-- Whether the panel of a REMOVE has come to rest (R331): its cores quiet, nothing of theirs on its way, their engine
commands finished. -/
def State.panelAtRest (s : State) (panel : Nat) : Bool :=
  s.panelQuiet panel && ((panelCores panel).all fun n => (s.getCore n).out || (s.getCore n).sendBuf.isEmpty) &&
    !(s.jobs.any fun j => !j.finished && panelOf j.cmd.core == panel && decide (j.cmd.core < 1048576))

/-- REMOVE ends (R331). -/
def State.removeEnds (s : State) (p panel : Nat) : State :=
  let s := if s.occupant panel = some p then
      let s := (panelCores panel).foldl (fun s n => s.evictCore n p) s
      ((s.panelFlushed panel).panelCleared panel).vacate panel
    else s
  (s.setPanelBit p panel false).modPart p fun q => { q with holders := q.holders.filter fun h => !(panelOf h.1 == panel) }

/-- ADD begins (R331): the bit is set and every routine's image is repeated in order. [log 83 DEDUCED] -/
def State.addBegins (s : State) (p panel : Nat) : State :=
  let s := s.setPanelBit p panel true
  let s := if (s.occupant panel).isNone && !(s.part p).out then s.occupy p panel else s
  let job := s.nextId
  ((s.part p).routines.filter fun i => !i.gone).foldl (fun s i => s.giveImage p i.routine.index job (panelCores panel))
    { s with nextId := job + 1 }

/-- Whether every core of a panel has installed what waits for it of a partition that occupies it. -/
def State.panelFilled (s : State) (p panel : Nat) : Bool :=
  s.occupant panel != some p || (panelCores panel).all fun n => (s.getCore n).out || !((s.getCore n).install.any fun x => x.1 == p)

/-- The head of a die's panel commands changed, or gone. -/
def Die.modHead (d : Die) (f : PanelCmd → Option PanelCmd) : Die :=
  match d.cmds with
  | [] => d
  | c :: r => { d with cmds := (f c).toList ++ r }

/-- A panel command carried on (R331): it begins, or ends when everything it waits for has come about. [log 83 DEDUCED] -/
def State.panelStep (s : State) (d : Nat) : State :=
  match (s.die d).cmds with
  | [] => s
  | c :: _ =>
    let panel := d * 4096 + c.panel
    let gone (s : State) : State := s.modDie d fun x => x.modHead fun _ => none
    if !s.panelFree c.part panel then s
    else match c.op, c.begun with
      | .remove, false => (s.modDie d fun x => x.modHead fun c => some { c with begun := true }).removeBegins c.part panel
      | .remove, true => if s.panelAtRest panel ∨ s.occupant panel ≠ some c.part then gone (s.removeEnds c.part panel) else s
      | .add, false =>
        if (s.die d).dead.contains c.panel then gone s
        else (s.modDie d fun x => x.modHead fun c => some { c with begun := true }).addBegins c.part panel
      | .add, true => if s.panelFilled c.part panel then gone s else s
      | .retire, _ => s

/-- A panel command given for a panel of a die (R329): it waits behind those that are there, and begins where there are none (R331). -/
def State.panelGiven (s : State) (d p panel : Nat) (op : PanelOp) : State :=
  let first := (s.die d).cmds.isEmpty
  let s := s.modDie d fun x =>
    { x with cmds := x.cmds ++ [({ part := p, op := op, panel := panel, begun := false, fill := false, since := s.stampNow } : PanelCmd)] }
  if first then s.panelStep d else s

/-- PANEL_REMOVE and PANEL_ADD: a command is given, or, when it is already there, the die's first command is carried on
(R329, R331). [log 83 DEDUCED] -/
def State.panelCommand (s : State) (d p panel : Nat) (op : PanelOp) : State :=
  if (s.die d).cmds.any fun c => c.part == p && c.panel == panel && c.op == op then s.panelStep d else s.panelGiven d p panel op

/-! ### Scrub-pending frames -/

/-- The entry that the scrub streamer serves next: of a frame that an access has met, else the oldest (R332). [log 85 DEDUCED] -/
def State.scrubNext (s : State) (d : Nat) : Option ScrubEntry :=
  let l := s.scrubWaiting d
  match (s.die d).demand.findSome? fun f => l.find? fun e => e.frame == f with
  | some e => some e
  | none => l.head?

/-- SCRUB_ENTRY (R332): the next entry is served; WRITEs and STAMPs that have met a frame go on, unless they wait for a reply. -/
def State.scrubbed (s : State) (d : Nat) : State :=
  let s := match s.scrubNext d with
    | some e => s.frameScrubbed d e
    | none => s
  let tried (k : Pending) : Option (Nat × BitVec 32) := k.packet.slot.filter fun q => !s.frontWaits k.packet.part (.store q.1 q.2)
  (s.pending.filterMap tried).foldl (fun s q => s.storeAnswered q.1 q.2 true) s

/-- SQWIDX: scrub-queue entries are published (R329, R332). -/
def State.scrubGiven (s : State) (d : Nat) (v : BitVec 32) : State := s.modDie d fun x => { x with sqwidx := v }

def execPrqridx (part : Nat) (v : BitVec 32) (s : State) : Out := .next (s.requestsRead part v)
def execRpwidx (part : Nat) (v : BitVec 32) (s : State) : Out := .next (s.published part v)
def execKernelReply (core : Nat) (s : State) : Out := .next (s.kernelReplies core)
def execXlflush (part : Nat) (s : State) : Out := .next (s.xlFlushed part)
def execEn (part : Nat) (v : Bool) (s : State) : Out := .next (s.enabled part v)
def execPanelRemove (die part panel : Nat) (s : State) : Out := .next (s.panelCommand die part panel .remove)
def execPanelAdd (die part panel : Nat) (s : State) : Out := .next (s.panelCommand die part panel .add)
def execSqwidx (die : Nat) (v : BitVec 32) (s : State) : Out := .next (s.scrubGiven die v)
def execScrubEntry (die : Nat) (s : State) : Out := .next (s.scrubbed die)

end Sys2Proof.Machine
end

