-- ==== Sys2Proof/Machine/SaveArea.lean ====
section
/-! DEFINITION. The save area of a core (R334): what SAVE writes and RESTORE reads, doubleword by doubleword. Where R334 gives a
part no inner layout, the layout is the model's own. -/

namespace Sys2Proof.Machine

/-- A list of words cut or filled with zeros to a length. -/
def padTo (n : Nat) (l : List DWord) : List DWord := (l ++ List.replicate n 0).take n

/-- A bit as a number. -/
def bit (b : Bool) (k : Nat) : Nat := if b then 2 ^ k else 0

/-- Bits [hi: lo] of a word, as a number. -/
def part64 (w : DWord) (lo n : Nat) : Nat := w.toNat / 2 ^ lo % 2 ^ n

/-! ### Messages -/

/-- A message in 96 bytes (R334): header, payload, trailer, TP. `flags` goes to [28:16] of doubleword 10 and `high` to [63:57]
of TP; a capability's upper half is split over doubleword 10 and TP, and FREE work is marked in doubleword 10 [29]. -/
def msgWords (m : Msg) (flags high : Nat) : List DWord :=
  let cap := (m.cap.getD 0).toNat
  let payload := padTo 7 m.words
  let payload := if m.cap.isSome then payload.set 6 (BitVec.ofNat 64 cap) else payload
  let up := cap / 2 ^ 64
  let launch := m.ltag.toNat + flags % 2 ^ 13 * 2 ^ 16 + bit m.free 29 + up % 2 ^ 32 * 2 ^ 32
  let tp := (if m.poison then 0xFE else 0) + bit m.cap.isSome 19 + up / 2 ^ 32 * 2 ^ 24 + high % 2 ^ 7 * 2 ^ 57
  m.hdr :: payload ++ [m.env, m.work, BitVec.ofNat 64 launch, BitVec.ofNat 64 tp]

/-- Words of a save area by index. -/
abbrev Words := Nat → DWord

/-- A message read back (R334). -/
def msgOf (w : Words) (at_ : Nat) : Msg :=
  let hdr := cleanHdr (w at_)
  let l := w (at_ + 10)
  let tp := w (at_ + 11)
  let cap := (w (at_ + 7)).toNat + part64 l 32 32 * 2 ^ 64 + part64 tp 24 32 * 2 ^ 96
  { hdr := hdr, words := (List.range (hdrLen hdr)).map fun i => w (at_ + 1 + i),
    cap := if tp.getLsbD 19 then some (BitVec.ofNat 128 cap) else none, env := w (at_ + 8), work := w (at_ + 9),
    launch := BitVec.ofNat 64 (part64 l 0 16), links := [], free := l.getLsbD 29, waited := 0, poison := tp.getLsbD 1 }

/-- Twelve zero words: an empty slot. -/
def emptySlot : List DWord := List.replicate 12 0

/-- The inbox: a parked message holds its tag plus 1 (R334). -/
def inboxWords (c : Core) : List DWord :=
  (List.range 32).flatMap fun i => match (c.inbox[i]?).bind id with
    | some m => msgWords m ((c.parked.findSome? fun x => if x.1 == .slot i then some (x.2.toNat + 1) else none).getD 0) 0
    | none => emptySlot

/-- The copies that wait in a send buffer: message, copy. -/
def waitingCopies (c : Core) : List (Msg × Copy) :=
  c.sendBuf.flatMap fun e => match e.body with
    | .msg m => e.copies.map fun k => (m, k)
    | _ => []

/-- The send and retry buffer: one entry for each copy, marked in TP [57], with its refusal count (R334). -/
def sendWords (c : Core) : List DWord :=
  padTo 192 ((waitingCopies c).flatMap fun x =>
    msgWords { x.1 with hdr := hdrTo x.1.hdr x.2.dmod.toNat x.2.dcore.toNat } 0 (x.2.refusals % 64 * 2 + 1))

/-- The send buffer read back; to another module the links of the chain go along again (R104). -/
def State.sendsOf (s : State) (p : Nat) (w : Words) : List SendEntry :=
  (List.range 16).filterMap fun i =>
    let tp := w (0x200 + 12 * i + 11)
    if tp.getLsbD 57 then
      let m := msgOf w (0x200 + 12 * i)
      let far := hdrMod m.hdr != s.modnum.toNat
      some { order := i, released := true, body := .msg { m with links := if far then (s.chain p m.chain.toNat).getD [] else [] },
             copies := [⟨BitVec.ofNat 12 (hdrMod m.hdr), BitVec.ofNat 20 (hdrCore m.hdr), part64 tp 58 6, .ready⟩], back := none }
    else none

/-! ### Counters, handlers, samples -/

/-- A counter's image (R42, R334). -/
def counterWords (e : Counter) : List DWord :=
  [BitVec.ofNat 64 (e.reload.toNat * 2 ^ 32 + e.count.toNat),
   BitVec.ofNat 64 (bit e.hen 63 + bit e.pen 62 + bit e.phase 61 + e.prio.toNat * 2 ^ 59 + e.pctr.toNat * 2 ^ 53 + e.pcore.toNat * 2 ^ 33 +
     bit e.ovr 32 + e.chain.toNat * 2 ^ 16 + e.pc.toNat),
   e.arg, e.work, BitVec.ofNat 64 (bit e.parent.isSome 63 + e.pend.toNat * 2 ^ 16 + e.ltag.toNat)]

/-- A counter read back (R334): a registered one under the parent that its image names. -/
def counterOf (w : Words) (at_ : Nat) : Counter :=
  let d0 := w at_
  let d1 := w (at_ + 1)
  let d4 := w (at_ + 4)
  { reload := d0.extractLsb' 32 32, count := d0.extractLsb' 0 32, hen := d1.getLsbD 63, pen := d1.getLsbD 62, phase := d1.getLsbD 61,
    prio := d1.extractLsb' 59 2, pctr := d1.extractLsb' 53 6, pcore := d1.extractLsb' 33 20, ovr := d1.getLsbD 32,
    chain := d1.extractLsb' 16 16, pc := d1.extractLsb' 0 12, arg := w (at_ + 2), work := w (at_ + 3), pend := d4.extractLsb' 16 16,
    ltag := d4.extractLsb' 0 16, parent := if d4.getLsbD 63 then some (part64 d1 33 20, part64 d1 53 6) else none }

/-- A sampling slot in 32 bytes. -/
def sampleWords (e : SampleSlot) : List DWord :=
  let b := e.best.getD (0, 0)
  [BitVec.ofNat 64 (e.tag.toNat * 2 ^ 32 + e.expect.toNat * 2 ^ 16 + e.cls.toNat * 2 ^ 8 + e.prio.toNat * 2 ^ 4 + bit e.complete 2 +
     bit e.best.isSome 1 + bit e.armed 0),
   BitVec.ofNat 64 (b.1.toNat * 2 ^ 32 + b.2.toNat), BitVec.ofNat 64 (e.count.toNat * 2 ^ 32 + e.chain.toNat * 2 ^ 16 + e.ltag.toNat), e.work]

/-- A sampling slot read back. -/
def sampleOf (w : Words) (at_ : Nat) : SampleSlot :=
  let a := w at_
  let b := w (at_ + 1)
  let k := w (at_ + 2)
  { armed := a.getLsbD 0, tag := a.extractLsb' 32 32, expect := a.extractLsb' 16 16, cls := a.extractLsb' 8 6, prio := a.extractLsb' 4 2,
    best := if a.getLsbD 1 then some (b.extractLsb' 32 32, b.extractLsb' 0 32) else none, count := k.extractLsb' 32 32,
    complete := a.getLsbD 2, chain := k.extractLsb' 16 16, ltag := k.extractLsb' 0 16, work := w (at_ + 3) }

/-! ### Local time -/

/-- A channel word as LTCHAN takes it (R231). -/
def chanWord (out valid : Bool) (ch : Nat) (la mod core : Nat) : DWord :=
  BitVec.ofNat 64 (bit out 63 + bit valid 62 + ch * 2 ^ 48 + la * 2 ^ 32 + mod * 2 ^ 20 + core)

/-- How many initiators of a probe record a save area has room for (R334). [log 84 DESIGN CHOICE] -/
def recordRoom : Nat := 28

/-- The probe record: an initiator with the set of channels that carried its probes. -/
def recordWord (x : Nat × List Nat) : DWord :=
  BitVec.ofNat 64 (bit true 63 + (x.2.foldl (fun a k => a ||| 2 ^ (k % 8)) 0) * 2 ^ 32 + x.1 % 2 ^ 32)

/-- The probe record read back. -/
def recordsOf (w : Words) (at_ n : Nat) : List (Nat × List Nat) :=
  (List.range n).filterMap fun i =>
    let x := w (at_ + i)
    if x.getLsbD 63 then some (part64 x 0 32, (List.range 8).filter fun k => x.getLsbD (32 + k)) else none

/-- Local time (R334): ON, clock, promise, the channel words, the sequence counts, the announced clocks, the probe record. -/
def ltWords (l : LocalTime) : List DWord :=
  padTo 64
    ([BitVec.ofNat 64 (bit l.on 0 + bit l.pending.isSome 1 + l.pending.getD 0 % 2 ^ 32 * 2 ^ 32), l.clock, l.promise] ++
      (l.ins.toList.zipIdx.map fun x => chanWord false x.1.valid x.2 x.1.la.toNat x.1.mod.toNat x.1.core.toNat) ++
      (l.outs.toList.zipIdx.map fun x => chanWord true x.1.valid x.2 x.1.la.toNat x.1.mod.toNat x.1.core.toNat) ++
      (l.ins.toList.map fun x => x.seq.setWidth 64) ++ (l.ins.toList.map fun x => x.last) ++ (l.record.take recordRoom).map recordWord)

/-- Local time read back; a core that was blocked is blocked anew when it goes idle. -/
def ltOf (w : Words) (at_ : Nat) : LocalTime :=
  { on := (w at_).getLsbD 0, clock := w (at_ + 1), promise := w (at_ + 2),
    ins := vtab 8 fun i =>
      let x := w (at_ + 3 + i)
      { valid := x.getLsbD 62, la := x.extractLsb' 32 16, mod := x.extractLsb' 20 12, core := x.extractLsb' 0 20,
        last := w (at_ + 27 + i), seq := (w (at_ + 19 + i)).extractLsb' 0 32 },
    outs := vtab 8 fun i =>
      let x := w (at_ + 11 + i)
      { valid := x.getLsbD 62, la := x.extractLsb' 32 16, mod := x.extractLsb' 20 12, core := x.extractLsb' 0 20 },
    blocked := none, rounds := 0, seen := 0, record := recordsOf w (at_ + 35) recordRoom,
    pending := if (w at_).getLsbD 1 then some (part64 (w at_) 32 32) else none }

/-- The key of an event-queue entry: stamp, sequence count. -/
def keyWords (e : Option EvEntry) : List DWord :=
  match e with
  | some e => [evStamp e.msg, e.seq.setWidth 64]
  | none => [0, 0]

/-- The event queue: doubleword 10 [16] marks an entry in use, [17] a late one, [18] one that has moved to its priority queue
(R334). -/
def eventWords (e : Option EvEntry) : List DWord :=
  match e with
  | some e => msgWords e.msg (1 + (if e.phase == .late then 2 else 0) + (if e.phase == .ready then 4 else 0)) 0
  | none => emptySlot

/-- An event-queue entry read back. -/
def eventOf (w : Words) (i : Nat) : Option EvEntry :=
  let at_ := 0x1B00 + 12 * i
  let l := w (at_ + 10)
  if l.getLsbD 16 then
    some ⟨msgOf w at_, (w (0x580 + 2 * i + 1)).extractLsb' 0 32,
      if l.getLsbD 17 then .late else if l.getLsbD 18 then .ready else .waiting⟩
  else none

/-! ### Tables, latches, channels -/

/-- 32-bit values two to a doubleword. -/
def pairWords : List Nat → List DWord
  | a :: b :: r => BitVec.ofNat 64 (b * 2 ^ 32 + a) :: pairWords r
  | [a] => [BitVec.ofNat 64 a]
  | [] => []

/-- The `i`-th 32-bit value from a doubleword on. -/
def half (w : Words) (at_ i : Nat) : Nat := part64 (w (at_ + i / 2)) (32 * (i % 2)) 32

/-- A latch in 512 32-bit words: the value in [18:0], the row's poison in [31] (R334). -/
def latchWords (l : Latch) : List DWord :=
  pairWords (l.vals.toList.zipIdx.map fun x => x.1.toNat + bit (l.poison.getLsbD (x.2 / 8)) 31)

/-- A latch read back. -/
def latchOf (w : Words) (at_ : Nat) : Latch :=
  { vals := vtab 512 fun i => BitVec.ofNat 19 (half w at_ i),
    poison := BitVec.ofNat 64 (((List.range 64).map fun k => bit (decide (2 ^ 31 ≤ half w at_ (8 * k))) k).sum) }

/-- A watermark channel in 32 bytes: B, LEN, W, whether it has stopped, and the reorder bitmap from W + 256 on (R97). -/
def wmWords (x : Watermark) : List DWord :=
  let map := ((List.range 64).map fun k => bit (rangeHolds (x.w + 256 * (k + 1)) (x.w + 256 * (k + 2)) x.got) k).sum
  [BitVec.ofNat 64 (x.base.toNat + x.len.toNat * 2 ^ 16 + x.w % 2 ^ 24 * 2 ^ 32 + bit x.stopped 63), BitVec.ofNat 64 map, 0, 0]

/-- A watermark channel read back. -/
def wmOf (w : Words) (at_ : Nat) : Watermark :=
  let a := w at_
  let m := w (at_ + 1)
  let mark := part64 a 32 24
  let got := if mark = 0 then [] else [(0, mark)]
  { base := a.extractLsb' 0 15, len := a.extractLsb' 16 16, w := mark, stopped := a.getLsbD 63,
    got := (List.range 64).foldl (fun g k => if m.getLsbD k then addRange (mark + 256 * (k + 1)) (mark + 256 * (k + 2)) g else g) got }

/-- The ring-link entries, with their count, poison and tags in the words behind them. -/
def linkWords (l : List Val) : List DWord :=
  padTo 8 (l.flatMap fun v => [v.bits.extractLsb' 0 64, v.bits.extractLsb' 64 64]) ++
    padTo 8 [BitVec.ofNat 64 l.length, BitVec.ofNat 64 ((l.zipIdx.map fun x => bit x.1.poison x.2 + bit x.1.tag (x.2 + 8)).sum)]

/-- The ring-link entries read back. -/
def linkOf (w : Words) (at_ : Nat) : List Val :=
  (List.range (min 4 (part64 (w (at_ + 8)) 0 8))).map fun i =>
    ⟨(w (at_ + 2 * i + 1)).setWidth 128 <<< 64 ||| (w (at_ + 2 * i)).setWidth 128, (w (at_ + 9)).getLsbD (i + 8), (w (at_ + 9)).getLsbD i⟩

/-- The tile slots in use (R244, R334): the slot-use mask, and a descriptor for each slot, the TCM offset of the record it mirrors; after
MXSPILL none is dirty. [log 84 DESIGN CHOICE] -/
def slotWords (l : List TileSlot) : List DWord :=
  BitVec.ofNat 64 ((l.map fun x => 2 ^ (x.index % 32)).sum) :: (List.range 32).flatMap fun i =>
    [BitVec.ofNat 64 (((l.find? fun x => x.index == i).map TileSlot.tile).getD 0), 0]

/-- The tile slots read back. -/
def slotsOf (w : Words) (at_ : Nat) : List TileSlot :=
  (List.range 32).filterMap fun i => if (w at_).getLsbD i then some ⟨i, part64 (w (at_ + 1 + 2 * i)) 0 16, false⟩ else none

/-! ### TCM -/

/-- Whether an offset of TCM lies in a region of an installed routine. -/
def Core.regionByte (c : Core) (o : Nat) : Bool := c.routines.any fun r => decide (r.tb ≤ o) && decide (o < r.tb + r.rbytes)

/-- A doubleword of TCM as it is saved: bytes outside the regions are zero (R334). -/
def State.tcmWord (s : State) (n : Nat) (c : Core) (i : Nat) : DWord :=
  BitVec.ofNat 64 (((List.range 8).map fun k =>
    if c.regionByte (8 * i + k) then (s.mem.byte (tcmBase n + 8 * i + k)).toNat * 2 ^ (8 * k) else 0).sum)

/-- A TP word of 128 bytes of TCM (R334). -/
def State.tcmTp (s : State) (n : Nat) (i : Nat) : DWord :=
  let a := tcmBase n + 128 * i
  BitVec.ofNat 64 (((List.range 16).map fun k => bit (s.mem.poisoned (a + 8 * k)) k).sum +
    ((List.range 8).map fun k => bit (s.mem.tagged (a + 16 * k)) (16 + k)).sum)

/-- TCM read back: bytes, marks and tags. -/
def loadTcm (w : Words) (n : Nat) (m : Memory) : Memory :=
  let m := m.clear (tcmBase n) 32768
  let m := (List.range 4096).foldl (fun m i => let v := w (0xA00 + i); if v = 0 then m else m.write (tcmBase n + 8 * i) 8 v.toNat) m
  (List.range 256).foldl (fun m i =>
    let t := w (0x1A00 + i)
    let a := tcmBase n + 128 * i
    let m := (List.range 16).foldl (fun m k => if t.getLsbD k then m.setPoison (a + 8 * k) true else m) m
    (List.range 8).foldl (fun m k => if t.getLsbD (16 + k) then m.setTag (a + 16 * k) true else m) m) m

/-! ### Queue order -/

/-- Kind and number of a start (R334). -/
def triggerCode : Trigger → Nat × Nat
  | .slot i => (0, i)
  | .counter k => (1, k)
  | .sample i => (2, i)
  | .event i => (3, i)

/-- A start read back. -/
def triggerOf (kind i : Nat) : Trigger :=
  match kind with
  | 0 => .slot i
  | 1 => .counter i
  | 2 => .sample i
  | _ => .event i

/-- The order of the queues (R334); a parked start that is no message stands there too, with its tag plus 1 in [28:16]. -/
def orderWords (c : Core) (now : Nat) : List DWord :=
  let word (q waited tag : Nat) (t : Trigger) : DWord :=
    BitVec.ofNat 64 (2 ^ 63 + q % 4 * 2 ^ 61 + min waited (2 ^ 21 - 1) * 2 ^ 40 + tag * 2 ^ 16 + (triggerCode t).1 * 2 ^ 6 + (triggerCode t).2 % 64)
  let queued := (List.range 4).flatMap fun q => (c.queue q).map fun x => word q (now - x.since) 0 x.what
  let parked := (c.parked.filter fun x => (triggerCode x.1).1 != 0).map fun x => word (c.prioOf x.1) 0 (x.2.toNat + 1) x.1
  padTo 224 (queued ++ parked)

/-- The queues read back. -/
def queueOf (w : Words) (q now : Nat) : List QItem :=
  (List.range 224).filterMap fun i =>
    let x := w (0x1E00 + i)
    if x.getLsbD 63 && part64 x 61 2 == q && part64 x 16 13 == 0 then some ⟨triggerOf (part64 x 6 2) (part64 x 0 6), now - part64 x 40 21⟩ else none

/-- The parked starts read back: messages from their slots, the others from the order. -/
def parkedOf (w : Words) : List (Trigger × BitVec 12) :=
  ((List.range 32).filterMap fun i =>
    let t := part64 (w (0x80 + 12 * i + 10)) 16 13
    if t = 0 then none else some (Trigger.slot i, BitVec.ofNat 12 (t - 1))) ++
  (List.range 224).filterMap fun i =>
    let x := w (0x1E00 + i)
    let t := part64 x 16 13
    if x.getLsbD 63 && t != 0 then some (triggerOf (part64 x 6 2) (part64 x 0 6), BitVec.ofNat 12 (t - 1)) else none

/-- Whether an inbox slot is held: its message is queued or parked. -/
def slotHeld (w : Words) (i : Nat) : Bool :=
  part64 (w (0x80 + 12 * i + 10)) 16 13 != 0 ||
    (List.range 224).any fun k => let x := w (0x1E00 + k); x.getLsbD 63 && part64 x 6 2 == 0 && part64 x 0 6 == i

/-! ### A core -/

/-- The 8,192 doublewords of a core's save area (R334). [log 84 DESIGN CHOICE] -/
def State.saveWords (s : State) (n p : Nat) : List DWord :=
  let c := s.getCore n
  padTo 128 [BitVec.ofNat 64 (n + p * 2 ^ 32 + 2 ^ 40), BitVec.ofNat 64 ((c.routines.map Routine.rbytes).sum)] ++
  inboxWords c ++ sendWords c ++
  padTo 320 (c.counters.toList.flatMap counterWords) ++ c.handlers.toList ++ padTo 256 (c.samples.toList.flatMap sampleWords) ++
  ltWords c.lt ++ padTo 128 (c.evq.toList.flatMap keyWords) ++
  padTo 256 (pairWords ((c.tblA.toList ++ c.tblB.toList).map BitVec.toNat)) ++
  padTo 256 (latchWords c.latch) ++ padTo 256 (latchWords (c.inbound.getD Latch.zero)) ++
  padTo 128 (BitVec.ofNat 64 (c.weight.toNat + bit c.inbound.isSome 8) :: slotWords c.slots) ++
  padTo 16 (c.wms.toList.flatMap wmWords) ++ padTo 112 (linkWords c.link) ++
  ((List.range 4096).map fun i => s.tcmWord n c i) ++ ((List.range 256).map fun i => s.tcmTp n i) ++
  padTo 768 (c.evq.toList.flatMap eventWords) ++ padTo 512 (orderWords c s.clock)

/-- A core of a partition as its save area has it (R333, R334). [log 84 DESIGN CHOICE] -/
def State.coreFrom (s : State) (p : Nat) (w : Words) (c : Core) : Core :=
  { c.cleared with
    inbox := vtab 32 fun i => if slotHeld w i then some (msgOf w (0x80 + 12 * i)) else none,
    parked := parkedOf w, sendBuf := s.sendsOf p w, orders := max c.orders 16,
    counters := vtab 64 fun i => counterOf w (0x2C0 + 5 * i), handlers := vtab 64 fun i => cleanHandler (w (0x400 + i)),
    samples := vtab 64 fun i => sampleOf w (0x440 + 4 * i), lt := ltOf w 0x540, evq := vtab 64 (eventOf w),
    tblA := vtab 256 fun i => BitVec.ofNat 19 (half w 0x600 i), tblB := vtab 256 fun i => BitVec.ofNat 19 (half w 0x600 (256 + i)),
    latch := latchOf w 0x700, inbound := if (w 0x900).getLsbD 8 then some (latchOf w 0x800) else none,
    weight := (w 0x900).extractLsb' 0 4, slots := slotsOf w 0x901, wms := vtab 4 fun i => wmOf w (0x980 + 4 * i), link := linkOf w 0x990,
    queues := vtab 4 fun q => queueOf w q s.clock }

end Sys2Proof.Machine
end

