-- ==== Sys2Proof/Machine/Context.lean ====
section
/-! DEFINITION. Contexts: SAVE and RESTORE (R333, R337, R373) and the time-share groups (R369). -/

namespace Sys2Proof.Machine

/-- The position of a core in its partition's core list, by its panel set (R334). -/
def State.savePlace (s : State) (p n : Nat) : Option Nat :=
  ((s.panels p).idxOf? (panelOf n)).map fun i => 64 * i + n % 64

/-- Whether an engine command has its destination in a TCM or the scratchpad of some panel (R333, R369). -/
def lands (e : EngCmd) (panels : List Nat) : Bool :=
  match rangeOf (capAddr e.dst).toNat with
  | some (.ownTcm _, _) => panels.contains (panelOf e.core)
  | some (.ownSpad _, _) => panels.contains (panelOf e.core)
  | some (.tcm m _, _) => panels.contains (panelOf m)
  | some (.spad q _, _) => panels.contains q
  | _ => false

/-- Whether the sends that wait in a core's buffer fit its save area. -/
def Core.sendsFit (c : Core) : Bool :=
  decide ((waitingCopies c).length ≤ 16) && c.sendBuf.all fun e => match e.body with
    | .msg _ => true
    | _ => false

/-- Whether panels of a partition can be saved (R333, R51): every core at a boundary with its kernel work and matrix commands
done, no engine command still to write there, no gang alive, its probe record whole in its save area (R291). [log 84 DESIGN CHOICE] -/
def State.saveReady (s : State) (p : Nat) (panels : List Nat) : Bool :=
  (panels.all fun n => s.panelQuiet n && (s.gangsOn p n).isEmpty && (panelCores n).all fun m =>
      (s.getCore m).sendsFit && decide ((s.getCore m).lt.record.length ≤ recordRoom)) &&
    !(s.jobs.any fun j => !j.finished && j.cmd.part == p && lands j.cmd panels)

/-- One core saved (R333, R334). -/
def State.saveCore (s : State) (p n : Nat) : State :=
  match s.savePlace p n with
  | none => s
  | some i =>
    let words := s.saveWords n p
    (s.putWords ((s.part p).sabase.toNat + i * 65536) words).modCore n Core.cleared

/-- The launches of a partition, with a panel noted whose cores hold parts of them (R98). -/
def State.noteAside (s : State) (p n : Nat) : State :=
  let holds (l : Launch) : Bool := l.part == p && (panelCores n).any fun m => (s.getCore m).carries p l.tag
  { s with launches := s.launches.map fun l => if holds l then { l with aside := l.aside ++ [n] } else l }

/-- Panels of a partition saved: lines and stores go home, every core writes its save area, nobody occupies them (R333). -/
def State.savePanels (s : State) (p : Nat) (panels : List Nat) : State :=
  panels.foldl (fun s n => ((panelCores n).foldl (fun s m => s.saveCore p m) ((s.noteAside p n).panelFlushed n)).vacate n) s

/-- The code of a routine put back into a core's IMEM from its image: the save area holds none (R334, R331). -/
def State.reloadCode (s : State) (p n : Nat) (i : RoutineInfo) : State :=
  s.copyIn p (i.image.toNat + 64) (imemBase n + 2 * i.routine.imemOff) (2 * i.routine.nparc)

/-- One core restored (R333). Images that still wait for it are installed at its next boundary; entries of a routine that has
been uninstalled are invalid. [log 79 DEDUCED, log 84 DESIGN CHOICE] -/
def State.restoreCore (s : State) (p n : Nat) : State :=
  match s.savePlace p n with
  | none => s
  | some i =>
    let base := (s.part p).sabase.toNat + i * 65536
    let w : Words := fun k => s.tableWord (base + 8 * k)
    let c := s.getCore n
    let here := (s.part p).routines.filter fun r => !(c.install.any fun x => x.1 == p && x.2.1 == r.routine.index)
    let c := { s.coreFrom p w c with routines := here.map RoutineInfo.routine }
    let c := { c with handlers := vmap (fun e => if hndValid e && !(c.routines.any fun r => r.index == hndRoutine e) then
                 e &&& ~~~((1 : DWord) <<< 63) else e) c.handlers }
    let s := { s with mem := loadTcm w n s.mem }
    here.foldl (fun s r => s.reloadCode p n r) (s.setCore n (c.contextStart (s.part p)))

/-- Panels of a partition restored: the save areas, the prices, then the occupant (R333). -/
def State.restorePanels (s : State) (p : Nat) (panels : List Nat) : State :=
  let s := panels.foldl (fun s n => (panelCores n).foldl (fun s m => s.restoreCore p m) s) s
  let back (l : Launch) : Launch := if l.part = p then { l with aside := l.aside.filter fun n => !panels.contains n } else l
  let s := { s with launches := s.launches.map back }
  panels.foldl (fun s n => s.modDie (dieOfPanel n) fun d => { d with occ := aset (n % 4096) (BitVec.ofNat 6 p) d.occ }) s

/-- The panels that a partition occupies. -/
def State.heldPanels (s : State) (p : Nat) : List Nat := (s.panels p).filter fun n => s.occupant n == some p

/-- SAVE (R333): it begins; carried on, it ends once every core can be saved. -/
def State.saveStep (s : State) (p : Nat) : State :=
  match (s.part p).context with
  | .saving =>
    let panels := s.heldPanels p
    if s.saveReady p panels then
      let s := (s.savePanels p panels).modPart p fun q => { q with context := .idle, out := true }
      if (s.part p).doomed then s.terminateNow p else s
    else s
  | .idle => s.modPart p fun q => { q with context := .saving }
  | .restoring => s

/-- The frame for whose scrub the code of a partition's routines waits (R332). -/
def State.imagesHeld (s : State) (p : Nat) : Option Nat :=
  (s.part p).routines.findSome? fun i => if i.gone then none else s.heldAmong p (pagesIn i.image.toNat i.bytes)

/-- RESTORE (R333, R373): refused while the partition does not run or another occupant holds one of its panels, or a core of a panel that it
holds itself is not at rest; it waits for the scrub of an image (R332). What such a panel still holds of lines and stores goes home first.
[log 83 DEDUCED] -/
def State.restoreStep (s : State) (p : Nat) : State :=
  let panels := (s.panels p).filter fun n => !(s.die (dieOfPanel n)).dead.contains (n % 4096)
  let free (n : Nat) : Bool := (s.occupant n).isNone || (s.occupant n == some p && s.panelQuiet n)
  if (s.part p).en && !(s.part p).dying && (s.part p).context == .idle && panels.all free then
    match s.imagesHeld p with
    | some f => s.demanded f
    | none =>
      let s := (s.heldPanels p).foldl (fun s n => s.panelFlushed n) s
      let s := (s.restorePanels p panels).modPart p fun q => { q with out := false }
      if s.repliesMay p then s.readReplies p 65536 else s
  else s

/-! ### Time-share groups -/

/-- Group `g` of die `d` changed. -/
def State.modGroup (s : State) (d g : Nat) (f : Group → Group) : State :=
  s.modDie d fun x => { x with groups := x.groups.setIfInBounds g (f (x.group g)) }

/-- The panels of a group's set, rising (R369). -/
def State.groupPanels (s : State) (g : Group) : List Nat :=
  let base := g.gsbase.toNat
  (s.mem.cells.filter fun c => decide (base ≤ c.1) && decide (c.1 < base + 2048)).flatMap fun c => panelBits c.2 (8 * (c.1 - base))

/-- The partition of entry `k` of a group, where it is in use. -/
def Group.entry (g : Group) (k : Nat) : Option Nat :=
  match g.ents[k]? with
  | some (true, p) => some p.toNat
  | _ => none

/-- Whether a panel may change hands in a time-share group: no command for it has begun, its retirement least of all, and it is not out of
service (R331, R366, R369). -/
def State.mayRotate (s : State) (n : Nat) : Bool :=
  let d := s.die (dieOfPanel n)
  !(d.dead.contains (n % 4096)) && !(d.cmds.any fun c => c.begun && c.panel == n % 4096)

/-- The next entry in use in ring order; a group with one entry comes back to it (R369). -/
def Group.next (g : Group) : Nat :=
  let k := g.cur.toNat
  (((List.range 8).map fun i => (k + 1 + i) % 8).find? fun i => (g.entry i).isSome).getD k

/-- SLICE_EXPIRY (R369): the switch begins; carried on, it ends once the occupant can be saved: the next entry is restored. -/
def State.sliceStep (s : State) (d g : Nat) : State :=
  let x := (s.die d).group g
  let panels := s.groupPanels x
  if !x.en then s
  else if !x.switching && panels.any (fun n => !(s.die (dieOfPanel n)).dead.contains (n % 4096) && !s.mayRotate n) then s
  else if !x.switching then
    { s with clock := max s.clock (x.since + max x.slice.toNat (2 ^ 20)) }.modGroup d g fun y => { y with switching := true }
  else
    let p := x.entry x.cur.toNat
    let held := match p with
      | some p => panels.filter fun n => s.occupant n == some p
      | none => []
    if (p.getD 0 != 0 || p.isSome) && !s.saveReady (p.getD 0) held then s
    else match (x.entry x.next).bind s.imagesHeld with
    | some f => s.demanded f
    | none =>
      let s := match p with
        | some p => s.savePanels p held
        | none => s
      let k := x.next
      let s := match x.entry k with
        | some q =>
          if s.serves q then s.restorePanels q (panels.filter fun n => s.inSet q n && (s.occupant n).isNone && s.mayRotate n) else s
        | none => s
      let s := s.modGroup d g fun y => { y with switching := false, cur := BitVec.ofNat 3 k, since := s.clock }
      match x.entry k with
      | some q => if s.repliesMay q then s.readReplies q 65536 else s
      | none => s

/-- SAVE_TIMEOUT (R369): the commands that the save waits for end FAILED with CAUSE 13. -/
def State.saveLate (s : State) (d g : Nat) : State :=
  let x := (s.die d).group g
  match x.switching, x.entry x.cur.toNat with
  | true, some p =>
    let panels := s.groupPanels x
    let s := { s with clock := max s.clock (x.since + max x.slice.toNat (2 ^ 20) + Config.saveCycles) }
    let s := (List.range s.jobs.length).foldl (fun s j => match s.jobs[j]? with
      | some job =>
        if !job.finished && job.cmd.part == p && lands job.cmd panels then
          let s := s.piecesLand j
          s.endJob j (s.jobs[j]?.getD job) (some Cause.engfault.code)
        else s
      | none => s) s
    s.sliceStep d g
  | _, _ => s

def execSave (part : Nat) (s : State) : Out := .next (s.saveStep part)
def execRestore (part : Nat) (s : State) : Out := .next (s.restoreStep part)
def execSliceExpiry (die group : Nat) (s : State) : Out := .next (s.sliceStep die group)
def execSaveTimeout (die group : Nat) (s : State) : Out := .next (s.saveLate die group)

end Sys2Proof.Machine
end

