-- ==== Sys2Proof/Machine/Errors.lean ====
section
/-! DEFINITION. Errors: retry and classification (R364), the error records and the retired-frame filter (R365), spare panels
(R366), lost cache lines and owner tags (R367, R368), flit errors. -/

namespace Sys2Proof.Machine

def classLasting : Nat := 2
def classMemerr : Nat := 3
def classTagpar : Nat := 4
def classPanelret : Nat := 5
def classNospare : Nat := 6

def unitSram : Nat := 1
def unitGddr : Nat := 2
def unitCache : Nat := 3
def unitPanel : Nat := 4
def unitTrarum : Nat := 5
def unitBrix : Nat := 6

/-- An error record (R365): its class, unit and place, the owner tag read, the line, the partitions terminated, the STAMP clock at
detection. -/
structure ErrInfo where
  cls   : Nat
  unit  : Nat
  where_ : Nat
  owner : Byte
  mpa   : Nat
  term  : List Nat
  time  : DWord

/-- The OWNER of a record whose event reads no owner tag: the spec gives it none. -/
def State.noOwner (s : State) : Byte := (Config.strayWord s.tick 0).setWidth 8

/-- The words of a record (R365). [log 95 DEDUCED] -/
def ErrInfo.recordWords (e : ErrInfo) : List DWord :=
  [BitVec.ofNat 64 (e.owner.toNat * 2 ^ 32 + e.where_ % 65536 * 2 ^ 16 + e.unit * 2 ^ 8 + e.cls), BitVec.ofNat 64 e.mpa,
   BitVec.ofNat 64 ((e.term.eraseDups.map fun p => 2 ^ p).sum), e.time]

/-- A record of an event: it waits until the partitions that the event terminates have ended (R365, R367). [log 95 DEDUCED] -/
def State.noteError (s : State) (d : Nat) (e : ErrInfo) : State :=
  let r := (e.term, e.recordWords)
  (s.modDie d fun x => { x with recs := x.recs ++ [r] }).recordsDue

/-- A lasting error counted (R365). -/
def State.countLasting (s : State) (d : Nat) : State := s.modDie d fun x => { x with lastcnt := satInc x.lastcnt }

/-- The cycles in which transients of a unit count together, and how many make the next one lasting (R364). -/
def transientSpan : Nat := 2 ^ 32
def transientLimit : Nat := 256

/-- An error whose retry succeeds: the state with the transient counted, or none where the unit treats it as lasting (R364). [log 96 DEDUCED] -/
def State.transient (s : State) (d key : Nat) : Option State :=
  let recent := ((alookup key (s.die d).trans).getD []).filter fun t => decide (s.clock < t + transientSpan)
  if transientLimit ≤ recent.length then none
  else some (s.modDie d fun x => { x with trans := aset key (s.clock :: recent) x.trans, transcnt := satInc x.transcnt })

/-- The key of a unit at a place. [log 96 DEDUCED] -/
def unitKey (unit place : Nat) : Nat := unit * 65536 + place % 65536

/-- The frame of an MPA enters the retired-frame filter of a die (R365); none where every entry is valid. -/
def Die.retire (d : Die) (mpa : Nat) : Option Die :=
  let frame := BitVec.ofNat 32 (mpa / 2 ^ 16)
  if d.filter.toList.any fun e => e.1 && e.2 == frame then some d
  else match d.filter.toList.findIdx? fun e => !e.1 with
    | some i => some { d with filter := d.filter.setIfInBounds i (true, frame) }
    | none => none

/-- The partitions that run. -/
def State.running (s : State) : List Nat := (List.range 64).filter fun p => (s.part p).en

/-- A frame retired, and the partitions that a full filter terminates (R365). -/
def State.retireFrame (s : State) (d mpa : Nat) : State × List Nat :=
  match (s.die d).retire mpa with
  | some x => (s.modDie d fun _ => x, [])
  | none => (s, s.running)

/-- A doubleword whose contents are lost: marked, its bits a free value (R63, R364). -/
def State.lose (s : State) (a : Nat) : State :=
  { s with mem := s.mem.store a 8 (Config.strayWord s.tick a).toNat true false }

/-- The burst of an MPA written back at its home with every doubleword poisoned (R364, R367); a core's data cache that holds the
line dirty has later contents. [log 96 DEDUCED] -/
def State.loseBurst (s : State) (mpa : Nat) : State :=
  let line := lineOf mpa
  if s.lines.any fun l => l.line == line && l.dirty then s
  else (((s.lose line).lose (line + 8)).lose (line + 16)).lose (line + 24)

/-- Several partitions terminated (R367). -/
def State.terminateAll (s : State) (l : List Nat) : State := l.foldl State.terminate s

/-- A lasting error in a word of die SRAM or GDDR (R364, R365). -/
def State.lastingWord (s : State) (d unit place mpa : Nat) : State :=
  let r := s.retireFrame d mpa
  (((r.1.loseBurst mpa).countLasting d).terminateAll r.2).noteError d ⟨classLasting, unit, place, s.noOwner, lineOf mpa, r.2, s.stampNow⟩

/-- A lasting error in a clean line: it is dropped and fetched again (R364). -/
def State.lastingClean (s : State) (d : Nat) (l : MscLine) : State :=
  let s := s.modDie d fun x => { x with msc := x.msc.filter fun m => !(m.line == l.line) }
  (s.countLasting d).noteError d ⟨classLasting, unitCache, l.way, l.owner, l.line, [], s.stampNow⟩

/-- A panel whose retirement is due joins the panel commands of its die (R366). [log 15 DEDUCED] -/
def State.retireQueued (s : State) (panel : Nat) : State :=
  let d := dieOfPanel panel
  let k := panel % 4096
  if (s.die d).dead.contains k || (s.die d).cmds.any fun c => c.op == .retire && c.panel == k then s
  else
    let c : PanelCmd := { part := (s.occupant panel).getD 64, op := .retire, panel := k, begun := false, fill := false, since := s.stampNow }
    s.modDie d fun x => { x with cmds := x.cmds ++ [c] }

/-- A lasting error of a panel (R364). -/
def State.lastingPanel (s : State) (panel : Nat) : State :=
  let d := dieOfPanel panel
  ((s.countLasting d).noteError d ⟨classLasting, unitPanel, panel, s.noOwner, 0, [], s.stampNow⟩).retireQueued panel

/-- Whether a location lies in a panel's memories: a TCM, an IMEM or the scratchpad. -/
def inPanel (panel loc : Nat) : Bool :=
  match tcmCore loc, spadPanel loc with
  | some n, _ => panelOf n == panel
  | _, some p => p == panel
  | _, _ => decide (2 ^ 53 ≤ loc) && panelOf ((loc - 2 ^ 53) / 2 ^ 13) == panel

/-- A unit's error once it has been retried (R364): `bad` where it is lasting. -/
def State.classified (s : State) (d key : Nat) (retryOk : Bool) (bad : State → State) : State :=
  if retryOk then
    match s.transient d key with
    | some t => t
    | none => bad s
  else bad s

/-- ERROR_DETECT (R364): `mpa` is the failing word's location, `place` the bank group, panel or core. -/
def State.detected (s : State) (u : ErrUnit) (mpa place : Nat) (retryOk : Bool) : State :=
  match u with
  | .sram => match rawHome mpa with
    | some (.sram d) => s.classified d (unitKey unitSram place) retryOk fun s => s.lastingWord d unitSram place mpa
    | _ => s
  | .gddr => match rawHome mpa with
    | some (.gddr c) => s.classified (c / 32) (unitKey unitGddr c) retryOk fun s => s.lastingWord (c / 32) unitGddr c mpa
    | _ => s
  | .mscClean => match rawHome mpa with
    | some (.gddr c) =>
      let d := c / 32
      match (s.die d).msc.find? fun l => l.line == lineOf mpa && !l.dirty with
      | some l => s.classified d (unitKey unitCache l.way) retryOk fun s => s.lastingClean d l
      | none => s
    | _ => s
  | .panel =>
    if place < 16384 ∧ inPanel place mpa then
      s.classified (dieOfPanel place) (unitKey unitPanel place) retryOk fun s => (s.lose (dwordOf mpa)).lastingPanel place
    else s
  | .core => if place < 1048576 ∧ (s.getCore place).out then s.lastingPanel (panelOf place) else s

/-! ### Lost lines -/

/-- A line gone from a die's memory-side cache. -/
def Die.dropLine (x : Die) (line : Nat) : Die := { x with msc := x.msc.filter fun m => !(m.line == line) }

/-- The record of an event whose way is quarantined (R367 step 5). -/
def State.walkNoted (s : State) (d : Nat) (w : WayWalk) : State :=
  s.noteError d ⟨w.cls, unitCache, w.way, w.owner, w.line, w.term, w.since⟩

/-- A way quarantined for the line that an event has lost (R367 steps 3 and 4, R373): it is emptied from now, and the record is written
at the end; a way that is quarantined already is not emptied anew, and the record is written at once. -/
def State.quarantine (s : State) (d : Nat) (w : WayWalk) : State :=
  let s' := s.modDie d fun x => x.dropLine w.line
  if (s.die d).waydis.getLsbD w.way then s'.walkNoted d w
  else s'.modDie d fun x => { x with waydis := x.waydis ||| (1 <<< w.way), walks := x.walks ++ [w] }

/-- Steps 1 to 3 of R367 for a line and the partitions that its event terminates. -/
def State.lostLine (s : State) (d : Nat) (l : MscLine) (cls : Nat) (owner : Byte) (gone : List Nat) : State :=
  let s := s.terminateAll gone
  let r := s.retireFrame d l.line
  (((r.1.loseBurst l.line).countLasting d).terminateAll r.2).quarantine d ⟨l.way, s.stampNow, l.line, cls, owner, gone ++ r.2⟩

/-- One line of the way that a die is emptying: a dirty line passes the check of its owner tag and is written back, a clean line is
dropped; once the way is empty the record is written (R367 steps 4 and 5). -/
def State.wayStep (s : State) (d : Nat) : State :=
  match (s.die d).walks with
  | [] => s
  | w :: r =>
    match (s.die d).msc.find? fun m => m.way == w.way with
    | some m => s.modDie d fun x => x.dropLine m.line
    | none => (s.modDie d fun x => { x with walks := r }).walkNoted d w

/-- CACHE_DIRTY_LINE_ERROR: a dirty line fails its retry (R367). -/
def State.dirtyLost (s : State) (d line : Nat) : State :=
  match (s.die d).msc.find? fun l => l.line == lineOf line && l.dirty with
  | some l => s.lostLine d l classMemerr l.owner [l.owner.toNat]
  | none => s

/-- The partitions for which either copy of WAYMASK holds a way of a die (R368). -/
def State.sharers (s : State) (d w : Nat) : List Nat :=
  (List.range 64).filter fun p => ((s.part p).waymask ||| (s.part p).waymask2).getLsbD (16 * d + w)

/-- OWNER_TAG_PARITY_ERROR (R368). -/
def State.tagLost (s : State) (d line : Nat) : State :=
  match (s.die d).msc.find? fun l => l.line == lineOf line with
  | some l => s.lostLine d l classTagpar 0xFF (s.sharers d l.way)
  | none => s

/-- A dirty line whose retry succeeds (R364): a transient, unless its way has counted its limit. [log 96 DEDUCED] -/
def State.lineRetried (s : State) (d line : Nat) : State :=
  match (s.die d).msc.find? fun l => l.line == lineOf line && l.dirty with
  | some l => s.classified d (unitKey unitCache l.way) true (State.dirtyLost · d line)
  | none => s

/-- An owner tag whose retry succeeds (R364): a transient, unless its way has counted its limit. [log 96 DEDUCED] -/
def State.tagRetried (s : State) (d line : Nat) : State :=
  match (s.die d).msc.find? fun l => l.line == lineOf line with
  | some l => s.classified d (unitKey unitCache l.way) true (State.tagLost · d line)
  | none => s

/-- A correctable error, corrected and counted (R364). -/
def State.corrected (s : State) (d : Nat) : State := s.modDie d fun x => { x with corrcnt := satInc x.corrcnt }

/-- WAYDIS_CLEAR (R365, R368). -/
def State.waysBack (s : State) (d : Nat) (ways : BitVec 16) : State := s.modDie d fun x => { x with waydis := x.waydis &&& ~~~ways }

/-! ### Spare panels -/

/-- The physical column of a panel's logical column in its row (R15). [log 97 DEDUCED] -/
def State.physicalColumn (s : State) (d k : Nat) : BitVec 7 :=
  let off := (alookup (k / 64) (s.die d).discol).getD (Config.fabricated d (k / 64))
  let c := k % 64
  BitVec.ofNat 7 (if c < off.toNat then c else c + 1)

/-- A core of a spare panel in the place of a failed one. [log 97 DEDUCED] -/
def Core.renewed (c : Core) : Core :=
  { c.cleared with out := false, task := none, svc := none, stalled := false, csr := { c.csr with km := false, nest := false } }

/-- The end of a retirement (R366). [log 97 DEDUCED] -/
def State.retireEnds (s : State) (d : Nat) (c : PanelCmd) (cls : Nat) : State :=
  (s.modDie d fun x => x.modHead fun _ => none).noteError d ⟨cls, unitPanel, 4096 * d + c.panel, s.noOwner, 0, [], c.since⟩

/-- A drained panel leaves its place: the spare takes it, or no panel does (R366, steps 2 and 3). -/
def State.replaced (s : State) (d : Nat) (c : PanelCmd) : State :=
  let panel := 4096 * d + c.panel
  let row := c.panel / 64
  let s := ((s.panelFlushed panel).panelCleared panel).vacate panel
  if (s.die d).spent.getLsbD row then
    let s := (s.parts.map fun p => p.1).foldl (fun s p => if s.inSet p panel then s.setPanelBit p panel false else s) s
    let s := (s.dies.toList.flatMap fun x => x.groups.toList).foldl (fun s g =>
      if s.inGroup g panel then s.setBit g.gsbase.toNat panel false else s) s
    (s.modDie d fun x => { x with dead := setInsert c.panel x.dead }).retireEnds d c classNospare
  else
    let s := s.modDie d fun x =>
      { x with discol := aset row (s.physicalColumn d c.panel) x.discol, spent := x.spent ||| (1 <<< row) }
    let s := (panelCores panel).foldl (fun s n => s.modCore n Core.renewed) s
    if c.part < 64 then (s.modDie d fun x => x.modHead fun c => some { c with fill := true }).addBegins c.part panel
    else s.retireEnds d c classPanelret

/-- PANEL_RETIREMENT: a retirement that heads its die's panel commands is carried on (R366, R373). [log 97 DEDUCED] -/
def State.retireStep (s : State) (panel : Nat) : State :=
  let d := dieOfPanel panel
  match (s.die d).cmds with
  | [] => s
  | c :: _ =>
    if c.op != .retire || c.panel != panel % 4096 || !s.panelFree c.part panel then s
    else if !c.begun then
      let p := (s.occupant panel).getD 64
      let s := s.modDie d fun x => x.modHead fun c => some { c with begun := true, part := p }
      if p < 64 then s.removeBegins p panel else s
    else if !c.fill then
      if s.panelAtRest panel then
        let s := if c.part < 64 then (panelCores panel).foldl (fun s n => s.evictCore n c.part) s else s
        s.replaced d c
      else s
    else if s.panelFilled c.part panel then s.retireEnds d c classPanelret else s

/-! ### Links -/

/-- The die of a Trarum port (R9). -/
def dieOfPort (p : Nat) : Nat := if p < 5 then 0 else if p < 10 then 1 else if p < 14 then 2 else 3

/-- How many failed retries of one flit disable a link (R364). -/
def flitLimit : Nat := 8

/-- Whether a module is reached through some Trarum port that carries traffic (R14). -/
def State.reachedBy (s : State) (m : BitVec 12) : Bool :=
  (List.range 18).any fun q => s.porten.getLsbD q && (s.train (.trarum q)).online && Config.peer q m

/-- A link that has failed (R364): a port is disabled, or the module goes out of service. [log 95 DEDUCED, log 101 DEDUCED] -/
def State.linkFails (s : State) (l : ErrLink) : State :=
  match l with
  | .trarum p =>
    let d := dieOfPort p
    let s := { s with porten := s.porten &&& ~~~((1 : BitVec 18) <<< p) }
    let s := { s with reach := s.reach.filter fun m => !Config.peer p m || s.reachedBy m }
    (s.countLasting d).noteError d
      ⟨classLasting, unitTrarum, p, s.noOwner, 0, [], s.stampNow⟩
  | .brix => ({ s with brixDown := true }.countLasting 0).noteError 0 ⟨classLasting, unitBrix, 0, s.noOwner, 0, [], s.stampNow⟩

/-- LINK_FLIT_ERROR: a flit has failed its CRC and been retried once more (R364). -/
def State.flitError (s : State) (l : ErrLink) (retryOk : Bool) : State :=
  let k := match l with
    | .trarum p => p
    | .brix => 18
  let d := if k < 18 then dieOfPort k else 0
  let up := if k < 18 then s.porten.getLsbD k else !s.brixDown
  let n := (alookup k s.flitFails).getD 0 + 1
  if !up then s
  else if retryOk then
    { s with flitFails := aerase k s.flitFails }.classified d (unitKey (if k < 18 then unitTrarum else unitBrix) k) true (State.linkFails · l)
  else if n < flitLimit then { s with flitFails := aset k n s.flitFails }
  else { s with flitFails := aerase k s.flitFails }.linkFails l

def execErrorDetect (u : ErrUnit) (mpa place : Nat) (retryOk : Bool) (s : State) : Out := .next (s.detected u mpa place retryOk)
def execCacheDirtyLineError (die line : Nat) (s : State) : Out := .next (s.dirtyLost die line)
def execOwnerTagParityError (die line : Nat) (s : State) : Out := .next (s.tagLost die line)
def execWaydisClear (die : Nat) (ways : BitVec 16) (s : State) : Out := .next (s.waysBack die ways)
def execPanelRetirement (panel : Nat) (s : State) : Out := .next (s.retireStep panel)
def execLinkFlitError (l : ErrLink) (retryOk : Bool) (s : State) : Out := .next (s.flitError l retryOk)

end Sys2Proof.Machine
end

