-- ==== Sys2Proof/Machine/Power.lean ====
section
/-! DEFINITION. Rails, the clock state and the power manager (R354 to R357), BOOTSTAT (R351). -/

namespace Sys2Proof.Machine

/-! ### BOOTSTAT -/

/-- BOOTSTAT at a phase, nothing having failed (R351). -/
def bootPhase (phase : Nat) : DWord := BitVec.ofNat 64 (phase * 2 ^ 8)

def codeBadhdr : Nat := 1
def codeBadkey : Nat := 2
def codeRollback : Nat := 3
def codeBadsig : Nat := 4
def codeRailfault : Nat := 5
def codeGddrfail : Nat := 6
def codeLinkfail : Nat := 7
def codeBadimage : Nat := 8

/-- DETAIL written (R351). [log 92 DESIGN CHOICE] -/
def State.bootDetail (s : State) (detail : BitVec 16) : State :=
  { s with sec := { s.sec with boot := (s.sec.boot &&& ~~~((0xFFFF : DWord) <<< 32)) ||| (detail.setWidth 64 <<< 32) } }

/-- A failure of boot in its present phase (R351): DONE, FAILED, CODE and DETAIL. -/
def State.bootFails (s : State) (code : Nat) (detail : BitVec 16) : State :=
  let s := s.bootDetail detail
  { s with sec := { s.sec with boot := (s.sec.boot &&& ~~~(0xFF : DWord)) ||| BitVec.ofNat 64 (3 * 2 ^ 62 + code) } }

/-! ### Rails -/

/-- Rail `n` changed. -/
def State.modRail (s : State) (n : Nat) (f : Rail → Rail) : State := { s with rails := s.rails.setIfInBounds n (f (s.rail n)) }

/-- The rail before a rail in the order of bring-up: SRAM, CORE0 to CORE3, AUX, GDDR, LINK (R355). -/
def railBefore (n : Nat) : Option Nat :=
  match n with
  | 1 => some 5
  | 2 => some 1
  | 3 => some 2
  | 4 => some 3
  | 8 => some 4
  | 6 => some 8
  | 7 => some 6
  | _ => none

/-- Whether a rail supplies the memory at a location: a compute die's rail the core memories and scratchpads of that die (R354).
[log 107 DESIGN CHOICE] -/
def suppliedBy (n loc : Nat) : Bool :=
  match rawHome loc with
  | some (.sram _) => n == railSram
  | some (.gddr _) => n == railGddr
  | some .host => false
  | none =>
    match tcmCore loc, spadPanel loc with
    | some k, _ => decide (k < 1048576) && railCore (dieOfCore k) == n
    | _, some p => railCore (dieOfPanel p) == n
    | _, _ => decide (loc < imemBase 1048576) && localDie loc == some (n - 1) && decide (1 ≤ n)

/-- Memory without what a test names: bytes, tags and marks. -/
def Memory.without (m : Memory) (gone : Nat → Bool) : Memory :=
  { cells := m.cells.filter fun x => !gone x.1, tags := m.tags.filter fun a => !gone a, poison := m.poison.filter fun a => !gone a }

/-- The rail that supplies a training block's channel or link (R354). -/
def trainRail (b : TrainBlock) : Nat :=
  match b with
  | .gddr _ => railGddr
  | _ => railLink

/-- What a channel or link has been trained to is lost with its rail; a sequence that runs ends without DONE (R363). -/
def Train.lost (t : Train) : Train := { t with go := false, result := none, passed := 0, wrote := 0, online := false }

/-- A rail goes down: the memory, the cores, the streamers with what they were doing and keep, and the training that it supplies are as at
reset. [log 107 DESIGN CHOICE] -/
def State.powerLost (s : State) (n : Nat) : State :=
  let mine := s.coreNos.filter fun k => decide (k < 1048576) && railCore (dieOfCore k) == n
  let s := mine.foldl (fun s k => s.setCore k Core.reset) s
  { s with
    mem := s.mem.without (suppliedBy n),
    lines := s.lines.filter fun l => !suppliedBy n l.line && !mine.contains l.holder,
    flight := s.flight.filter fun f => !suppliedBy n f.store.loc && !mine.contains f.core,
    jobs := s.jobs.map fun j => if railCore (streamerDie j.streamer) == n then { j with held := [], finished := true } else j,
    ptcs := s.ptcs.filter fun c => railCore (streamerDie c.1) != n,
    strFit := s.strFit.filter fun c => railCore (streamerDie c.1) != n,
    patterns := s.patterns.filter fun c => railCore (streamerDie c.1) != n,
    reach := if n = railLink then [] else s.reach,
    trains := s.trains.map fun t => if trainRail t.1 == n then (t.1, t.2.lost) else t }

/-- A rail that is off. -/
def Rail.off (r : Rail) : Rail := { r with pgood := false, vset := 0, en := false }

/-- A rail's FAULT: every rail but AON goes down, training ends without DONE, the host sees the link go down; a ROM that still
waits or checks stops (R345, R355, R363). -/
def State.railFaults (s : State) (n : Nat) : State :=
  let off (s : State) (k : Nat) : State := (s.modRail k Rail.off).powerLost k
  let s := [7, 6, 8, 4, 3, 2, 1, 5].foldl off (s.modRail n fun r => { r with fault := true })
  let flints := if s.flints[0]? = some FlintState.rom then s.flints.setIfInBounds 0 .halted else s.flints
  let s := { s with brixDown := true, dark := true, flints := flints }
  s.bootFails codeRailfault (BitVec.ofNat 16 n)

/-- Whether the rail before a rail in the order is in regulation (R355). -/
def State.railReady (s : State) (n : Nat) : Bool :=
  match railBefore n with
  | some k => (s.rail k).pgood
  | none => true

/-- RAIL_EN (R355): EN of AON is written too, but the board alone raises and supplies that rail (R354). A rail in service that is
enabled again without its predecessor is a sequencing error of a rail in service. [log 87 DEDUCED] -/
def State.railEnable (s : State) (n : Nat) (v : Bool) : State :=
  if n = 0 then s.modRail 0 fun r => { r with en := v }
  else if !v then (if (s.rail n).en then (s.modRail n Rail.off).powerLost n else s)
  else if s.railReady n then s.modRail n fun r => { r with en := true }
  else if (s.rail n).en then s.railFaults n
  else s.modRail n fun r => { r with fault := true }

/-- Whether a rail is enabled: AON by the board (R354). -/
def State.railOn (s : State) (n : Nat) : Bool := n == 0 || (s.rail n).en

/-- PGOOD: an enabled rail comes into regulation (R355, R356). -/
def State.railGood (s : State) (n : Nat) : State :=
  if s.railOn n && !(s.rail n).pgood then
    s.modRail n fun r => { r with pgood := true, vset := Config.fusedVset n s.clkCur.toNat }
  else s

/-- RAIL_PGOOD_TIMEOUT: an enabled rail is not in regulation 2 ms after its EN (R345, R355). [log 87 DEDUCED] -/
def State.railLate (s : State) (n : Nat) : State :=
  if s.railOn n && !(s.rail n).pgood then s.railFaults n else s

/-- RAIL_FAULT on a rail in service (R355). [log 87 DEDUCED, log 101 DEDUCED] -/
def State.railFaulted (s : State) (n : Nat) : State := if s.railOn n then s.railFaults n else s

/-! ### Clock state -/

/-- A change of the clock state begins, where another one is requested (R356). -/
def State.clockBegins (s : State) : State :=
  if s.clkReq = s.clkCur then s else { s with clkBusy := true, clkTo := s.clkReq }

/-- CLKSTATE_REQ: a write of REQ; during a change it is taken when that ends (R356). -/
def State.clockRequested (s : State) (v : BitVec 2) : State :=
  let s := { s with clkReq := v }
  if s.clkBusy then s else s.clockBegins

/-- CLOCK_CHANGE: voltage and frequency change and BUSY falls, once no training runs; the last request made meanwhile is
taken (R356, R363). [log 94 DEDUCED] -/
def State.clockChanges (s : State) : State :=
  if !s.clkBusy || s.trains.any fun t => t.2.go then s
  else
    let c := s.clkTo
    let s := [1, 2, 3, 4].foldl (fun s n => s.modRail n fun r => { r with vset := Config.fusedVset n c.toNat }) s
    { s with clkCur := c, clkBusy := false }.clockBegins

/-! ### The power manager -/

/-- The lowest and the full rate of MXE steps and vector instructions, in 64ths (R357). -/
def rateLow : Nat := 1
def rateFull : Nat := 64

/-- POWER_WINDOW: the manager compares its estimate of the draw with PWRLIM (R357). [log 94 DEDUCED] -/
def State.powerWindow (s : State) (estimate : Nat) : State :=
  let lim := s.pwrlim.toNat
  let rate := if lim < estimate then max rateLow (s.rate / 2)
    else if estimate * 100 < lim * 95 then min rateFull (s.rate * 2) else s.rate
  { s with rate := rate, throt := if rate < rateFull then s.throt + 1 else s.throt, pwrnow := Config.draw s.tick }

/-- A write of PWRLIM (R357). -/
def clampLimit (v : BitVec 12) : BitVec 12 := if 3600 < v.toNat then 3600 else if v.toNat < 1200 then 1200 else v

def execRailEn (n : Nat) (v : Bool) (s : State) : Out := .next (s.railEnable n v)
def execRailPgoodTimeout (n : Nat) (s : State) : Out := .next (s.railLate n)
def execRailFault (n : Nat) (s : State) : Out := .next (s.railFaulted n)
def execPgood (n : Nat) (s : State) : Out := .next (s.railGood n)
def execClkstateReq (v : BitVec 2) (s : State) : Out := .next (s.clockRequested v)
def execClockChange (s : State) : Out := .next s.clockChanges
def execPowerWindow (estimate : Nat) (s : State) : Out := .next (s.powerWindow estimate)

end Sys2Proof.Machine
end

