-- ==== Sys2Proof/Machine/Boot.lean ====
section
/-! DEFINITION. Boot and the security block: the flints and their blocks (R343, R353), the mask ROM's checks (R344, R345), fuses
(R346), measurement (R347 to R349), quotes (R350, R351). -/

namespace Sys2Proof.Machine

/-! ### Measurement -/

/-- An extend of MEASi by a datum (R347). -/
def State.extend (s : State) (i : Nat) (d : BitVec 256) : State :=
  let x := s.sec
  if x.lock.getLsbD i then { s with sec := { x with merr := true } }
  else
    let old := x.meas[i]?.getD 0
    { s with sec := { x with
        meas := x.meas.setIfInBounds i (digest (digestBytes old ++ digestBytes d)),
        mcount := x.mcount.setIfInBounds i (satInc (x.mcount[i]?.getD 0)) } }

/-- The extends at the head of the security block's queue, up to the next quote, are served (R347). -/
def State.servedTo (s : State) : List SecReq → State
  | .extend i d :: r => (s.extend i.toNat d).servedTo r
  | l => { s with sec := { s.sec with queue := l } }

/-- MEAS_EXTEND: an extend of the register that IDX names by MEXTDATA reaches the block, and is served at once where no quote is
ahead of it (R347, R363); a request while GO reads 1 is ignored (R349). -/
def State.measExtended (s : State) (i : BitVec 3) : State :=
  if s.sec.queue.any SecReq.isExtend then s
  else { s with sec := { s.sec with idx := i } }.servedTo (s.sec.queue ++ [SecReq.extend i s.sec.mextdata])

/-- MLOCK (R349). -/
def State.locked (s : State) (bits : Byte) : State := { s with sec := { s.sec with lock := s.sec.lock ||| bits } }

/-! ### Fuses -/

/-- KEYHASHk (R343). -/
def State.keyHash (s : State) (k : Nat) : BitVec 256 := if k = 0 then Config.keyHash0 else s.fuses.keyhash[k - 1]?.getD 0

/-- The lowest accepted SVN: how many bits of MINSVN are blown (R343). -/
def svnCount (f : DWord) : Nat := (List.range 64).countP fun i => f.getLsbD i

/-- MINSVN with bits blown until their count equals an SVN (R345). -/
def svnBlown (f : DWord) (svn : Nat) : DWord :=
  (List.range 64).foldl (fun f i => if svnCount f < svn && !f.getLsbD i then f ||| (1 <<< i) else f) f

/-- A fuse bit blown by FIELD and INDEX (R346); none where they name no such bit. -/
def fuseBlown (f : Fuses) (field index : Nat) : Option Fuses :=
  match field with
  | 5 => if index < 5 then some { f with keyrev := f.keyrev ||| (1 <<< index) } else none
  | 6 => if index < 1 then some { f with ownerlock := true } else none
  | 7 => if index < 64 then some { f with minsvn := f.minsvn ||| (1 <<< index) } else none
  | _ =>
    if 1 ≤ field ∧ field ≤ 4 ∧ index < 256 then
      some { f with keyhash := f.keyhash.setIfInBounds (field - 1) (f.keyhash[field - 1]?.getD 0 ||| (1 <<< index)) }
    else none

/-- Whether a FUSECMD write is taken: FUSELOCK and GO are 0, and FIELD and INDEX name a bit; any other is ignored (R346, R349, R363). -/
def State.fuseMay (s : State) (field : BitVec 6) (index : BitVec 16) : Bool :=
  !s.sec.fuselock && !s.sec.fgo && (fuseBlown s.fuses field.toNat index.toNat).isSome

/-- A write of FUSECMD (R346, R349). -/
def State.fuseWritten (s : State) (go : Bool) (field : BitVec 6) (index : BitVec 16) : State :=
  if s.fuseMay field index then { s with sec := { s.sec with field := field, index := index, fgo := go } } else s

/-- The bit that a FUSECMD names is blown and verified, and GO falls (R346, R349). [log 88 DEDUCED] -/
def State.fuseBlows (s : State) : State :=
  if s.sec.fgo then
    { s with fuses := (fuseBlown s.fuses s.sec.field.toNat s.sec.index.toNat).getD s.fuses, sec := { s.sec with fgo := false } }
  else s

/-- FUSECMD: the bit of the command that is under way is blown, or a command is written and its bit blown (R346). [log 88 DEDUCED] -/
def State.fuseCommand (s : State) (field : BitVec 6) (index : BitVec 16) : State :=
  if s.sec.fgo then (if s.sec.field = field ∧ s.sec.index = index then s.fuseBlows else s)
  else (s.fuseWritten true field index).fuseBlows

/-- FUSELOCK (R346). -/
def State.fusesClosed (s : State) : State := { s with sec := { s.sec with fuselock := true } }

/-! ### Reset, the ROM and the flints -/

/-- MODULE_RESET (R343): fuses, the boot flash and host memory are kept. [log 90 DEDUCED] -/
def State.moduleReset (s : State) : State :=
  { State.afterReset s.fuses s.flash with
    agenda := s.agenda, tick := s.tick, mem := { Memory.empty with cells := s.mem.cells.filter fun c => isHost c.1 } }

/-- A flint that starts at a parcel offset in kernel mode (R343, R345, R353). [log 91 DEDUCED] -/
def State.flintRuns (s : State) (d : Nat) (entry : BitVec 12) : State :=
  (s.setFlint d .running).modCore (flintNo d) fun c => { c with kpc := entry, csr := { c.csr with km := true } }

/-- FLINT_START: a write of START releases a held flint (R353). -/
def State.flintStarted (s : State) (d : Nat) (entry : BitVec 12) : State :=
  if 1 ≤ d ∧ s.flint d = .held then s.flintRuns d entry else s

/-- Byte `k` of an image in the boot flash, from an offset up. -/
def State.flashByte (s : State) (off k : Nat) : Byte := s.flash[off + k]?.getD unlistedByte

/-- Byte `k` of the image that the ROM checks: of the boot flash, or of the recovery buffer (R345). -/
def State.romByte (s : State) (k : Nat) : Byte := if s.sec.recover then s.mem.byte k else s.flashByte 0 k

/-- `n` bytes of an image. -/
def imageBytes (img : Nat → Byte) (a n : Nat) : List Byte := (List.range n).map fun k => img (a + k)
/-- A little-endian field of an image (R344). -/
def imageField (img : Nat → Byte) (a n : Nat) : Nat := bytesToBits (imageBytes img a n)

/-- The fields of a signed image (R344). -/
structure ImageHead where
  magic   : Nat
  kind    : Nat
  svn     : Nat
  keyslot : Nat
  advance : Bool
  bodylen : Nat
  codelen : Nat
  datampa : Nat
  entry   : BitVec 12

/-- The header of an image (R344). -/
def imageHead (img : Nat → Byte) : ImageHead :=
  let flags := imageField img 0x00C 4
  { magic := imageField img 0x000 4, kind := imageField img 0x004 4, svn := imageField img 0x008 4, keyslot := flags % 8,
    advance := flags / 256 % 2 == 1, bodylen := imageField img 0x010 4, codelen := imageField img 0x014 4,
    datampa := imageField img 0x018 8, entry := BitVec.ofNat 12 (imageField img 0x05C 4) }

/-- Check 1 of R345: the header, with the KIND that is expected (R348), and the limits of R344. -/
def headOk (kind : Nat) (h : ImageHead) : Bool :=
  h.magic == 0x5A4A0001 && h.kind == kind && decide (h.codelen ≤ h.bodylen) && decide (h.svn ≤ 64) && h.bodylen % 16 == 0 &&
    decide (h.bodylen ≤ 2 ^ 22) && decide (h.codelen ≤ 8192) && decide (h.datampa + (h.bodylen - h.codelen) ≤ 2 ^ 31)

/-- The public key of an image. -/
def imageKey (img : Nat → Byte) : List Byte := imageBytes img 0x020 60
/-- The signed bytes of an image (R344). -/
def signedBytes (img : Nat → Byte) (h : ImageHead) : List Byte := imageBytes img 0 (0x60 + h.bodylen)

/-- Check 2 of R345. -/
def State.keyOk (s : State) (img : Nat → Byte) (h : ImageHead) : Bool :=
  let k := h.keyslot
  decide (k ≤ 4) && s.keyHash k != 0 && !s.fuses.keyrev.getLsbD k && !(k == 0 && s.fuses.ownerlock) &&
    digest (imageKey img) == s.keyHash k

/-- Check 4 of R345. -/
def sigOk (img : Nat → Byte) (h : ImageHead) : Bool :=
  hssVerify (imageKey img) (signedBytes img h) (imageBytes img (0x60 + h.bodylen) 5396)

/-- The failure of the first check that fails, of an image of a KIND (R345, R348). [log 88 DEDUCED] -/
def State.imageFault (s : State) (img : Nat → Byte) (kind : Nat) (h : ImageHead) : Option Nat :=
  if !headOk kind h then some codeBadhdr
  else if !s.keyOk img h then some codeBadkey
  else if h.svn < svnCount s.fuses.minsvn then some codeRollback
  else if !sigOk img h then some codeBadsig
  else none

/-- The boot record of MEAS1 (R348). [log 88 DEDUCED] -/
def State.bootRecord (s : State) (h : ImageHead) : List Byte :=
  leBytes 4 Config.romVersion.toNat ++
    leBytes 4 (h.keyslot + (if s.fuses.ownerlock then 8 else 0) + s.fuses.keyrev.toNat * 16) ++ leBytes 4 h.svn ++
    leBytes 4 (svnCount s.fuses.minsvn)

/-- Bytes of an image copied to a location. -/
def State.copyImage (s : State) (img : Nat → Byte) (a loc : Nat) : Nat → State
  | 0 => s
  | n + 1 => { s with mem := s.mem.store loc 1 (img a).toNat false false }.copyImage img (a + 1) (loc + 1) n

/-- An image that has passed every check: measured, MINSVN advanced, copied and started (R345, R348). [log 8 DESIGN CHOICE] -/
def State.imageStarts (s : State) (h : ImageHead) : State :=
  let img := s.romByte
  let s := ((s.extend 0 (digest (signedBytes img h))).extend 1 (digest (s.bootRecord h))).locked 3
  let s := { s with sec := { s.sec with svn := BitVec.ofNat 32 h.svn, keyslot := BitVec.ofNat 3 h.keyslot, entry := h.entry } }
  let s := if h.advance then { s with fuses := { s.fuses with minsvn := svnBlown s.fuses.minsvn h.svn } } else s
  let s := s.copyImage img 0x60 (imemBase (flintNo 0)) h.codelen
  (s.copyImage img (0x60 + h.codelen) h.datampa (h.bodylen - h.codelen)).flintRuns 0 h.entry

/-- ROM_IMAGE_CHECK: the ROM enables rail SRAM, waits for PGOOD, and checks the image (R345); its extends follow the requests that the
security block has (R347). [log 8 DESIGN CHOICE] -/
def State.romStep (s : State) : State :=
  if s.flint 0 ≠ .rom then s
  else if !(s.rail railSram).en then { s.railEnable railSram true with sec := { s.sec with boot := bootPhase 1 } }
  else if !(s.rail railSram).pgood then s
  else
    let h := imageHead s.romByte
    match s.imageFault s.romByte 1 h with
    | some code => (s.bootFails code 0).setFlint 0 .recover
    | none => if s.sec.queue.isEmpty then s.imageStarts h else s

/-- RECOVGO restarts the checks on the recovery buffer once a check has failed (R345, R363). [log 88 DEDUCED] -/
def State.recovers (s : State) : State :=
  if s.flint 0 = .recover then { s.setFlint 0 .rom with sec := { s.sec with recover := true, boot := bootPhase 1 } } else s

/-- The recovery buffer: room for the longest image, at die 0 SRAM offset 0 (R344, R345). -/
def recoveryBytes : Nat := 0x60 + 2 ^ 22 + 5396

/-- The management interface writes a doubleword of the recovery image, while the ROM waits for one (R345). [log 88 DEDUCED] -/
def State.recoveryWritten (s : State) (off : Nat) (v : DWord) : State :=
  if s.flint 0 = .recover ∧ off % 8 = 0 ∧ off < recoveryBytes ∧ (s.homeOf off).isSome then
    { s with mem := s.mem.store off 8 v.toNat false false }.written none off
  else s

/-! ### Quotes -/

/-- How many lower trees the identity has (R350). -/
def idTrees : Nat := 32768
/-- How many leaves a lower tree has (R350). -/
def idLeaves : Nat := 32768

/-- The signed part of a quote from leaf `q` (R351). -/
def State.quoteBody (s : State) (q : Nat) : List Byte :=
  let x := s.sec
  leBytes 8 0x16740001 ++ leBytes 8 Config.serial.toNat ++
    leBytes 8 (x.svn.toNat + x.keyslot.toNat * 2 ^ 32 + s.modnum.toNat * 2 ^ 36) ++ leBytes 8 q ++ digestBytes x.qnonce ++
    x.meas.toList.flatMap digestBytes ++ x.mcount.toList.flatMap fun n => leBytes 4 n.toNat

/-- A quote ends: the requests behind it, up to the next quote, are served; QGO falls and DONE rises with the last (R349, R363). [log 88 DEDUCED] -/
def State.quoteEnds (s : State) : State :=
  let s := s.servedTo (s.sec.queue.drop 1)
  let more := !s.sec.queue.isEmpty
  { s with sec := { s.sec with qgo := more, qdone := !more } }

/-- A quote made with leaf `j` of lower tree `t` (R350, R351). -/
def State.quoted (s : State) (t j : Nat) : State :=
  let q := t * idLeaves + j
  let body := s.quoteBody q
  { s with sec := { s.sec with
      tree := some (t, j + 1), qok := true, qreason := 0,
      qbuf := body ++ (List.range 5396).map (Config.hssSign q body) } }.quoteEnds

/-- A request for a quote is served (R350): a new lower tree takes the next bit of IDCTR; a bit that fails to verify counts as
blown and the next is tried. -/
def State.quoteStep (s : State) (blow : BlowResult) : State :=
  let fresh : State :=
    let t := s.fuses.idctr
    if idTrees ≤ t then { s with sec := { s.sec with qok := false, qreason := 1 } }.quoteEnds
    else
      let s := { s with fuses := { s.fuses with idctr := t + 1 } }
      match blow with
      | .verified => s.quoted t 0
      | .failed => s
  match s.sec.tree with
  | some (t, j) => if j < idLeaves then s.quoted t j else fresh
  | none => fresh

/-- A write of QGO that requests a quote (R351): one requester's second is ignored while its first stands, and the management
interface's and the physical function's are served one after another (R349, R363). [log 88 DEDUCED] -/
def State.quoteRequested (s : State) (mgmt : Bool) : State :=
  if s.sec.queue.contains (.quote mgmt) then s
  else { s with sec := { s.sec with queue := s.sec.queue ++ [.quote mgmt], qgo := true, qdone := false } }

/-- QGO: the quote at the head of the queue is served; where none is requested, the physical function requests one (R350, R351). -/
def State.quoteServed (s : State) (blow : BlowResult) : State :=
  (if s.sec.queue.isEmpty then s.quoteRequested false else s).quoteStep blow

def execModuleReset (s : State) : Out := .next s.moduleReset
def execRomImageCheck (s : State) : Out := .next s.romStep
def execRecovgo (s : State) : Out := .next s.recovers
def execFlintStart (d : Nat) (entry : BitVec 12) (s : State) : Out := .next (s.flintStarted d entry)
def execMeasExtend (i : BitVec 3) (s : State) : Out := .next (s.measExtended i)
def execMlock (bits : Byte) (s : State) : Out := .next (s.locked bits)
def execFusecmd (field : BitVec 6) (index : BitVec 16) (s : State) : Out := .next (s.fuseCommand field index)
def execFuselock (s : State) : Out := .next s.fusesClosed
def execQgo (blow : BlowResult) (s : State) : Out := .next (s.quoteServed blow)

end Sys2Proof.Machine
end

