-- ==== Sys2Proof/Machine/Branch.lean ====
section
/-! DEFINITION. Branches, jumps and LOOP (R179 to R181, R37) and their 16-bit forms (R190). -/

namespace Sys2Proof.Machine

/-- How many parcels a CODE message holds that the running task executes; none for a task that runs from IMEM (R37). -/
def Core.codeParcels (c : Core) : Option Nat :=
  if c.km then none
  else match c.task with
    | some k => k.code.map fun x => 4 * x.2
    | none => none

/-- A target given as an unbounded integer: modulo 4,096 in IMEM; in a CODE message it traps ILLEGAL outside the message's
parcels (R144, R37). [log 14 DEDUCED] -/
def target (t : Int) : Ex (BitVec 12) := do
  let c ← getC
  match c.codeParcels with
  | none => pure (BitVec.ofInt 12 t)
  | some n =>
    if 0 ≤ t ∧ t < n then pure (BitVec.ofInt 12 t)
    else raise .illegal (c.insn.setWidth 64)

/-- A target relative to the instruction's own pc (R144). -/
def relTarget (off : Int) : Ex (BitVec 12) := do
  let c ← getC
  target (c.pcNow.toNat + off)

/-- A conditional branch (R179): the CODE limit is examined before the operands (R162). [log 14 DEDUCED] -/
def branchEx (cond : DWord → DWord → Bool) (a b : Reg) (off : Int) : Ex Flow := do
  let t ← relTarget off
  let x ← readReg a
  let y ← readReg b
  checkReg (!x.poison) .poison a
  checkReg (!y.poison) .poison b
  pure (if cond x.low y.low then .jump t else .seq)

/-- The link value of JAL and JALR (R180, R37). -/
def linkValue (c : Core) : DWord := (c.pcNow + 2).setWidth 64

/-- JAL (R180). -/
def jalEx (d : Reg) (off : BitVec 20) : Ex Flow := do
  let t ← relTarget off.toInt
  let c ← getC
  writeData d (linkValue c) false
  pure (.jump t)

/-- JALR (R180). -/
def jalrEx (d a : Reg) (imm : BitVec 15) : Ex Flow := do
  let c ← getC
  let x ← readClean a
  let t ← target (x.low.toNat + imm.toInt)
  writeData d (linkValue c) false
  pure (.jump t)

/-- LOOP (R181, R173). [log 14 DEDUCED] -/
def loopEx (a : Reg) (off : BitVec 15) : Ex Flow := do
  let t ← relTarget off.toInt
  let x ← readDest a
  checkReg (!x.poison) .poison a
  if x.low = 0 then pure (.jump t)
  else do
    writeData a (x.low - 1) false
    pure .seq

/-- C.J (R190). -/
def jumpEx (off : BitVec 11) : Ex Flow := do
  let t ← relTarget off.toInt
  pure (.jump t)

def execBeq (a b : Reg) (off : BitVec 15) (s : State) : Out := finish 2 (branchEx (· == ·) a b off.toInt) s
def execBne (a b : Reg) (off : BitVec 15) (s : State) : Out := finish 2 (branchEx (· != ·) a b off.toInt) s
def execBlt (a b : Reg) (off : BitVec 15) (s : State) : Out := finish 2 (branchEx BitVec.slt a b off.toInt) s
def execBge (a b : Reg) (off : BitVec 15) (s : State) : Out :=
  finish 2 (branchEx (fun x y => !x.slt y) a b off.toInt) s
def execBltu (a b : Reg) (off : BitVec 15) (s : State) : Out := finish 2 (branchEx BitVec.ult a b off.toInt) s
def execBgeu (a b : Reg) (off : BitVec 15) (s : State) : Out :=
  finish 2 (branchEx (fun x y => !x.ult y) a b off.toInt) s
def execJal (d : Reg) (off : BitVec 20) (s : State) : Out := finish 2 (jalEx d off) s
def execJalr (d a : Reg) (imm : BitVec 15) (s : State) : Out := finish 2 (jalrEx d a imm) s
def execLoop (a : Reg) (imm : BitVec 15) (s : State) : Out := finish 2 (loopEx a imm) s

def execCBeqz (x : Reg) (off : BitVec 6) (s : State) : Out := finish 1 (branchEx (· == ·) x 0 off.toInt) s
def execCBnez (x : Reg) (off : BitVec 6) (s : State) : Out := finish 1 (branchEx (· != ·) x 0 off.toInt) s
def execCJ (off : BitVec 11) (s : State) : Out := finish 1 (jumpEx off) s

end Sys2Proof.Machine
end

