-- ==== Sys2Proof/Machine/CounterOps.lean ====
section
/-! DEFINITION. The counter instructions (R42 to R46, R225 to R227). -/

namespace Sys2Proof.Machine

/-- An entry with the RW fields of an image, D0 to D4, written (R42, R226): PHASE and PEND stay, OVR is cleared by a 1, and
a registration under another parent ends. -/
def Counter.written (e : Counter) (d0 d1 d2 d3 : DWord) (ltag : BitVec 16) : Counter :=
  let pen := d1.getLsbD 62
  let pctr : BitVec 6 := d1.extractLsb' 53 6
  let pcore : BitVec 20 := d1.extractLsb' 33 20
  { e with
    reload := d0.extractLsb' 32 32, count := d0.extractLsb' 0 32, hen := d1.getLsbD 63, pen := pen,
    prio := d1.extractLsb' 59 2, pctr := pctr, pcore := pcore, ovr := e.ovr && !d1.getLsbD 32,
    chain := d1.extractLsb' 16 16, pc := d1.extractLsb' 0 12, arg := d2, work := d3, ltag := ltag,
    parent := if pen && e.parent == some (pcore.toNat, pctr.toNat) then e.parent else none }

/-- CTRSET (R226, R42). A mark in the entry image is not looked at. [log 64 DEDUCED, log 124 DESIGN CHOICE] -/
def ctrsetEx (k : BitVec 6) (a : Reg) : Ex Flow := do
  let cap ← readReg a
  let p ← access { plainAcc cap a cap.low 40 needLd with align := some 8 }
  let x ← loadPlace p.cut true a
  let w (i : Nat) : DWord := BitVec.ofNat 64 (x.value / 2 ^ (64 * i))
  let d1 := w 1
  let tag : BitVec 16 := (w 4).extractLsb' 0 16
  let s ← getS
  let c := s.core
  let chain := (d1.extractLsb' 16 16).toNat
  let part := s.partOf s.focus
  if c.km then pure ()
  else do
    if chain != c.handle then tableReady part fun s p => s.chainOffs p chain
    let dead := match part with
      | some q => s.chainDead q chain
      | none => true
    check (chain == c.handle) (if dead then .chaindead else .priv) 0
    check (tag == 0 || tag == c.ltag) .priv 0
    check (!d1.getLsbD 62 || (match part with
      | some q => s.inSet q (panelOf (d1.extractLsb' 33 20).toNat)
      | none => false)) .send d1
  let tag := if !c.km && tag == 0 then c.ltag else tag
  modC fun c => c.setCounter k.toNat ((c.counter k.toNat).written (w 0) d1 (w 2) (w 3) tag)
  pure .seq

/-- CTRDEC (R225): a decrement by gA[31:0], unsigned. -/
def ctrdecEx (k : BitVec 6) (a : Reg) : Ex Flow := do
  let v ← readClean a
  modS fun s => s.decrement s.focus k.toNat (v.low.extractLsb' 0 32).toNat
  pure .seq

/-- CTRADD (R225). -/
def ctraddEx (k : BitVec 6) (a : Reg) : Ex Flow := do
  let v ← readClean a
  let d := (v.low.extractLsb' 0 32).toInt
  if d < 0 then modS fun s => s.decrement s.focus k.toNat d.natAbs
  else modC fun c =>
    let e := c.counter k.toNat
    c.setCounter k.toNat { e with count := sat32 (e.count.toInt + d) }
  pure .seq

/-- What CTRGET reports (R225). -/
def Counter.report (e : Counter) : DWord :=
  BitVec.ofNat 64 (e.pend.toNat * 2 ^ 48 + (if e.ovr then 2 ^ 33 else 0) + (if e.phase then 2 ^ 32 else 0) + e.count.toNat)

/-- CTRGET (R225), which acquires what the decrements that it counts release (R85, R96). -/
def ctrgetEx (k : BitVec 6) (d : Reg) : Ex Flow := do
  modC Core.acquires
  let c ← getC
  writeData d (c.counter k.toNat).report false
  pure .seq

/-- ARRIVE (R46, R225): the store buffer drains first, and the decrement leaves over the barrier network. -/
def arriveEx (k : BitVec 6) (a b : Reg) : Ex Flow := do
  let x ← readReg a
  let y ← readReg b
  checkReg (!x.poison) .poison a
  checkReg (!y.poison) .poison b
  let s ← getS
  let n := (x.low.extractLsb' 0 20).toNat
  check (panelOf n == panelOf s.focus) .send x.low
  modS fun s =>
    let s := s.drain s.focus
    { s with decs := s.decs ++ [⟨n, k.toNat, (y.low.extractLsb' 0 32).toNat, s.core.ltag⟩] }
  pure .seq

/-- Whether going up the registered links from a counter reaches another (R227). -/
def State.reachesUp (s : State) (goal : Nat × Nat) : Nat → Nat × Nat → Bool
  | 0, _ => false
  | f + 1, c =>
    c == goal || (match ((s.getCore c.1).counter c.2).parent with
      | some p => s.reachesUp goal f p
      | none => false)

/-- BARLINK (R45, R227). -/
def barlinkEx (k : BitVec 6) (a : Reg) : Ex Flow := do
  let v ← readClean a
  let s ← getS
  let core : BitVec 20 := v.low.extractLsb' 0 20
  let ctr : BitVec 6 := v.low.extractLsb' 20 6
  check (panelOf core.toNat == panelOf s.focus && !s.reachesUp (s.focus, k.toNat) 4096 (core.toNat, ctr.toNat)) .send v.low
  modC fun c => c.setCounter k.toNat
    { c.counter k.toNat with pen := true, pcore := core, pctr := ctr, parent := some (core.toNat, ctr.toNat) }
  pure .seq

/-- CTRCLR (R225): every field to its reset value, no registration above or below, no pending start. -/
def State.clearCounter (s : State) (n k : Nat) : State :=
  let s := (s.children n k).foldl (fun s c => s.modCore c.1 fun x => x.setCounter c.2 { x.counter c.2 with parent := none }) s
  s.modCore n fun c =>
    { (c.dequeue (.counter k)).setCounter k Counter.zero with parked := c.parked.filter fun p => !(p.1 == .counter k) }

/-- CTRCLR (R225). -/
def ctrclrEx (k : BitVec 6) : Ex Flow := do
  modS fun s => s.clearCounter s.focus k.toNat
  pure .seq

def execCtrset (k : BitVec 6) (a : Reg) (s : State) : Out := finish 2 (ctrsetEx k a) s
def execCtrdec (k : BitVec 6) (a : Reg) (s : State) : Out := finish 2 (ctrdecEx k a) s
def execCtradd (k : BitVec 6) (a : Reg) (s : State) : Out := finish 2 (ctraddEx k a) s
def execCtrget (k : BitVec 6) (d : Reg) (s : State) : Out := finish 2 (ctrgetEx k d) s
def execArrive (k : BitVec 6) (a b : Reg) (s : State) : Out := finish 2 (arriveEx k a b) s
def execBarlink (k : BitVec 6) (a : Reg) (s : State) : Out := finish 2 (barlinkEx k a) s
def execCtrclr (k : BitVec 6) (s : State) : Out := finish 2 (ctrclrEx k) s

end Sys2Proof.Machine
end

