-- ==== Sys2Proof/Machine/Duplex.lean ====
section
/-! DEFINITION. Duplex streams: the checks of a DPX form (R234), HemCore (R235), and HEM, PLAYADV, FRAME, GENADV, CMTADV, CKPT
and DPXGET (R236), over the descriptor of R265 to R268. -/

namespace Sys2Proof.Machine

/-- The otype of a stream's descriptor (R12). -/
def otDsd : Nat := 3

/-- A doubleword of a DSD (R265). -/
def State.dsd (s : State) (m i : Nat) : DWord := BitVec.ofNat 64 (s.mem.read (m + 8 * i) 8)
/-- A doubleword of a DSD written at its home. -/
def State.setDsd (s : State) (m i : Nat) (v : DWord) : State :=
  s.agentStore (s.partOf s.focus) (m + 8 * i) 8 v.toNat false

/-- The cursors and counts of a DSD (R265). -/
def State.dsdG (s : State) (m : Nat) : Nat := (s.dsd m 1).toNat
def State.dsdP (s : State) (m : Nat) : Nat := (s.dsd m 2).toNat
def State.dsdC (s : State) (m : Nat) : Nat := (s.dsd m 3).toNat
def State.dsdCkd (s : State) (m : Nat) : Nat := ((s.dsd m 6).extractLsb' 32 7).toNat
def State.dsdSsize (s : State) (m : Nat) : Nat := ((s.dsd m 6).extractLsb' 0 32).toNat
/-- The lowest position that a hem or a checkpoint may name (R235). -/
def State.dsdFloor (s : State) (m : Nat) : Nat := s.dsdG m - s.dsdCkd m

/-- Slot `p mod 64` is valid for position p (R267). -/
def State.slotValid (s : State) (m p : Nat) : Bool :=
  (s.dsd m 9).getLsbD (p % 64) && s.mem.read (m + 128 + 2 * (p % 64)) 2 == p % 2 ^ 16

/-- Steps 2 to 8 of R234: the MPA of the DSD. -/
def dsdAccess (a : Reg) (cap : Val) : Ex Nat := do
  checkReg cap.tag .captag a
  checkReg (capOtype cap.bits == otDsd) .capseal a
  checkReg (needBoth.within (capPerms cap.bits)) .capperm a
  check (inBounds cap.bits cap.low.toNat 256) .capbound cap.low
  check (cap.low.toNat % 256 == 0) .align cap.low
  let acc : Acc := { plainAcc cap a cap.low 256 needBoth with window := false }
  let s ← getS
  match accRange acc s with
  | none => raise .nomap cap.low
  | some (r, _) => do
    accFit acc
    match r with
    | .global off => do
      match ← accMap acc off with
      | (.runs ((m, _) :: _), scrub) => do
        check (match s.homeOf m with
          | some (.sram _) => true
          | _ => false) .nomap cap.low
        awaitScrub scrub
        pure m
      | _ => raise .nomap cap.low
    | _ => raise .nomap cap.low

/-- What precedes an operation at the home (R234): it is an ACQREL AMO at MODULE scope, and the release of an earlier FENCE.REL whose
first store or atomic it is (R89); it waits while a hem of another core waits there (R235). -/
def atHome (m : Nat) : Ex Unit := do
  let s ← getS
  if s.hemWait.any fun w => w.1 == m && w.2 != s.focus then stall
  modS fun s => (.mod :: s.core.owedRel.toList).foldl (fun (s : State) scope => s.releaseFor s.focus scope) s
  modC fun c => (c.setOwed none).acquires
  chargeBy Csrs.gmemPrice

/-- The registers of a DPX form (R153, R234): the values of A and B, neither poisoned, A before B. -/
def dpxRegs (a b : Reg) : Ex (Val × Val) := do
  let x ← readReg a
  let y ← readReg b
  checkReg (!x.poison) .poison a
  checkReg (!y.poison) .poison b
  pure (x, y)

/-- A block of the key-value map freed (R268). -/
def State.freeBlock (s : State) (p m entry : Nat) : State :=
  let w := s.guestWord p entry
  if w.getLsbD 0 then
    let s := s.setGuestWord p entry (w &&& ~~~1)
    let prod : BitVec 32 := (s.dsd m 13).extractLsb' 32 32
    let cap : BitVec 32 := (s.dsd m 13).extractLsb' 0 32
    let cons : BitVec 32 := (s.dsd m 14).extractLsb' 0 32
    if prod - cons < cap then
      let s := s.setGuestWord p ((s.dsd m 12).toNat + 8 * (prod.toNat % cap.toNat)) (w &&& ~~~0x3F)
      s.setDsd m 13 ((prod + 1).setWidth 64 <<< 32 ||| cap.setWidth 64)
    else s
  else s

/-- Blocks from `b` up of a layer freed (R268). -/
def State.freeLayer (s : State) (p m layer : Nat) : Nat → Nat → State
  | 0, _ => s
  | k + 1, b =>
    let maxblk := ((s.dsd m 11).extractLsb' 16 32).toNat
    (s.freeBlock p m ((s.dsd m 10).toNat + 8 * (layer * maxblk + b))).freeLayer p m layer k (b + 1)

/-- Whether the home reaches the addresses of a DSD under its CHAIN (R265): with the region tag of the capability that names the
DSD, and LD and ST. The walk is no panel's. [log 68 DEDUCED] -/
def State.dsdReaches (s : State) (p m : Nat) (cap : QWord) : Bool :=
  match (s.fitWalk noPanel p ((s.dsd m 0).extractLsb' 32 16).toNat (capRtag cap)).1 with
  | .rule perms _ => needBoth.within perms
  | _ => false

/-- Every block whose positions are all at or above t freed, layer by layer (R268). -/
def State.freeFrom (s : State) (p m t : Nat) (cap : QWord) : State :=
  let maxblk := ((s.dsd m 11).extractLsb' 16 32).toNat
  let first := (t + 15) / 16
  if !s.dsdReaches p m cap then s
  else (List.range ((s.dsd m 11).extractLsb' 0 16).toNat).foldl (fun s l => s.freeLayer p m l (maxblk - first) first) s

/-- Whether a released CKPT into a slot has not finished (R235). -/
def State.slotBusy (s : State) (m slot : Nat) : Bool :=
  s.jobs.any fun j => !j.finished && (match j.cmd.kind with
    | .ckpt d k _ => d == m && k == slot
    | _ => false)

/-- A capability's other fields with another address: what the transfers of a stream's state carry (R235, R236). -/
def atAddress (c : QWord) (a : DWord) : QWord := (c.extractLsb' 64 64).setWidth 128 <<< 64 ||| a.setWidth 128

/-- The restore that a hem starts (R235, R267, R119). [log 68 DEDUCED] -/
def State.startRestore (s : State) (p m slot : Nat) (cap : QWord) : State :=
  let size := s.dsdSsize m
  let from_ := s.dsd m 8 + BitVec.ofNat 64 (slot * size)
  let ctr := s.dsd m 14
  let cmd : EngCmd :=
    { kind := .restore, core := s.focus, part := p, chain := (s.dsd m 0).extractLsb' 32 16, ltag := s.core.ltag,
      work := s.core.work, eng64 := BitVec.ofNat 16 s.core.csr.engPrice, src := atAddress cap from_,
      dst := atAddress cap (s.dsd m 7), desc := 0, rows := 1, rowLen := size, idxOff := 0, sStep := 0, dStep := 0,
      remote := none, wmen := false, chan := 0, cen := true, cctr := ctr.extractLsb' 52 6, ccore := ctr.extractLsb' 32 20,
      mbox := none }
  let die := m / 2 ^ 31
  let key := match rangeOf (s.dsd m 8).toNat with
    | some (.global off, _) => match s.tableAt p off false with
      | some x => s.beside p (x.mpa off) die
      | none => (s.ownedOf die p 0 64).head?.map (streamerKey die)
    | _ => none
  s.startJob cmd key

/-- FLUSH, sent by the home at once (R34, R235, R269, R298). -/
def State.sendFlush (s : State) (p m t hems : Nat) : State :=
  let w := s.dsd m 15
  let die := m / 2 ^ 31
  let d := s.die die
  let dmod := (w.extractLsb' 20 12).toNat
  let dcore := (w.extractLsb' 0 20).toNat
  let hdr := mkHdr d.homeNo.toNat 2 (w.extractLsb' 38 2).toNat (w.extractLsb' 32 6).toNat kindActive dmod dcore
  let msg : Msg :=
    { hdr := hdr, words := [BitVec.ofNat 64 t, BitVec.ofNat 64 hems], cap := none,
      env := mkEnv 2 p s.core.handle s.modnum.toNat (die * 2 ^ 18), work := s.core.work,
      launch := s.core.ltag.setWidth 64, links := (s.chain p s.core.handle).getD [], free := false, waited := 0,
      poison := false }
  s.modDie die fun d => { d with
    home := d.home ++ [{ order := d.orders, released := true, body := .msg msg, copies := [copyTo dmod dcore], back := none }],
    homeNo := d.homeNo + 1, orders := d.orders + 1 }

/-- HemCore past its checks (R235). -/
def State.hem (s : State) (p m t : Nat) (cap : QWord) : State :=
  let c := min (s.dsdC m) t
  let q := min (s.dsdP m) t
  let hems := s.dsd m 5 + 1
  let s := s.setDsd m 1 (BitVec.ofNat 64 t)
  let s := s.freeFrom p m t cap
  let s := s.startRestore p m (t % 64) cap
  let s := ((s.setDsd m 3 (BitVec.ofNat 64 c)).setDsd m 2 (BitVec.ofNat 64 q)).setDsd m 5 hems
  s.sendFlush p m t hems.toNat

/-- HEMRANGE and LATEFRAME at a FRAME, which the kernel treats alike (R270): the trap names the DSD. -/
def raiseDpx {α : Type} (c : Cause) (eval : DWord) (dsd : Option DWord) : Ex α :=
  fun _ => .error (.trap ⟨c.code, eval, none, dsd, none⟩)

/-- The frame for whose scrub a hem waits (R332): of the walk for its descriptor's chain, of the block map or of the free ring. -/
def State.hemHeld (s : State) (p m : Nat) (cap : QWord) : Option Nat :=
  match (s.fitWalk noPanel p ((s.dsd m 0).extractLsb' 32 16).toNat (capRtag cap)).1 with
  | .held f => some f
  | .rule perms _ =>
    if needBoth.within perms then
      let d := s.dsd m 11
      s.heldAmong p (pagesIn (s.dsd m 10).toNat (8 * ((d.extractLsb' 0 16).toNat * (d.extractLsb' 16 32).toNat)) ++
        pagesIn (s.dsd m 12).toNat (8 * ((s.dsd m 13).extractLsb' 0 32).toNat))
    else none
  | _ => none

/-- HemCore(t) of the operation of a core (R235): `false` where it must wait. [log 68 DEDUCED] -/
def hemCore (p m t : Nat) (cap : Val) (dsd : Option DWord) : Ex Bool := do
  let s ← getS
  if t > s.dsdG m ∨ t < s.dsdFloor m then raiseDpx .hemrange (BitVec.ofNat 64 t) dsd
  else if s.slotBusy m (t % 64) then pure false
  else if !s.slotValid m t then raiseDpx .hemrange (BitVec.ofNat 64 t) dsd
  else do
    match s.hemHeld p m cap.bits with
    | some f => fun _ => .error (.scrub f)
    | none => pure ()
    modS fun s => { s.hem p m t cap.bits with hemWait := s.hemWait.filter fun w => !(w.2 == s.focus) }
    pure true

/-- A hem waits at the home (R235): nothing else of the instruction stands. -/
def hemWaits (s : State) (m : Nat) : Ex Flow := do
  modS fun _ => { s with hemWait := (m, s.focus) :: s.hemWait.filter fun w => !(w.2 == s.focus) }
  pure .wait

/-- The partition of a DPX operation. -/
def State.dpxPart (s : State) : Nat := (s.partOf s.focus).getD 0

/-- HEM (R236). -/
def hemEx (d a b : Reg) : Ex Flow := do
  let start ← getS
  let (x, y) ← dpxRegs a b
  let m ← dsdAccess a x
  atHome m
  if ← hemCore start.dpxPart m y.low.toNat x none then do
    let s ← getS
    writeData d (s.dsd m 5) false
    pure .seq
  else hemWaits start m

/-- PLAYADV, GENADV, CMTADV and DPXGET (R236): an operation at the home that answers at once. [log 68 DEDUCED] -/
def dpxOp (op : State → Nat → DWord → DWord × State) (d a b : Reg) : Ex Flow := do
  let (x, y) ← dpxRegs a b
  let m ← dsdAccess a x
  atHome m
  let s ← getS
  let r := op s m y.low
  modS fun _ => r.2
  writeData d r.1 false
  pure .seq

/-- PLAYADV (R236). -/
def playadv (s : State) (m : Nat) (v : DWord) : DWord × State :=
  let p := BitVec.ofNat 64 (min (max (s.dsdP m) v.toNat) (s.dsdC m))
  (p, s.setDsd m 2 p)

/-- GENADV (R236). -/
def genadv (s : State) (m : Nat) (v : DWord) : DWord × State :=
  if s.dsd m 1 = v then (v, s.setDsd m 1 (v + 1)) else (1 <<< 63 ||| s.dsd m 1, s)

/-- CMTADV (R236). -/
def cmtadv (s : State) (m : Nat) (v : DWord) : DWord × State :=
  let c := BitVec.ofNat 64 (min (max (s.dsdC m) v.toNat) (s.dsdG m))
  (c, s.setDsd m 3 c)

/-- DPXGET (R236). -/
def dpxget (s : State) (m : Nat) (v : DWord) : DWord × State :=
  ((match (v.extractLsb' 0 3).toNat with
    | 0 => s.dsd m 1
    | 1 => s.dsd m 2
    | 2 => s.dsd m 3
    | 3 => s.dsd m 4
    | 4 => s.dsd m 5
    | 5 => ((s.dsd m 0).extractLsb' 48 2).setWidth 64
    | 6 => BitVec.ofNat 64 (s.dsdCkd m)
    | _ => 0), s)

/-- FRAME (R236, R270): the record is read before the operation goes to the home. A mark in it is not looked at. [log 124 DESIGN CHOICE] -/
def frameEx (d a b : Reg) : Ex Flow := do
  let start ← getS
  let (x, y) ← dpxRegs a b
  let m ← dsdAccess a x
  let p ← access { plainAcc y b y.low 32 needLd with align := some 16 }
  let r ← loadPlace p.cut true b
  let w (i : Nat) : DWord := BitVec.ofNat 64 (r.value / 2 ^ (64 * i))
  atHome m
  chargeGmem y.low
  let s ← getS
  let seq := w 0
  let barge := (w 2).getLsbD 63
  let pf : DWord := ((w 2).extractLsb' 0 32).setWidth 64
  if seq.ult (s.dsd m 4) then raiseDpx .lateframe seq (some x.low)
  else if barge ∧ (pf.toNat < s.dsdFloor m ∨ s.dsdG m < pf.toNat) then raiseDpx .lateframe pf (some x.low)
  else do
    let go ← if barge then hemCore start.dpxPart m pf.toNat x (some x.low) else pure true
    if go then do
      let s ← getS
      let g := s.dsd m 1
      modS fun s => (s.setDsd m 4 (seq + 1)).setDsd m 1 (g + ((w 3).extractLsb' 0 16).setWidth 64)
      writeData d g false
      pure .seq
    else hemWaits start m

/-- CKPT (R236, R267). -/
def ckptEx (d a b : Reg) : Ex Flow := do
  let z ← readReg d
  let x ← readReg a
  let y ← readReg b
  checkReg (!x.poison) .poison a
  checkReg (!y.poison) .poison b
  checkReg (!z.poison) .poison d
  let m ← dsdAccess a x
  checkReg y.tag .captag b
  checkReg (capOtype y.bits == 0) .capseal b
  checkReg (needLd.within (capPerms y.bits) && capEngine y.bits) .capperm b
  atHome m
  let s ← getS
  let p := z.low
  check (decide (p.toNat ≤ s.dsdG m) && decide (s.dsdFloor m ≤ p.toNat)) .hemrange p
  let slot := p.toNat % 64
  let size := s.dsdSsize m
  let cmd : EngCmd :=
    { kind := .ckpt m slot (p.extractLsb' 0 16), core := s.focus, part := s.dpxPart, chain := s.core.chn.extractLsb' 0 16,
      ltag := s.core.ltag, work := s.core.work, eng64 := BitVec.ofNat 16 s.core.csr.engPrice, src := y.bits,
      dst := atAddress x.bits (s.dsd m 8 + BitVec.ofNat 64 (slot * size)), desc := 0, rows := 1, rowLen := size, idxOff := 0,
      sStep := 0, dStep := 0, remote := none, wmen := false, chan := 0, cen := false, cctr := 0, ccore := 0, mbox := none }
  modS fun s => s.setDsd m 9 (s.dsd m 9 &&& ~~~((1 : DWord) <<< slot))
  place 0 (.engine cmd) []
  pure .seq

def execHem (d a b : Reg) (s : State) : Out := finish 2 (hemEx d a b) s
def execPlayadv (d a b : Reg) (s : State) : Out := finish 2 (dpxOp playadv d a b) s
def execFrame (d a b : Reg) (s : State) : Out := finish 2 (frameEx d a b) s
def execGenadv (d a b : Reg) (s : State) : Out := finish 2 (dpxOp genadv d a b) s
def execCmtadv (d a b : Reg) (s : State) : Out := finish 2 (dpxOp cmtadv d a b) s
def execCkpt (d a b : Reg) (s : State) : Out := finish 2 (ckptEx d a b) s
def execDpxget (d a b : Reg) (s : State) : Out := finish 2 (dpxOp dpxget d a b) s

end Sys2Proof.Machine
end

