-- ==== Sys2Proof/Machine/Eng.lean ====
section
/-! DEFINITION. The engine instructions: CPY, GATHER, SCATTER and FILL with the checks that their issue makes, WMSET and
WMGET (R255 to R259). -/

namespace Sys2Proof.Machine

/-- An engine capability checked (R257 order 2): tagged, unsealed, with a permission and ENGINE. [log 57 DEDUCED] -/
def engCap (r : Reg) (v : Val) (need : Need) : Ex Unit := do
  checkReg v.tag .captag r
  checkReg (capOtype v.bits == 0) .capseal r
  checkReg (need.within (capPerms v.bits) && capEngine v.bits) .capperm r

/-- Whether a local range lies in one range of R22 that an engine may name, within the partition (R257 order 5). -/
def State.engRange (s : State) (n a len : Nat) : Bool :=
  match rangeOf a with
  | none => false
  | some (r, left) => decide (len ≤ left) && (match r with
    | .alias_ _ _ => false
    | .imem _ => false
    | .tcm m _ => m == n || s.reachesPanel n (panelOf m)
    | .spad p _ => s.reachesPanel n p
    | _ => true)

/-- Whether an address names some core's TCM (R257 order 6). -/
def inSomeTcm (a : Nat) : Bool :=
  match rangeOf a with
  | some (.ownTcm _, _) => true
  | some (.tcm _ _, _) => true
  | _ => false

/-- Whether the partition has a streamer for a source (R257 order 7). -/
def State.hasStreamer (s : State) (n src : Nat) : Bool :=
  match s.partOf n with
  | none => false
  | some p => !isGlobal src || !(s.ownedOf (dieOfCore n) p 0 64).isEmpty

/-- What an issued command and its checks need to know: the transfer's geometry, the local ranges to check (R257 order 5),
and the word that EVAL names at orders 6 and 8. -/
structure EngSpec where
  kind   : EngKind
  rows   : Nat
  rowLen : Nat
  idxOff : DWord
  sStep  : Nat
  dStep  : Nat
  remote : Option (BitVec 12)
  word   : DWord
  remWord : DWord
  wmen   : Bool
  cen    : Bool
  cctr   : BitVec 6
  ccore  : BitVec 20
  mbox   : Option Nat
  srcLen : Nat
  dstLen : Nat
  lists  : List (DWord × Nat)

/-- What CPY and FILL take from their control word (R255). -/
def ctlSpec (fill : Bool) (w : DWord) : EngSpec :=
  let len := (w.extractLsb' 0 32).toNat
  { kind := if fill then .fill else .cpy, rows := 1, rowLen := len, idxOff := 0, sStep := 0, dStep := 0, remote := none,
    word := w, remWord := w, wmen := w.getLsbD 59, cen := w.getLsbD 58, cctr := w.extractLsb' 52 6,
    ccore := w.extractLsb' 32 20, mbox := none, srcLen := if fill then 16 else len, dstLen := len,
    lists := [] }

/-- The length of the range that rows one step apart take up; of no rows it is none. -/
def rowsSpan (rows len step : Nat) : Nat := if rows = 0 then 0 else (rows - 1) * step + len

/-- What GATHER and SCATTER take from their descriptor (R256). Of the rows that the index list selects only the base is a
range at issue: the streamer checks each of them (R257). The index list and the mailbox are ranges too. [log 57 DEDUCED] -/
def descSpec (scatter : Bool) (base w0 w1 w2 w3 : DWord) : EngSpec :=
  let rows := (w0.extractLsb' 0 32).toNat
  let len := (w0.extractLsb' 32 16).toNat
  let mbox : DWord := base + (w3.extractLsb' 32 32).setWidth 64
  { kind := if scatter then .scatter else .gather, rows := rows, rowLen := len, idxOff := w1, sStep := (w2.extractLsb' 0 32).toNat,
    dStep := (w2.extractLsb' 32 32).toNat,
    remote := if w0.getLsbD 60 then some (w0.extractLsb' 48 12) else none, word := w3, remWord := w0,
    wmen := w3.getLsbD 27, cen := w3.getLsbD 26, cctr := w3.extractLsb' 20 6, ccore := w3.extractLsb' 0 20,
    mbox := if w3.getLsbD 28 then some mbox.toNat else none,
    srcLen := if scatter then rowsSpan rows len (w2.extractLsb' 0 32).toNat else 1,
    dstLen := if scatter then 1 else rowsSpan rows len (w2.extractLsb' 32 32).toNat,
    lists := (if rows = 0 then [] else [(base + w1, 4 * rows)]) ++ (if w3.getLsbD 28 then [(mbox, 8)] else []) }

/-- Orders 5 to 8 of R257, and the command placed. [log 57 DEDUCED] -/
def engPlace (e : EngSpec) (ch : BitVec 2) (src dst desc : Val) : Ex Flow := do
  let s ← getS
  let remoteSrc := e.remote.isSome && e.kind == .gather
  let remoteDst := e.remote.isSome && e.kind == .scatter
  check (remoteSrc || s.engRange s.focus src.low.toNat (max 1 e.srcLen)) .nomap src.low
  check (remoteDst || s.engRange s.focus dst.low.toNat (max 1 e.dstLen)) .nomap dst.low
  eachOk e.lists fun r => check (s.engRange s.focus r.1.toNat r.2) .nomap r.1
  check (!e.wmen || (inSomeTcm dst.low.toNat && !remoteDst)) .send e.word
  check (!e.cen || (match s.partOf s.focus with
    | some p => s.inSet p (panelOf e.ccore.toNat)
    | none => false)) .send e.word
  check (match e.remote with
    | some m => m == s.modnum || s.reach.contains m
    | none => true) .send e.remWord
  check (s.hasStreamer s.focus src.low.toNat) .engfault src.low
  let cmd : EngCmd :=
    { kind := e.kind, core := s.focus, part := (s.partOf s.focus).getD 0, chain := s.core.chn.extractLsb' 0 16,
      ltag := s.core.ltag, work := s.core.work, eng64 := BitVec.ofNat 16 s.core.csr.engPrice, src := src.bits,
      dst := dst.bits, desc := desc.bits, rows := e.rows, rowLen := e.rowLen, idxOff := e.idxOff, sStep := e.sStep,
      dStep := e.dStep, remote := e.remote, wmen := e.wmen, chan := ch, cen := e.cen, cctr := e.cctr, ccore := e.ccore,
      mbox := e.mbox }
  place e.word (.engine cmd) []
  pure .seq

/-- CPY and FILL (R255, R257). [log 57 DEDUCED] -/
def copyEx (fill : Bool) (d a b : Reg) (ch : BitVec 2) : Ex Flow := do
  match ← rawRegs [a, b, d] with
  | [src, dst, w] => do
    engCap a src needLd
    engCap b dst needSt
    let e := ctlSpec fill w.low
    check (inBounds src.bits src.low.toNat e.srcLen) .capbound src.low
    check (!fill || src.low.toNat % 16 == 0) .align src.low
    check (inBounds dst.bits dst.low.toNat e.dstLen) .capbound dst.low
    engPlace e ch src dst Val.zero
  | _ => pure .seq

/-- GATHER and SCATTER (R256, R257). [log 57 DEDUCED] -/
def rowsEx (scatter : Bool) (d a b : Reg) (ch : BitVec 2) : Ex Flow := do
  match ← rawRegs [a, b, d] with
  | [src, dst, cap] => do
    engCap a src needLd
    engCap b dst needSt
    engCap d cap needLd
    let p ← access { plainAcc cap d cap.low 32 needLd with align := some 32 }
    let x ← loadPlace p.cut true d
    let w (i : Nat) : DWord := BitVec.ofNat 64 (x.value / 2 ^ (64 * i))
    let e := descSpec scatter cap.low (w 0) (w 1) (w 2) (w 3)
    checkReg (e.mbox.isNone || needSt.within (capPerms cap.bits)) .capperm d
    check (decide (0 < e.rowLen)) .send (w 0)
    let f ← engPlace e ch src dst cap
    chargeGmem cap.low
    pure f
  | _ => pure .seq

/-- A watermark channel (R97). -/
def Core.wm (c : Core) (ch : BitVec 2) : Watermark := c.wms[ch.toNat]?.getD Watermark.zero

/-- WMSET (R259): no later access to the channel's bytes has performed before it. -/
def wmsetEx (ch : BitVec 2) (a b : Reg) : Ex Flow := do
  let x ← readReg a
  let y ← readReg b
  checkReg (!x.poison) .poison a
  checkReg (!y.poison) .poison b
  let base : BitVec 15 := x.low.extractLsb' 0 15
  let len : BitVec 16 := y.low.extractLsb' 0 16
  check (base.toNat % 256 == 0) .align (base.setWidth 64)
  check (len.toNat % 256 == 0) .align (len.setWidth 64)
  check (decide (base.toNat + len.toNat ≤ 0x8000)) .nomap x.low
  let s ← getS
  modC fun c => { c with wms := c.wms.setIfInBounds ch.toNat ⟨base, len, 0, [], false⟩,
                         early := c.early.filter fun e => !e.touches (tcmBase s.focus + base.toNat) len.toNat }
  pure .seq

/-- What WMGET reports (R259). -/
def Watermark.report (w : Watermark) : DWord :=
  BitVec.ofNat 64 (w.base.toNat * 2 ^ 48 + w.len.toNat * 2 ^ 32 + (if w.stopped then 2 ^ 16 else 0) + w.w % 2 ^ 16)

/-- WMGET (R259). -/
def wmgetEx (d : Reg) (ch : BitVec 2) : Ex Flow := do
  let c ← getC
  writeData d (c.wm ch).report false
  pure .seq

def execCpy (d a b : Reg) (ch : BitVec 2) (s : State) : Out := finish 2 (copyEx false d a b ch) s
def execFill (d a b : Reg) (ch : BitVec 2) (s : State) : Out := finish 2 (copyEx true d a b ch) s
def execGather (d a b : Reg) (ch : BitVec 2) (s : State) : Out := finish 2 (rowsEx false d a b ch) s
def execScatter (d a b : Reg) (ch : BitVec 2) (s : State) : Out := finish 2 (rowsEx true d a b ch) s
def execWmset (ch : BitVec 2) (a b : Reg) (s : State) : Out := finish 2 (wmsetEx ch a b) s
def execWmget (d : Reg) (ch : BitVec 2) (s : State) : Out := finish 2 (wmgetEx d ch) s

end Sys2Proof.Machine
end

