-- ==== Sys2Proof/Machine/LoadStore.lean ====
section
/-! DEFINITION. Loads and stores (R195 to R197), and C.LDD and C.STD (R190). -/

namespace Sys2Proof.Machine

/-- The effective address of the L and S formats (R195, R196). -/
def dispAddr (cap : Val) (imm : BitVec 12) : DWord := cap.low + imm.signExtend 64

/-- LD, or with `alloc` false LDNA (R195). -/
def loadEx (d a : Reg) (sz : BitVec 3) (imm : BitVec 12) (alloc : Bool) : Ex Flow := do
  let cap ← readReg a
  let v ← loadVal cap a (dispAddr cap imm) sz alloc
  writeReg d v
  pure .seq

/-- ST, or with `alloc` false STNA (R196): the data register is the lower field (R153). -/
def storeEx (b a : Reg) (sz : BitVec 3) (imm : BitVec 12) (alloc : Bool) : Ex Flow := do
  let v ← readReg b
  let cap ← readReg a
  storeVal cap a (dispAddr cap imm) sz v b alloc
  pure .seq

/-- The displacement of C.LDD and C.STD: doublewords (R190). -/
def dwordDisp (off : BitVec 6) : BitVec 12 := off.setWidth 12 * 8

/-- C.STD: X is the only register field, and it is read first. -/
def storeG10 (x : Reg) (off : BitVec 6) : Ex Flow := storeEx x 10 3 (dwordDisp off) true

def execLd (d a : Reg) (sz : BitVec 3) (imm : BitVec 12) (s : State) : Out := finish 2 (loadEx d a sz imm true) s
def execLdna (d a : Reg) (sz : BitVec 3) (imm : BitVec 12) (s : State) : Out := finish 2 (loadEx d a sz imm false) s
def execSt (b a : Reg) (sz : BitVec 3) (imm : BitVec 12) (s : State) : Out := finish 2 (storeEx b a sz imm true) s
def execStna (b a : Reg) (sz : BitVec 3) (imm : BitVec 12) (s : State) : Out := finish 2 (storeEx b a sz imm false) s
def execCLdd (x : Reg) (off : BitVec 6) (s : State) : Out := finish 1 (loadEx x 10 3 (dwordDisp off) true) s
def execCStd (x : Reg) (off : BitVec 6) (s : State) : Out := finish 1 (storeG10 x off) s

end Sys2Proof.Machine
end

