-- ==== Sys2Proof/Machine/Training.lean ====
section
/-! DEFINITION. Training of the GDDR channels and the links (R358 to R360). -/

namespace Sys2Proof.Machine

/-- A training block written. -/
def State.setTrain (s : State) (b : TrainBlock) (t : Train) : State :=
  { s with trains := if s.trains.any fun x => x.1 == b then s.trains.map fun x => if x.1 == b then (b, t) else x
                     else s.trains ++ [(b, t)] }

/-- Whether a block is a GDDR channel's. -/
def isChannel (b : TrainBlock) : Bool :=
  match b with
  | .gddr _ => true
  | _ => false

/-- The last OP of a block's sequence (R359, R360). -/
def lastOp (b : TrainBlock) : Nat := if isChannel b then 7 else 5
/-- The OP that runs on trained settings written back, VERIFY or PRBS, and the OP that must have passed before the ones that
they replace (R358). -/
def replayOp (b : TrainBlock) : Nat := if isChannel b then 6 else 2
def replayFrom (b : TrainBlock) : Nat := if isChannel b then 1 else 0

/-- Whether the argument of an OP is one that it takes: PRBS runs over 2^20 to 2^40 bits a lane (R360). [log 93 DEDUCED] -/
def argOk (b : TrainBlock) (t : Train) : Bool :=
  isChannel b || t.op != 2 || (decide (20 ≤ t.arg.toNat) && decide (t.arg.toNat ≤ 40))

/-- Whether a block is a port that has been left disabled (R360). -/
def State.portOff (s : State) (b : TrainBlock) : Bool :=
  match b with
  | .trarum p => !s.porten.getLsbD p
  | _ => false

/-- Whether an OP may run: it is one of the block's, its port has not been left disabled, it takes its argument, and the one before it has passed, in fact or by settings written back; the
DESKEW of all lanes needs PRBS of all four groups (R358, R360). [log 93 DEDUCED] -/
def State.opMay (s : State) (b : TrainBlock) (t : Train) : Bool :=
  let op := t.op.toNat
  let all := b != .brix 0 || op != 3 || t.arg != 1 || brixGroups.all fun g => decide (2 ≤ (s.train g).passed)
  decide (1 ≤ op) && decide (op ≤ lastOp b) && argOk b t && !s.portOff b && all &&
    (decide (op ≤ t.passed + 1) || (op == replayOp b && t.wrote == 0x3F && decide (replayFrom b ≤ t.passed)))

/-- A step of the sequence has run: what it found waits for TRAINING_DONE. [log 93 DEDUCED] -/
def State.opRuns (s : State) (b : TrainBlock) (op : Nat) (pass : Bool) (margin : BitVec 16) (errs : BitVec 32) (f : Train → Train) : State :=
  let t := s.train b
  if t.go && t.op.toNat == op && t.result.isNone && s.opMay b t then s.setTrain b { f t with result := some (pass, margin, errs) } else s

/-- A trained setting kept (R358). -/
def keepSetting (k : Nat) (v : DWord) (t : Train) : Train := { t with res := t.res.setIfInBounds k v }

/-- Zero over a whole GDDR channel: no byte, tag or mark of it is left (R359). -/
def Memory.clearChannel (m : Memory) (c : Nat) : Memory := m.without fun a => rawHome a == some (.gddr c)

/-- ONLINE of a GDDR channel (R359). -/
def State.channelOnline (s : State) (c : Nat) : State :=
  let b := TrainBlock.gddr c
  let t := s.train b
  if t.go && t.op == 7 && t.result.isNone && s.opMay b t then
    { s with mem := s.mem.clearChannel c }.setTrain b { t with online := true, result := some (true, t.margin, t.errs) }
  else s

/-- ONLINE of a link: its traffic begins; with the four Brixmal groups up the module has its number, a port reaches its
modules (R360, R14, R351). [log 92 DESIGN CHOICE] -/
def State.linkUp (s : State) (b : TrainBlock) : State :=
  let t := s.train b
  if t.go && t.op == 5 && t.result.isNone && s.opMay b t then
    let s := s.setTrain b { t with online := true, result := some (true, t.margin, t.errs) }
    match b with
    | .trarum p =>
      let new := ((List.range 4096).map (BitVec.ofNat 12)).filter fun m => Config.peer p m && !s.reach.contains m
      { s with reach := s.reach ++ new }
    | _ => if brixGroups.all fun g => (s.train g).online then { s with modnum := Config.moduleNumber } else s
  else s

/-- A failed attempt at a block (R359, R360): what becomes of boot. [log 93 DEDUCED] -/
def State.attemptFails (s : State) (b : TrainBlock) (fails : Nat) : State :=
  match b with
  | .gddr c => if fails = 4 then s.bootFails codeGddrfail (BitVec.ofNat 16 c) else s
  | .brix d => s.bootFails codeLinkfail (Config.bootDetail d 0)
  | .trarum p =>
    if fails = 3 then { s with porten := s.porten &&& ~~~((1 : BitVec 18) <<< p) }.bootDetail (Config.bootDetail (dieOfPort p) p) else s

/-- TRAINING_DONE: the OP ends and reports; one that is undefined or comes too early ends at once (R358). [log 93 DEDUCED] -/
def State.trainingEnds (s : State) (b : TrainBlock) : State :=
  let t := s.train b
  let early := !s.opMay b t
  if !t.go then s
  else match t.result, early with
    | some (pass, margin, errs), _ =>
      let op := t.op.toNat
      let n := if pass then t.fails else t.fails + 1
      let u := { t with go := false, done := true, pass := pass, margin := margin, errs := errs, result := none, fails := n,
                        passed := if pass then op else op - 1, wrote := if op = replayOp b then 0 else t.wrote }
      let s := s.setTrain b u
      let s := if pass && op == 3 && b == .brix 0 && t.arg == 1 then
          brixGroups.foldl (fun s g => s.setTrain g { s.train g with passed := max 3 (s.train g).passed }) s
        else s
      if pass then s else s.attemptFails b n
    | none, true => s.setTrain b { t with go := false, done := true, pass := false, errs := 0xFFFFFFFF }
    | none, false => s

/-- The smallest margins that CATRAIN, RDTRAIN and WRTRAIN, and EQ ask for (R359, R360). -/
def marginCa : Nat := 8
def marginData : Nat := 6
def marginEq : Nat := 4

def execGddrInit (c : Nat) (r : TrainResult) (s : State) : Out := .next (s.opRuns (.gddr c) 1 r.ok r.margin r.errs id)
def execCatrain (c : Nat) (r : TrainResult) (s : State) : Out :=
  .next (s.opRuns (.gddr c) 2 (decide (marginCa ≤ r.margin.toNat)) r.margin r.errs (keepSetting 0 r.res))
def execWckalign (c : Nat) (r : TrainResult) (s : State) : Out :=
  .next (s.opRuns (.gddr c) 3 r.ok r.margin r.errs (keepSetting 1 r.res))
def execRdtrain (c : Nat) (r : TrainResult) (s : State) : Out :=
  .next (s.opRuns (.gddr c) 4 (decide (marginData ≤ r.margin.toNat)) r.margin r.errs (keepSetting 2 r.res))
def execWrtrain (c : Nat) (r : TrainResult) (s : State) : Out :=
  .next (s.opRuns (.gddr c) 5 (decide (marginData ≤ r.margin.toNat)) r.margin r.errs (keepSetting 3 r.res))
def execVerify (c : Nat) (r : TrainResult) (s : State) : Out := .next (s.opRuns (.gddr c) 6 (r.errs == 0) r.margin r.errs id)
def execGddrOnline (c : Nat) (s : State) : Out := .next (s.channelOnline c)
def execEqTrain (b : TrainBlock) (r : TrainResult) (s : State) : Out :=
  .next (s.opRuns b 1 (decide (marginEq ≤ r.margin.toNat)) r.margin r.errs (keepSetting 0 r.res))
def execPrbs (b : TrainBlock) (r : TrainResult) (s : State) : Out := .next (s.opRuns b 2 (r.errs == 0) r.margin r.errs id)
def execDeskew (b : TrainBlock) (r : TrainResult) (s : State) : Out := .next (s.opRuns b 3 r.ok r.margin r.errs id)
def execFlitlock (b : TrainBlock) (r : TrainResult) (s : State) : Out := .next (s.opRuns b 4 r.ok r.margin r.errs id)
def execLinkOnline (b : TrainBlock) (s : State) : Out := .next (s.linkUp b)
def execTrainingDone (b : TrainBlock) (s : State) : Out := .next (s.trainingEnds b)

end Sys2Proof.Machine
end

