-- ==== Sys2Proof/Machine/Stage.lean ====
section
/-! DEFINITION. Stage 1 as the spec describes it, step by step (R348, R352, R362, R366). The code of stage 1 comes with its image and
reaches the same registers by its own loads and stores; these steps stand for the shipped one. -/

namespace Sys2Proof.Machine

/-- PHASE of BOOTSTAT (R351). -/
def State.phase (s : State) : Nat := bitsAt s.sec.boot 8 8

/-- PHASE set (R352). -/
def State.setPhase (s : State) (k : Nat) : State :=
  { s with sec := { s.sec with boot := (s.sec.boot &&& ~~~(0xFF00 : DWord)) ||| BitVec.ofNat 64 (k * 2 ^ 8) } }

/-- Whether stage 1 goes on: die 0's flint runs it, and boot has reached neither READY nor a failure (R351, R352). -/
def State.staging (s : State) : Bool := s.flint 0 == .running && !s.sec.boot.getLsbD 63

/-- The rails that stage 1 brings up, in the order of R355. -/
def stageRails : List Nat := [1, 2, 3, 4, 8, 6, 7]

/-- The Trarum ports of a die (R9). -/
def portsOf (d : Nat) : List Nat := (List.range 18).filter fun p => dieOfPort p == d

/-- The first channel of a die that has not been handed over (R359). -/
def State.channelLeft (s : State) (d : Nat) : Option Nat :=
  ((List.range 32).map fun k => 32 * d + k).find? fun c => !(s.train (.gddr c)).online

/-- Whether training of a die has ended: its channels are online, each port is online or has been left disabled (R359, R360). -/
def State.dieTrained (s : State) (d : Nat) : Bool :=
  (s.channelLeft d).isNone && (portsOf d).all fun p => (s.train (.trarum p)).online || !s.porten.getLsbD p

/-- Step 2 of R352 for one flint: the stage-1 code into its IMEM, and ENTRY to its START. -/
def State.flintLoaded (s : State) (d : Nat) : State :=
  (s.copyImage (fun k => s.mem.byte (imemBase (flintNo 0) + k)) 0 (imemBase (flintNo d)) 8192).flintStarted d s.sec.entry

/-- Boot stopped by a flint that has failed: by a channel of its die that is not online, else by a port (R352, R359, R360). [log 106 DESIGN CHOICE] -/
def State.flintFailed (s : State) (d : Nat) : State :=
  match s.channelLeft d with
  | some c => s.bootFails codeGddrfail (BitVec.ofNat 16 c)
  | none => s.bootFails codeLinkfail (Config.bootDetail d 0)

/-- Steps 2 and 3 of R352: the flints of dies 1 to 3 are loaded and started; stage 1 waits for them and for its own die. -/
def State.stageTrains (s : State) : State :=
  let others := [1, 2, 3]
  match others.find? fun d => s.flint d == .held, others.find? fun d => s.flint d == .failed with
  | some d, _ => s.flintLoaded d
  | none, some d => s.flintFailed d
  | none, none => if s.dieTrained 0 && others.all fun d => s.flint d == .halted then s.setPhase 4 else s

/-- Whether stage 1 has loaded every image and locked MEAS2 to MEAS4 (R352 step 5). -/
def State.imagesIn (s : State) : Bool := s.sec.lock.getLsbD 4

/-- The next step of stage 1 (R352). [log 106 DESIGN CHOICE] -/
def State.stageStep (s : State) : State :=
  if !s.staging then s
  else match s.phase with
    | 1 => s.setPhase 2
    | 2 =>
      match stageRails.find? fun n => !s.railUp n with
      | some n => s.railEnable n true
      | none => if s.clkCur = 3 ∧ !s.clkBusy then s.setPhase 3 else s.clockRequested 3
    | 3 => s.stageTrains
    | 4 => if s.hostUp then s.setPhase 5 else s
    | 5 =>
      if !s.sec.fuselock then s.fusesClosed
      else if !s.imagesIn then s
      else if s.clkCur = 0 ∧ !s.clkBusy then
        let s := s.setPhase 6
        { s with sec := { s.sec with boot := s.sec.boot ||| BitVec.ofNat 64 (2 ^ 63) } }
      else s.clockRequested 0
    | _ => s

/-- Stage 1 finds in PHASE 2 that the TCM or the scratchpad of a panel fails: its retirement joins the die's panel commands (R366). -/
def State.stagePanel (s : State) (panel : Nat) : State :=
  if s.staging && s.phase == 2 && s.railUp (railCore (dieOfPanel panel)) then s.retireQueued panel else s

/-- Whether stage 1 takes an image in its step 5: FUSELOCK is set, the security block has served what has reached it (R347), and no kernel image follows a streamer image (R346, R348). -/
def State.imageMay (s : State) (kind : Nat) : Bool :=
  s.staging && s.phase == 5 && s.sec.fuselock && !s.imagesIn && s.sec.queue.isEmpty &&
    (kind == 3 || (kind == 2 && s.sec.images.all fun x => x.2 == 2))

/-- Stage 1 verifies, measures and loads a kernel or streamer image from a flash offset; a failure ends boot (R344, R348, R352). Its extend
follows the requests that the security block has (R347). What
runs on the cores and streamers from then on is the behaviour that the spec gives their kernels. [log 106 DESIGN CHOICE] -/
def State.stageImage (s : State) (off kind : Nat) : State :=
  if !s.imageMay kind then s
  else
    let img := s.flashByte off
    let h := imageHead img
    match s.imageFault img kind h with
    | some _ => s.bootFails codeBadimage 0
    | none =>
      let s := s.extend kind (digest (signedBytes img h))
      let s := { s with sec := { s.sec with images := s.sec.images ++ [(off, kind)] } }
      let s := (Config.imageCores off kind).foldl (fun s n => s.copyImage img 0x60 (imemBase n) h.codelen) s
      s.copyImage img (0x60 + h.codelen) h.datampa (h.bodylen - h.codelen)

/-- Byte `k` of function 0's configuration space. -/
def configByte (k : Nat) : Byte := BitVec.ofNat 8 ((configRead 0 k).toNat / 2 ^ (8 * (k % 4)))

/-- The end of step 5 of R352: MEAS4 takes the policy data, the copy of the configuration space is written and reported, MEAS2 to
MEAS4 are locked (R348, R362). [log 106 DESIGN CHOICE] -/
def State.stageLoaded (s : State) : State :=
  if !s.imageMay 3 then s
  else
    let s := s.extend 4 (digest (Config.policyBytes s.sec.images))
    let at_ := Config.featurePage % 2 ^ 15 * 2 ^ 16
    let s := s.copyImage configByte 0 at_ 4096
    { s with sec := { s.sec with featmpa := BitVec.ofNat 64 at_ } }.locked 0x1C

/-- Whether a training block belongs to the die of a flint; the Brixmal groups are die 0's flint's (R352, R358). -/
def ownBlock (d : Nat) (b : TrainBlock) : Bool :=
  match b with
  | .gddr c => c < 128 && c / 32 == d
  | .trarum p => p < 18 && dieOfPort p == d
  | .brix g => g < 4 && d == 0

/-- Whether the flint of a die trains a block now: the one of die 0 in its steps, each other while stage 1 waits for it (R352). -/
def State.trainsNow (s : State) (d : Nat) (b : TrainBlock) : Bool :=
  ownBlock d b && s.phase == (match b with
    | .brix _ => 4
    | _ => 3) && (if d = 0 then s.staging else s.flint d == .running)

/-- Stage 1 runs the next OP of a block's sequence with an argument of its choice: from the first again once one has failed (R352, R359,
R360). [log 106 DESIGN CHOICE] -/
def State.stageTrained (s : State) (d : Nat) (b : TrainBlock) (arg : Byte) : State :=
  let t := s.train b
  let op := if t.done && !t.pass then 1 else t.passed + 1
  let u := { t with arg := arg, op := BitVec.ofNat 8 op, go := true, done := false, pass := false, result := none }
  if s.trainsNow d b && !t.go && !t.online && !s.portOff b && argOk b u then s.setTrain b u else s

/-- A flint of dies 1 to 3 has trained its die: its results stand in die 0 SRAM, and it executes HALT (R352 step 2). What the results
look like is stage 1's own. [log 106 DESIGN CHOICE] -/
def State.flintTrains (s : State) (d : Nat) : State :=
  if 1 ≤ d && s.flint d == .running && s.phase == 3 && s.dieTrained d then
    let at_ := Config.resultPage d % 2 ^ 15 * 2 ^ 16
    let words := (List.range 32).map fun k =>
      let t := s.train (.gddr (32 * d + k))
      fieldsAt [(asBit t.pass, 62), (t.margin.toNat, 32), (t.errs.toNat, 0)]
    (s.putWords at_ words).setFlint d .halted
  else s

end Sys2Proof.Machine
end

