-- ==== Sys2Proof/Machine/Registers.lean ====
section
/-! DEFINITION. The register spaces of the Brixmal functions (R306): what a write of 64 bits at an offset does (R307, R309, R328, R329, R349, R351, R353, R355 to R358, R360, R365, R369, R371, R372). -/

namespace Sys2Proof.Machine

/-! ### Writes -/

/-- A write of a partition block that takes effect only while EN is 0 (R328). -/
def State.partIdle (s : State) (p : Nat) (f : Part → Part) : State := if (s.part p).en then s else s.modPart p f

/-- A write of a partition block by the physical function (R328, R371). [log 81 DEDUCED, log 86 DEDUCED] -/
def State.writePart (s : State) (p o : Nat) (v : DWord) : State :=
  match o with
  | 0x000 => s.enabled p (v.getLsbD 63)
  | 0x008 => s.partIdle p fun q => { q with s2root := v }
  | 0x010 => s.modPart p fun q => { q with g1root := v, g1live := if q.en then q.g1live else v }
  | 0x018 => s.partIdle p fun q => { q with psbase := v }
  | 0x020 => s.partIdle p fun q => { q with ptbase := v }
  | 0x028 => s.partIdle p fun q => { q with ptcount := v.extractLsb' 0 24 }
  | 0x030 => s.partIdle p fun q => { q with ctbase := v }
  | 0x038 => s.partIdle p fun q => { q with pbbase := v }
  | 0x040 => s.partIdle p fun q => { q with pbcount := v.extractLsb' 0 16 }
  | 0x048 => s.partIdle p fun q => { q with acbase := v }
  | 0x050 => if v.getLsbD 0 && !(s.part p).bookflush then s.bookFlushed p else s
  | 0x058 => if v.getLsbD 0 then s.xlFlushed p else s
  | 0x060 => s.partIdle p fun q => { q with waymask := v, waymask2 := v }
  | 0x068 => s.partIdle p fun q => { q with price0 := v }
  | 0x070 => s.partIdle p fun q => { q with price1 := v }
  | 0x078 => s.partIdle p fun q => { q with prqbase := v }
  | 0x080 => s.partIdle p fun q => { q with prqlog := v.extractLsb' 0 5 }
  | 0x088 => s.requestsRead p (v.extractLsb' 0 32)
  | 0x090 => s.partIdle p fun q => { q with rpbase := v }
  | 0x098 => (s.partIdle p fun q => { q with rplog := v.extractLsb' 32 5 }).published p (v.extractLsb' 0 32)
  | 0x0A0 => s.partIdle p fun q => { q with peerbase := v }
  | 0x0A8 => s.partIdle p fun q => { q with peercount := v.extractLsb' 0 16 }
  | 0x0B0 => s.partIdle p fun q => { q with sabase := v }
  | 0x0B8 =>
    if (s.part p).context != .idle then s
    else match bitsAt v 0 2 with
      | 1 => s.saveStep p
      | 2 => s.restoreStep p
      | _ => s
  | 0x0C0 => s.partIdle p fun q => { q with featcopy := v }
  | 0x0C8 => if (s.part p).dmen then s else s.modPart p fun q => { q with dmbase := v }
  | 0x0D0 => s.modPart p fun q => { q with dmen := v.getLsbD 63 }
  | _ => s

/-- A write of its block by a partition's virtual function (R328). -/
def State.writePartVf (s : State) (p o : Nat) (v : DWord) : State :=
  if o = 0x010 ∨ o = 0x050 ∨ o = 0x058 then s.writePart p o v else s

/-- A write of a queue window (R307). -/
def State.writeQueue (s : State) (a : RegAgent) (q o : Nat) (v : DWord) : State :=
  if o = 0x000 then s.doorbell a q (v.extractLsb' 0 32)
  else if o = 0x018 ∧ asPf a ∧ v.getLsbD 0 then s.errClear q
  else if o = 0x020 ∧ asPf a then s.modWindow q fun w => { w with part := v.extractLsb' 0 8 }
  else s

/-- A write of a training block (R358). -/
def State.writeTrain (s : State) (b : TrainBlock) (o : Nat) (v : DWord) : State :=
  let t := s.train b
  if o = 0 then
    if t.go then s
    else
      let t := { t with arg := v.extractLsb' 8 8, op := v.extractLsb' 0 8 }
      s.setTrain b (if v.getLsbD 63 then { t with go := true, done := false, pass := false, result := none } else t)
  else match indexAt o 0x10 8 6 with
    | some k => s.setTrain b { t with res := t.res.setIfInBounds k v, wrote := t.wrote ||| (1 <<< k) }
    | none => s

/-- Doubleword `k` of a value of 256 bits replaced. -/
def setPart (x : BitVec 256) (k : Nat) (v : DWord) : BitVec 256 :=
  (x &&& ~~~((0xFFFFFFFFFFFFFFFF : BitVec 256) <<< (64 * k))) ||| (v.setWidth 256 <<< (64 * k))

/-- The fields of BOOTSTAT (R351); its other bits are ignored (R5). -/
def bootMask : DWord := 0xC000FFFF0000FFFF

/-- A write of the security block by an agent of the module: the physical function, or a flint, of which die 0's alone writes
BOOTSTAT and FEATMPA (R349, R352, R362). -/
def State.writeSecurity (s : State) (a : RegAgent) (o : Nat) (v : DWord) : State :=
  match o with
  | 0x60120 =>
    if v.getLsbD 63 then s.measExtended (v.extractLsb' 0 3)
    else if s.sec.queue.any SecReq.isExtend then s
    else { s with sec := { s.sec with idx := v.extractLsb' 0 3 } }
  | 0x60128 => if v.getLsbD 63 then { s with sec := { s.sec with merr := false } } else s
  | 0x60130 => s.locked (v.extractLsb' 0 8)
  | 0x60180 => if v.getLsbD 63 then s.fusesClosed else s
  | 0x60188 => s.fuseWritten (v.getLsbD 63) (v.extractLsb' 16 6) (v.extractLsb' 0 16)
  | 0x60220 => if v.getLsbD 63 then s.quoteRequested (a == .mgmt) else s
  | 0x60350 => s.recovers
  | 0x60400 => if a = .flint 0 then { s with sec := { s.sec with boot := v &&& bootMask } } else s
  | 0x60408 => if a = .flint 0 then { s with sec := { s.sec with featmpa := v } } else s
  | _ =>
    match indexAt o 0x60100 8 4, indexAt o 0x60200 8 4 with
    | some k, _ => { s with sec := { s.sec with mextdata := setPart s.sec.mextdata k v } }
    | _, some k => { s with sec := { s.sec with qnonce := setPart s.sec.qnonce k v } }
    | _, _ => s

/-- A write of a flint block by die 0's flint (R353). [log 91 DEDUCED] -/
def State.writeFlint (s : State) (o : Nat) (v : DWord) : State :=
  let d := (o - 0x64000) / 0x4000 + 1
  let k := (o - 0x64000) % 0x4000
  if k < 0x2000 then
    if s.flint d = .held then { s with mem := s.mem.write (imemBase (flintNo d) + k) 8 v.toNat } else s
  else if k = 0x2000 then s.flintStarted d (v.extractLsb' 0 12)
  else s

/-- A write of the power registers (R355 to R357). -/
def State.writePower (s : State) (o : Nat) (v : DWord) : State :=
  match o with
  | 0x70100 => s.clockRequested (v.extractLsb' 0 2)
  | 0x70108 => { s with pwrlim := clampLimit (v.extractLsb' 0 12) }
  | _ => match indexAt o 0x70000 8 9 with
    | some n =>
      let s := if v.getLsbD 62 then s.modRail n fun r => { r with fault := false } else s
      s.railEnable n (v.getLsbD 0)
    | none => s

/-- A write of a time-share group (R369). -/
def State.writeGroup (s : State) (d g k : Nat) (v : DWord) : State :=
  s.modGroup d g fun x =>
    match k with
    | 0 => { x with en := v.getLsbD 63, slice := v.extractLsb' 0 32, since := if x.en then x.since else s.clock }
    | 1 => { x with ents := vtab 8 fun i => (v.getLsbD (8 * i + 7), v.extractLsb' (8 * i) 6) }
    | 2 => { x with gsbase := v }
    | _ => x

/-- A write of the error registers (R365). -/
def State.writeErrors (s : State) (d o : Nat) (v : DWord) : State :=
  match o with
  | 0x90000 => s.modDie d fun x => { x with errbase := v }
  | 0x90008 => s.modDie d fun x => { x with errlog := v.extractLsb' 0 5 }
  | 0x90010 => s.modDie d fun x => { x with errridx := v.extractLsb' 0 32 }
  | 0x90018 => s.waysBack d (v.extractLsb' 0 16)
  | _ =>
    match indexAt o 0x90100 8 64, indexAt o 0x91000 8 64 with
    | some i, _ =>
      if v.getLsbD 63 then s.modDie d fun x => { x with filter := x.filter.setIfInBounds i (false, (x.filter[i]?.getD (false, 0)).2) } else s
    | _, some i => s.writeGroup d (i / 4) (i % 4) v
    | _, _ => s

/-- A write of MSCWAYS: the lines of a way that is no longer enabled leave the cache (R28). [log 102 DESIGN CHOICE] -/
def State.waysWritten (s : State) (d : Nat) (n : BitVec 5) : State :=
  s.modDie d fun x =>
    let x := { x with mscways := n }
    { x with msc := x.msc.filter fun l => decide (l.way < x.ways) }

/-- A write of an owner register; the scrub streamer is reserved and has none (R329, R332). -/
def State.ownerWritten (s : State) (d k : Nat) (v : DWord) : State :=
  if k = 63 then s
  else s.modDie d fun x => { x with owner := if v.getLsbD 7 then aset k (v.extractLsb' 0 6) x.owner else aerase k x.owner }

/-- A write of the panel-command register of a die (R329). -/
def State.writePanel (s : State) (d : Nat) (v : DWord) : State :=
  let p := bitsAt v 16 6
  let panel := bitsAt v 0 12
  let op : Option PanelOp := match bitsAt v 14 2 with
    | 1 => some .remove
    | 2 => some .add
    | _ => none
  match op with
  | some op => s.panelGiven d p panel op
  | none => s

/-- A write of a die window (R309, R329, R358, R365, R369) and, in die 0's, of the units that only it has (R306). -/
def State.writeDie (s : State) (a : RegAgent) (d o : Nat) (v : DWord) : State :=
  match trainAt d o with
  | some t => s.writeTrain t.1 t.2 v
  | none =>
    if 0x90000 ≤ o then s.writeErrors d o v
    else if 0x70000 ≤ o then (if d = 0 then s.writePower o v else s)
    else if 0x64000 ≤ o then (if d = 0 ∧ a = .flint 0 ∧ o < 0x70000 then s.writeFlint o v else s)
    else if 0x60000 ≤ o then (if d = 0 then s.writeSecurity a o v else s)
    else match o with
      | 0x200 => s.writePanel d v
      | 0x208 => s.waysWritten d (v.extractLsb' 0 5)
      | 0x210 => s.modDie d fun x => { x with sqbase := v }
      | 0x218 => (s.modDie d fun x => { x with sqlog := v.extractLsb' 0 5 }).scrubGiven d (v.extractLsb' 32 32)
      | _ =>
        match indexAt o 0x100 8 4, indexAt o 0x20000 8 96 with
        | some p, _ => s.modDie d fun x => { x with lhead := x.lhead.setIfInBounds p (v &&& 0x7FFFFF80) }
        | _, some k => s.ownerWritten d k v
        | _, _ => s

/-- What the management interface may write (R349, R372). -/
def mgmtMay (o : Nat) : Bool := (indexAt o 0x60200 8 4).isSome || o == 0x60220 || o == 0x60350

/-- REGISTER_WRITE: a write of 64 bits at an offset of an agent's register space (R306). [log 86 DEDUCED] -/
def State.registerWritten (s : State) (a : RegAgent) (off : Nat) (v : DWord) : State :=
  match regPlace a off with
  | .part p o => match a with
    | .vf _ => s.writePartVf p o v
    | .mgmt => s
    | _ => s.writePart p o v
  | .queue q o => if a = .mgmt then s else s.writeQueue a q o v
  | .die d o => if a = .mgmt ∧ !(d = 0 ∧ mgmtMay o) then s else s.writeDie a d o v
  | .none => s

/-- A register write of a flint takes effect: it is the oldest that has left the flint's store buffer (R343, R80). -/
def State.postedWritten (s : State) (d off : Nat) (v : DWord) : State :=
  match s.posted.findIdx? fun x => x.1 == d with
  | none => s
  | some i =>
    if s.posted[i]? = some (d, off, v) then { s with posted := s.posted.eraseIdx i }.registerWritten (.flint d) off v else s

/-- REGISTER_WRITE by an agent. -/
def State.agentWrites (s : State) (a : RegAgent) (off : Nat) (v : DWord) : State :=
  match a with
  | .flint d => s.postedWritten d off v
  | a => s.registerWritten a off v

def execRegisterWrite (agent : RegAgent) (offset : Nat) (v : DWord) (s : State) : Out := .next (s.agentWrites agent offset v)

end Sys2Proof.Machine
end

