-- ==== Sys2Proof/Machine/Repeat.lean ====
section
/-! DEFINITION. Repetitions: REPB, REPE and REPWAIT (R155, R210 to R213), with C.REPWAIT. -/

namespace Sys2Proof.Machine

/-- Waits until no repetition is active (R210, R213). [log 18 DEDUCED] -/
def awaitRep : Ex Unit := do
  let c ← getC
  if c.rep.isSome then stall else pure ()

/-- REPB (R210): the capture opens. `size` is the literal in the B field. -/
def repbEx (d a size : Reg) : Ex Flow := do
  awaitRep
  match ← rawRegs [a] with
  | [v] => do
    modC fun c => { c with rep := some { base := d, size := size.toNat, count := v.low, body := [], capturing := true,
                                         iter := 0, pos := 0, stop := none } }
    pure .seq
  | _ => pure .seq

/-- REPE (R210, R211): the capture closes and the sequencer starts; outside a capture it traps ILLEGAL. -/
def repeEx : Ex Flow := do
  let c ← getC
  match c.rep with
  | some r =>
    if r.capturing then do
      let runs := decide (0 < r.count.toNat) && !r.body.isEmpty
      modC fun c => { c with rep := if runs then some { r with capturing := false } else none }
      pure .seq
    else raise .illegal (c.insn.setWidth 64)
  | none => raise .illegal (c.insn.setWidth 64)

/-- REPWAIT (R213): no access that follows it has performed before an access of the body (R75). -/
def repwaitEx : Ex Flow := do
  awaitRep
  modC Core.acquires
  pure .seq

def execRepb (d a b : Reg) (s : State) : Out := finish 2 (repbEx d a b) s
def execRepe (s : State) : Out := finish 2 repeEx s
def execRepwait (s : State) : Out := finish 2 repwaitEx s
def execCRepwait (s : State) : Out := finish 1 repwaitEx s

end Sys2Proof.Machine
end

