-- ==== Sys2Proof/Machine/Sys.lean ====
section
/-! DEFINITION. System instructions: TRAP, SYSC, BKPT, ERET, HALT, WFI, the CSR forms over the CSR map, CLFL, CLINV and XLINV
(R260 to R263, R374), and the hints (R164, R148). -/

namespace Sys2Proof.Machine

/-- TRAP, SYSC and BKPT (R260). -/
def trapEx (c : Cause) (eval : DWord) : Ex Flow := raise c eval

/-- The kernel returns to the queues (R260, R374): its sends are released, its meter goes to the overhead principal
(R119), the trap that it has served is disposed of. [log 5 DEDUCED, log 21 DEDUCED] -/
def State.eretDone (s : State) : State :=
  let s := s.releaseAtEnd
  let s := { s with core := { s.core.releaseSends with csr := { s.core.csr with nest := false } } }.launchEngines.taskGone
  match s.core.svc with
  | some v => ({ s with core := { s.core with svc := none } }.dispose s.focus v).kernelCharge s.focus
  | none => s

/-- The end of ERET once nothing keeps it (R260). -/
def eretEnds : Ex Flow := do
  modC fun c => { c with sc := none }
  modS State.eretDone
  pure .ended

/-- ERET (R260); for a trapped holder of the thimble the slate protocol comes first (R274): the wait for its editors, the copy, and the
SC operation, presented and applied in its window. [log 18 DEDUCED, log 19 DEDUCED] -/
def eretEx : Ex Flow := do
  denyCode
  needKernel
  let s ← getS
  if s.core.rep.isSome then stall
  match s.core.sc with
  | some op => if op.result.isSome then eretEnds else pure .wait
  | none =>
    match s.core.svc with
    | none => eretEnds
    | some v =>
      tableReady (s.partOf s.focus) fun s p => s.serviceOffs s.focus v p
      if s.slateBusy s.focus v then stall
      match s.slateBegin s.focus v with
      | some s' => do
        modS fun _ => s'
        pure .wait
      | none => eretEnds

/-- HALT (R62, R260). -/
def haltEx : Ex Flow := do
  denyCode
  needKernel
  modS fun s => { s with core := s.core.retired }.outOfService s.focus false
  pure .ended

/-- Work that a waiting kernel wakes for (R53). -/
def Core.hasWork (c : Core) : Bool := !c.kwork.isEmpty || !c.starts.isEmpty

/-- WFI (R260). -/
def wfiEx : Ex Flow := do
  denyCode
  needKernel
  let c ← getC
  if c.hasWork then pure .seq else stall

/-- CLFL (R261). -/
def clflEx (a : Reg) : Ex Flow := do
  denyCode
  let cap ← readReg a
  let p ← access (plainAcc cap a cap.low 1 needLd)
  match p with
  | .runs ((m, _) :: _) =>
    if isMpa m then modS fun s => if s.holder (lineOf m) = some s.focus then s.release (lineOf m) else s else pure ()
  | _ => pure ()
  chargeGmem cap.low
  pure .seq

/-- CLINV (R260). -/
def clinvEx : Ex Flow := do
  denyCode
  needKernel
  modS fun s => s.releaseAll s.focus
  pure .seq

/-- XLINV (R260). -/
def xlinvEx (a : Reg) : Ex Flow := do
  denyCode
  needKernel
  let v ← readClean a
  modS fun s => match s.partOf s.focus with
    | none => s
    | some p => s.ptcDrop fun k e => k == panelOf s.focus && e.part == p &&
        (v.low.getLsbD 63 || e.page == (v.low.extractLsb' 16 32).toNat)
  pure .seq

/-- How a CSR may be accessed, in task mode and in kernel mode (R262). -/
inductive CsrKind where
  | both
  | kernelWrites
  | readOnly
  | kernelOnly
  | unmapped
deriving DecidableEq, Repr

/-- The CSR map (R262). -/
def csrKind (n : Nat) : CsrKind :=
  if n = 0 ∨ n = 1 then .both
  else if n = 2 ∨ n = 3 ∨ n = 9 ∨ n = 11 then .kernelWrites
  else if n = 4 ∨ n = 5 ∨ n = 6 ∨ n = 7 ∨ n = 8 ∨ n = 10 then .readOnly
  else if (16 ≤ n ∧ n ≤ 22) ∨ (24 ≤ n ∧ n ≤ 27) then .kernelOnly
  else .unmapped

/-- The envelope of the message that started the task, or that started the task whose trap the kernel serves (R262). [log 21 DEDUCED] -/
def Core.msrc (c : Core) : DWord :=
  match c.task, c.svc with
  | some k, _ => k.msrc
  | none, some v => match v.trigger with
    | .slot i => match (c.inbox[i]?).bind id with
      | some m => m.env
      | none => 0
    | .event i => match (c.evq[i]?).bind id with
      | some e => e.msg.env
      | none => 0
    | _ => 0
  | none, none => 0

/-- What a CSR reads as (R262, R263). [log 4 DEDUCED, log 21 DEDUCED, log 22 DEDUCED] -/
def State.csr (s : State) (n : Nat) : DWord :=
  let c := s.core
  let x := c.csr
  match n with
  | 0 => x.fflags.setWidth 64
  | 1 => x.rmode.setWidth 64
  | 2 => if x.km then x.kmeter else x.meter
  | 3 => x.budget.setWidth 64
  | 4 => BitVec.ofNat 64 (s.clock - c.resetAt)
  | 5 => x.instret
  | 6 => BitVec.ofNat 64 (s.modnum.toNat * 2 ^ 20 + s.focus % 2 ^ 20)
  | 7 => BitVec.ofNat 64 ((s.partOf s.focus).getD 0)
  | 8 => c.msrc
  | 9 => if c.lt.on then 1 else 0
  | 10 => ((s.partOf s.focus).map fun p => (s.part p).featcopy).getD 0
  | 11 => x.sbudget.setWidth 64
  | 16 => BitVec.ofNat 64 ((if x.nest then 2 else 0) + (if x.km then 1 else 0))
  | 17 => x.tvec.setWidth 64
  | 18 => x.epc
  | 19 => x.ecause
  | 20 => x.eval
  | 21 => x.emsg
  | 22 => x.echn
  | 24 => x.price0
  | 25 => x.price1
  | _ => 0

/-- A budget clamped to 2^24 (R55). -/
def clampBudget (v : Nat) : BitVec 25 := BitVec.ofNat 25 (min v Config.maxBudget)

/-- A CSR written (R262, R263): the fields that the map gives it. -/
def Core.putCsr (c : Core) (n : Nat) (v : DWord) : Core :=
  let x := c.csr
  match n with
  | 0 => { c with csr := { x with fflags := v.extractLsb' 0 6 } }
  | 1 => { c with csr := { x with rmode := v.extractLsb' 0 2 } }
  | 2 => { c with csr := if x.km then { x with kmeter := v } else { x with meter := v } }
  | 3 => { c with csr := { x with budget := clampBudget v.toNat } }
  | 9 => { c with lt := { c.lt with on := v.getLsbD 0, blocked := if v.getLsbD 0 then c.lt.blocked else none } }
  | 11 => { c with csr := { x with sbudget := clampBudget (v.extractLsb' 0 25).toNat } }
  | 16 => { c with csr := { x with nest := v.getLsbD 1 } }
  | 17 => { c with csr := { x with tvec := v.extractLsb' 0 12 } }
  | 18 => { c with csr := { x with epc := v } }
  | 19 => { c with csr := { x with ecause := v } }
  | 20 => { c with csr := { x with eval := v } }
  | 21 => { c with csr := { x with emsg := v } }
  | 22 => { c with csr := { x with echn := v } }
  | 24 => { c with csr := { x with price0 := v } }
  | 25 => { c with csr := { x with price1 := (v.extractLsb' 0 32).setWidth 64 } }
  | _ => c

/-- What a CSR access checks (R260, R262): the number, a write of what none may write, the mode. -/
def csrCheck (n : Nat) (write : Bool) : Ex Unit := do
  denyCode
  let c ← getC
  let k := csrKind n
  check (k != .unmapped && !(write && k == .readOnly)) .illegal (c.insn.setWidth 64)
  check (c.km || !(k == .kernelOnly || (write && k == .kernelWrites))) .priv 0

/-- CSRR (R260). -/
def csrrEx (d : Reg) (n : BitVec 10) : Ex Flow := do
  csrCheck n.toNat false
  let s ← getS
  writeData d (s.csr n.toNat) false
  pure .seq

/-- CSRW, CSRSET and CSRCLR (R260): what is written comes from the CSR and the register. -/
def csrwEx (f : DWord → DWord → DWord) (n : BitVec 10) (d : Reg) : Ex Flow := do
  csrCheck n.toNat true
  let v ← readClean d
  let s ← getS
  modC fun c => c.putCsr n.toNat (f (s.csr n.toNat) v.low)
  pure .seq

def execTrap (n : BitVec 10) (s : State) : Out := finish 2 (trapEx .trap (n.setWidth 64)) s
def execSysc (n : BitVec 10) (s : State) : Out := finish 2 (trapEx .sysc (n.setWidth 64)) s
def execBkpt (s : State) : Out := finish 2 (trapEx .bkpt 0) s
def execCBkpt (s : State) : Out := finish 1 (trapEx .bkpt 0) s
def execEret (s : State) : Out := finish 2 eretEx s
def execHalt (s : State) : Out := finish 2 haltEx s
def execWfi (s : State) : Out := finish 2 wfiEx s
def execClfl (a : Reg) (s : State) : Out := finish 2 (clflEx a) s
def execClinv (s : State) : Out := finish 2 clinvEx s
def execXlinv (a : Reg) (s : State) : Out := finish 2 (xlinvEx a) s
def execCsrr (d : Reg) (csr : BitVec 10) (s : State) : Out := finish 2 (csrrEx d csr) s
def execCsrw (csr : BitVec 10) (d : Reg) (s : State) : Out := finish 2 (csrwEx (fun _ v => v) csr d) s
def execCsrset (csr : BitVec 10) (d : Reg) (s : State) : Out := finish 2 (csrwEx (fun x v => x ||| v) csr d) s
def execCsrclr (csr : BitVec 10) (d : Reg) (s : State) : Out := finish 2 (csrwEx (fun x v => x &&& ~~~v) csr d) s
def execHint (s : State) : Out := finish 2 (pure .seq) s
def execCNop (s : State) : Out := finish 1 (pure .seq) s
def execCHint (s : State) : Out := finish 1 (pure .seq) s

end Sys2Proof.Machine
end

