-- ==== Sys2Proof/Machine/Vec.lean ====
section
/-! DEFINITION. The vector instructions (R241 to R243). A lane is held as the natural number of its bits. -/

namespace Sys2Proof.Machine

/-- A register from lanes of `w` bits, lane 0 first; what is above them is zero. -/
def ofLanes (w : Nat) (ls : List Nat) : QWord := BitVec.ofNat 128 (ls.foldr (fun x acc => x % 2 ^ w + 2 ^ w * acc) 0)

/-- The lanes of a register under a type (R241). -/
def vecLanes (t : VType) (v : Val) : List Nat := lanesOf (laneW t) (laneN t) v.bits

/-- Every lane of a type all ones, or zero (R242). -/
def laneBool (t : VType) (b : Bool) : Nat := if b then 2 ^ laneW t - 1 else 0

/-- Flags raised by all the lanes. -/
def allFlags (xs : List (Nat × Flags)) : Flags := xs.foldl (fun f x => f ||| x.2) 0

/-- The result of a vector instruction (R241): clean of tags, poisoned as a whole. -/
def writeVec (d : Reg) (bits : QWord) (poison : Bool) : Ex Flow := do
  writeReg d ⟨bits, false, poison⟩
  pure .seq

/-- Lanes with their flags written (R241, R126). -/
def writeLanes (w : Nat) (d : Reg) (xs : List (Nat × Flags)) (poison : Bool) : Ex Flow := do
  raiseFlags (allFlags xs)
  writeVec d (ofLanes w (xs.map fun x => x.1)) poison

/-- A lane-wise operation of two sources (R242). -/
def vec2 (t : VType) (op : RMode → Nat → Nat → Nat × Flags) (d a b : Reg) : Ex Flow := do
  let x ← readReg a
  let y ← readReg b
  let c ← getC
  writeLanes (laneW t) d (List.zipWith (op c.mode) (vecLanes t x) (vecLanes t y)) (x.poison || y.poison)

/-- A lane-wise operation of one source (R242). -/
def vec1 (t : VType) (op : RMode → Nat → Nat × Flags) (d a : Reg) : Ex Flow := do
  let x ← readReg a
  let c ← getC
  writeLanes (laneW t) d ((vecLanes t x).map (op c.mode)) x.poison

/-- An integer operation on the readings of the lanes, modulo 2^w (R122, R241). -/
def onInts (t : VType) (op : Int → Int → Int) (a b : Nat) : Nat := laneOfInt t (op (intLane t a) (intLane t b))

/-- An arithmetic operation by type: floating lanes or integer lanes (R242). -/
def byType (t : VType) (ints : Nat → Nat → Nat) (floats : FFmt → RMode → Nat → Nat → Nat × Flags) (mode : RMode)
    (a b : Nat) : Nat × Flags :=
  if t.isFloat then floats (laneFmt t) mode a b else (ints a b, 0)

/-- VADD (R242). -/
def vaddLane (t : VType) : RMode → Nat → Nat → Nat × Flags := byType t (onInts t (· + ·)) laneAdd
/-- VSUB (R242). -/
def vsubLane (t : VType) : RMode → Nat → Nat → Nat × Flags := byType t (onInts t (· - ·)) laneSub
/-- VMUL (R242). -/
def vmulLane (t : VType) : RMode → Nat → Nat → Nat × Flags := byType t (onInts t (· * ·)) laneMul
/-- VMIN (R242, R140). -/
def vminLane (t : VType) : RMode → Nat → Nat → Nat × Flags :=
  byType t (fun a b => if intLane t b < intLane t a then b else a) (fun f _ => laneMinMax f false)
/-- VMAX (R242, R140). -/
def vmaxLane (t : VType) : RMode → Nat → Nat → Nat × Flags :=
  byType t (fun a b => if intLane t a < intLane t b then b else a) (fun f _ => laneMinMax f true)

/-- VABS (R242). -/
def vabsLane (t : VType) (a : Nat) : Nat :=
  if t.isFloat then laneSign (laneFmt t) false a else laneOfInt t (intLane t a).natAbs
/-- VNEG (R242). -/
def vnegLane (t : VType) (a : Nat) : Nat :=
  if t.isFloat then laneSign (laneFmt t) true a else laneOfInt t (-intLane t a)

/-- VSHL, VSHR and VSRA (R242): the amount is b mod w. -/
def vshlLane (t : VType) (a b : Nat) : Nat := a * 2 ^ (b % laneW t) % 2 ^ laneW t
def vshrLane (t : VType) (a b : Nat) : Nat := a / 2 ^ (b % laneW t)
def vsraLane (t : VType) (a b : Nat) : Nat :=
  let k : Int := if 2 ^ (laneW t - 1) ≤ a then (a : Int) - (2 ^ laneW t : Nat) else a
  laneOfInt t (k / (2 ^ (b % laneW t) : Nat))

/-- VCEQ, VCLT and VCLE (R242). -/
def vcmpLane (t : VType) (c : Cmp) (a b : Nat) : Nat × Flags :=
  if t.isFloat then
    let r := laneCmp (laneFmt t) c a b
    (laneBool t r.1, r.2)
  else
    let x := intLane t a
    let y := intLane t b
    (laneBool t (match c with
      | .eq => decide (x = y)
      | .lt => decide (x < y)
      | .le => decide (x ≤ y)), 0)

/-- An operation without flags. -/
def flagless (op : Nat → Nat → Nat) (_ : RMode) (a b : Nat) : Nat × Flags := (op a b, 0)

/-- VFMA (R241, R242). -/
def vfmaEx (t : VType) (d a b : Reg) : Ex Flow := do
  let z ← readDest d
  let x ← readReg a
  let y ← readReg b
  let c ← getC
  let f (l : Nat) : Nat × Flags :=
    laneFma (laneFmt t) c.mode ((vecLanes t x)[l]?.getD 0) ((vecLanes t y)[l]?.getD 0) ((vecLanes t z)[l]?.getD 0)
  writeLanes (laneW t) d ((List.range (laneN t)).map f) (x.poison || y.poison || z.poison)

/-- VSEL (R241, R242). -/
def vselEx (t : VType) (d a b : Reg) : Ex Flow := do
  let z ← readDest d
  let x ← readReg a
  let y ← readReg b
  let f (l : Nat) : Nat :=
    if (vecLanes t z)[l]?.getD 0 ≠ 0 then (vecLanes t x)[l]?.getD 0 else (vecLanes t y)[l]?.getD 0
  writeVec d (ofLanes (laneW t) ((List.range (laneN t)).map f)) (x.poison || y.poison || z.poison)

/-- VSPLAT (R243). -/
def vsplatEx (t : VType) (d a : Reg) : Ex Flow := do
  let x ← readReg a
  writeVec d (ofLanes (laneW t) (List.replicate (laneN t) (x.bits.toNat % 2 ^ laneW t))) x.poison

/-- The lane that a register selects (R243). -/
def laneIndex (t : VType) (y : Val) : Nat := y.low.toNat % laneN t

/-- A lane extended to 64 bits: by its sign for a signed type (R243). -/
def laneWord (t : VType) (a : Nat) : DWord := BitVec.ofInt 64 (if t.isFloat then (a : Int) else intLane t a)

/-- VEXT (R243). -/
def vextEx (t : VType) (d a b : Reg) : Ex Flow := do
  let x ← readReg a
  let y ← readReg b
  writeVec d ((laneWord t ((vecLanes t x)[laneIndex t y]?.getD 0)).setWidth 128) (x.poison || y.poison)

/-- VINS (R241, R243). -/
def vinsEx (t : VType) (d a b : Reg) : Ex Flow := do
  let z ← readDest d
  let x ← readReg a
  let y ← readReg b
  writeVec d (ofLanes (laneW t) ((vecLanes t z).set (laneIndex t y) (x.bits.toNat % 2 ^ laneW t)))
    (x.poison || y.poison || z.poison)

/-- VSHUF (R243). -/
def vshufEx (t : VType) (d a b : Reg) : Ex Flow := do
  let x ← readReg a
  let y ← readReg b
  writeVec d (ofLanes (laneW t) ((vecLanes t y).map fun k => (vecLanes t x)[k % laneN t]?.getD 0)) (x.poison || y.poison)

/-- VRSUM (R243, R141). -/
def vrsumEx (t : VType) (d a : Reg) : Ex Flow := do
  let x ← readReg a
  let c ← getC
  if t.isFloat then do
    let r := laneSum (laneFmt t) c.mode (vecLanes t x)
    raiseFlags r.2
    writeVec d (BitVec.ofNat 128 r.1) x.poison
  else
    writeVec d ((BitVec.ofInt 64 ((vecLanes t x).map (intLane t)).sum).setWidth 128) x.poison

/-- The greatest of integer lanes (R243). -/
def greatest : List Int → Int
  | [] => 0
  | [k] => k
  | k :: ks => max k (greatest ks)

/-- VRMAX (R243). -/
def vrmaxEx (t : VType) (d a : Reg) : Ex Flow := do
  let x ← readReg a
  if t.isFloat then do
    let r := laneMaxAll (laneFmt t) (vecLanes t x)
    raiseFlags r.2
    writeVec d (BitVec.ofNat 128 r.1) x.poison
  else
    writeVec d ((BitVec.ofInt 64 (greatest ((vecLanes t x).map (intLane t)))).setWidth 128) x.poison

/-- The index of the greatest of ranks, the lowest on ties (R243). -/
def indexOfGreatest (ks : List Int) : Nat := (ks.idxOf? (greatest ks)).getD 0

/-- VIMAX (R243, R239): no flag. -/
def vimaxEx (t : VType) (d a : Reg) : Ex Flow := do
  let x ← readReg a
  let rank (k : Nat) : Int := if t.isFloat then (laneRank (laneFmt t) k : Nat) else intLane t k
  writeVec d (BitVec.ofNat 128 (indexOfGreatest ((vecLanes t x).map rank))) x.poison

/-- How many elements VCVT converts (R243). -/
def cvtCount (t src : VType) : Nat := 128 / max (laneW t) (laneW src)

/-- VCVT (R243, R128). -/
def vcvtEx (t src : VType) (d a : Reg) : Ex Flow := do
  let x ← readReg a
  let c ← getC
  writeLanes (laneW t) d ((lanesOf (laneW src) (cvtCount t src) x.bits).map (laneCvt c.mode src t)) x.poison

/-- A decode table by the table bit (R168). -/
def Core.table (c : Core) (tblB : Bool) : Vector (BitVec 19) 256 := if tblB then c.tblB else c.tblA

/-- VDEC (R243): no flag. -/
def vdecEx (d a : Reg) (tblB : Bool) : Ex Flow := do
  let x ← readReg a
  let c ← getC
  let word (code : Nat) : Nat := (e8m10ToFp32 ((c.table tblB)[code]?.getD 0)).toNat
  writeVec d (ofLanes 32 ((lanesOf 8 4 x.bits).map word)) x.poison

/-- VENC (R243, R131). -/
def vencEx (d a : Reg) (tblB : Bool) : Ex Flow := do
  let x ← readReg a
  let c ← getC
  let code (w : Nat) : Nat × Flags :=
    let r := encodeTbl (c.table tblB) (fp32.val w)
    (r.1.toNat, r.2)
  writeLanes 8 d ((lanesOf 32 4 x.bits).map code) x.poison

/-- A function of R140 over floating lanes (R242). -/
def vecFn (fn : Nat → Num → Num × Flags) (t : VType) (d a : Reg) : Ex Flow :=
  vec1 t (fun mode x => laneFn (fn (laneFmt t).p) (laneFmt t) mode x) d a

def execVadd (t : VType) (d a b : Reg) (s : State) : Out := finish 2 (vec2 t (vaddLane t) d a b) s
def execVsub (t : VType) (d a b : Reg) (s : State) : Out := finish 2 (vec2 t (vsubLane t) d a b) s
def execVmul (t : VType) (d a b : Reg) (s : State) : Out := finish 2 (vec2 t (vmulLane t) d a b) s
def execVfma (t : VType) (d a b : Reg) (s : State) : Out := finish 2 (vfmaEx t d a b) s
def execVmin (t : VType) (d a b : Reg) (s : State) : Out := finish 2 (vec2 t (vminLane t) d a b) s
def execVmax (t : VType) (d a b : Reg) (s : State) : Out := finish 2 (vec2 t (vmaxLane t) d a b) s
def execVabs (t : VType) (d a : Reg) (s : State) : Out := finish 2 (vec1 t (fun _ x => (vabsLane t x, 0)) d a) s
def execVneg (t : VType) (d a : Reg) (s : State) : Out := finish 2 (vec1 t (fun _ x => (vnegLane t x, 0)) d a) s
def execVand (t : VType) (d a b : Reg) (s : State) : Out := finish 2 (vec2 t (flagless (· &&& ·)) d a b) s
def execVor (t : VType) (d a b : Reg) (s : State) : Out := finish 2 (vec2 t (flagless (· ||| ·)) d a b) s
def execVxor (t : VType) (d a b : Reg) (s : State) : Out := finish 2 (vec2 t (flagless (· ^^^ ·)) d a b) s
def execVshl (t : VType) (d a b : Reg) (s : State) : Out := finish 2 (vec2 t (flagless (vshlLane t)) d a b) s
def execVshr (t : VType) (d a b : Reg) (s : State) : Out := finish 2 (vec2 t (flagless (vshrLane t)) d a b) s
def execVsra (t : VType) (d a b : Reg) (s : State) : Out := finish 2 (vec2 t (flagless (vsraLane t)) d a b) s
def execVceq (t : VType) (d a b : Reg) (s : State) : Out := finish 2 (vec2 t (fun _ => vcmpLane t .eq) d a b) s
def execVclt (t : VType) (d a b : Reg) (s : State) : Out := finish 2 (vec2 t (fun _ => vcmpLane t .lt) d a b) s
def execVcle (t : VType) (d a b : Reg) (s : State) : Out := finish 2 (vec2 t (fun _ => vcmpLane t .le) d a b) s
def execVsel (t : VType) (d a b : Reg) (s : State) : Out := finish 2 (vselEx t d a b) s
def execVsplat (t : VType) (d a : Reg) (s : State) : Out := finish 2 (vsplatEx t d a) s
def execVext (t : VType) (d a b : Reg) (s : State) : Out := finish 2 (vextEx t d a b) s
def execVins (t : VType) (d a b : Reg) (s : State) : Out := finish 2 (vinsEx t d a b) s
def execVshuf (t : VType) (d a b : Reg) (s : State) : Out := finish 2 (vshufEx t d a b) s
def execVrsum (t : VType) (d a : Reg) (s : State) : Out := finish 2 (vrsumEx t d a) s
def execVrmax (t : VType) (d a : Reg) (s : State) : Out := finish 2 (vrmaxEx t d a) s
def execVcvt (t src : VType) (d a : Reg) (s : State) : Out := finish 2 (vcvtEx t src d a) s
def execVdec (d a : Reg) (tblB : Bool) (s : State) : Out := finish 2 (vdecEx d a tblB) s
def execVenc (d a : Reg) (tblB : Bool) (s : State) : Out := finish 2 (vencEx d a tblB) s
def execVrcp (t : VType) (d a : Reg) (s : State) : Out := finish 2 (vecFn numRcp t d a) s
def execVrsq (t : VType) (d a : Reg) (s : State) : Out := finish 2 (vecFn numRsq t d a) s
def execVexp2 (t : VType) (d a : Reg) (s : State) : Out := finish 2 (vecFn (fun p x => numExp2 p x) t d a) s
def execVlog2 (t : VType) (d a : Reg) (s : State) : Out := finish 2 (vecFn (fun _ x => numLog2 x) t d a) s
def execVimax (t : VType) (d a : Reg) (s : State) : Out := finish 2 (vimaxEx t d a) s

end Sys2Proof.Machine
end

