-- ==== Sys2Proof/Machine/Dispatch.lean ====
section
/-! DEFINITION. The dispatch of an instruction, or of a step of another agent, to its meaning: one arm per row of the opcode
table, one call per arm. -/

namespace Sys2Proof.Machine

/-- What an instruction does. -/
def exec (i : Instr) (s : State) : Host.Outcome State Fault Refusal :=
  match i with
  | .add d a b => Sys2Proof.Machine.execAdd d a b s
  | .sub d a b => Sys2Proof.Machine.execSub d a b s
  | .and d a b => Sys2Proof.Machine.execAnd d a b s
  | .or d a b => Sys2Proof.Machine.execOr d a b s
  | .xor d a b => Sys2Proof.Machine.execXor d a b s
  | .andn d a b => Sys2Proof.Machine.execAndn d a b s
  | .sll d a b => Sys2Proof.Machine.execSll d a b s
  | .srl d a b => Sys2Proof.Machine.execSrl d a b s
  | .sra d a b => Sys2Proof.Machine.execSra d a b s
  | .rol d a b => Sys2Proof.Machine.execRol d a b s
  | .slt d a b => Sys2Proof.Machine.execSlt d a b s
  | .sltu d a b => Sys2Proof.Machine.execSltu d a b s
  | .min d a b => Sys2Proof.Machine.execMin d a b s
  | .max d a b => Sys2Proof.Machine.execMax d a b s
  | .minu d a b => Sys2Proof.Machine.execMinu d a b s
  | .maxu d a b => Sys2Proof.Machine.execMaxu d a b s
  | .mul d a b => Sys2Proof.Machine.execMul d a b s
  | .mulh d a b => Sys2Proof.Machine.execMulh d a b s
  | .mulhu d a b => Sys2Proof.Machine.execMulhu d a b s
  | .div d a b => Sys2Proof.Machine.execDiv d a b s
  | .divu d a b => Sys2Proof.Machine.execDivu d a b s
  | .rem d a b => Sys2Proof.Machine.execRem d a b s
  | .remu d a b => Sys2Proof.Machine.execRemu d a b s
  | .clz d a => Sys2Proof.Machine.execClz d a s
  | .ctz d a => Sys2Proof.Machine.execCtz d a s
  | .popc d a => Sys2Proof.Machine.execPopc d a s
  | .sel d a b => Sys2Proof.Machine.execSel d a b s
  | .mix d a => Sys2Proof.Machine.execMix d a s
  | .addi d a imm => Sys2Proof.Machine.execAddi d a imm s
  | .andi d a imm => Sys2Proof.Machine.execAndi d a imm s
  | .ori d a imm => Sys2Proof.Machine.execOri d a imm s
  | .xori d a imm => Sys2Proof.Machine.execXori d a imm s
  | .slli d a sh => Sys2Proof.Machine.execSlli d a sh s
  | .srli d a sh => Sys2Proof.Machine.execSrli d a sh s
  | .srai d a sh => Sys2Proof.Machine.execSrai d a sh s
  | .roli d a sh => Sys2Proof.Machine.execRoli d a sh s
  | .slti d a imm => Sys2Proof.Machine.execSlti d a imm s
  | .sltiu d a imm => Sys2Proof.Machine.execSltiu d a imm s
  | .li d imm => Sys2Proof.Machine.execLi d imm s
  | .lis d imm => Sys2Proof.Machine.execLis d imm s
  | .ld d a sz imm => Sys2Proof.Machine.execLd d a sz imm s
  | .ldna d a sz imm => Sys2Proof.Machine.execLdna d a sz imm s
  | .st b a sz imm => Sys2Proof.Machine.execSt b a sz imm s
  | .stna b a sz imm => Sys2Proof.Machine.execStna b a sz imm s
  | .amoadd d a b scope order dw => Sys2Proof.Machine.execAmoadd d a b scope order dw s
  | .amoand d a b scope order dw => Sys2Proof.Machine.execAmoand d a b scope order dw s
  | .amoor d a b scope order dw => Sys2Proof.Machine.execAmoor d a b scope order dw s
  | .amoxor d a b scope order dw => Sys2Proof.Machine.execAmoxor d a b scope order dw s
  | .amomin d a b scope order dw => Sys2Proof.Machine.execAmomin d a b scope order dw s
  | .amomax d a b scope order dw => Sys2Proof.Machine.execAmomax d a b scope order dw s
  | .amominu d a b scope order dw => Sys2Proof.Machine.execAmominu d a b scope order dw s
  | .amomaxu d a b scope order dw => Sys2Proof.Machine.execAmomaxu d a b scope order dw s
  | .amoswp d a b scope order dw => Sys2Proof.Machine.execAmoswp d a b scope order dw s
  | .amocas d a b scope order dw => Sys2Proof.Machine.execAmocas d a b scope order dw s
  | .scld d a => Sys2Proof.Machine.execScld d a s
  | .scst a b => Sys2Proof.Machine.execScst a b s
  | .scswp d a b => Sys2Proof.Machine.execScswp d a b s
  | .scadd d a b => Sys2Proof.Machine.execScadd d a b s
  | .fenceSl => Sys2Proof.Machine.execFenceSl s
  | .fenceAcq scope => Sys2Proof.Machine.execFenceAcq scope s
  | .fenceRel scope => Sys2Proof.Machine.execFenceRel scope s
  | .fenceAr scope => Sys2Proof.Machine.execFenceAr scope s
  | .fenceEng => Sys2Proof.Machine.execFenceEng s
  | .beq a b off => Sys2Proof.Machine.execBeq a b off s
  | .bne a b off => Sys2Proof.Machine.execBne a b off s
  | .blt a b off => Sys2Proof.Machine.execBlt a b off s
  | .bge a b off => Sys2Proof.Machine.execBge a b off s
  | .bltu a b off => Sys2Proof.Machine.execBltu a b off s
  | .bgeu a b off => Sys2Proof.Machine.execBgeu a b off s
  | .jal d off => Sys2Proof.Machine.execJal d off s
  | .jalr d a imm => Sys2Proof.Machine.execJalr d a imm s
  | .loop a imm => Sys2Proof.Machine.execLoop a imm s
  | .cgetbase d a => Sys2Proof.Machine.execCgetbase d a s
  | .cgetlen d a => Sys2Proof.Machine.execCgetlen d a s
  | .cgetperm d a => Sys2Proof.Machine.execCgetperm d a s
  | .cgettype d a => Sys2Proof.Machine.execCgettype d a s
  | .cgetreg d a => Sys2Proof.Machine.execCgetreg d a s
  | .cgettag d a => Sys2Proof.Machine.execCgettag d a s
  | .csetaddr d a b => Sys2Proof.Machine.execCsetaddr d a b s
  | .cinc d a b => Sys2Proof.Machine.execCinc d a b s
  | .csetbnd d a b => Sys2Proof.Machine.execCsetbnd d a b s
  | .candperm d a b => Sys2Proof.Machine.execCandperm d a b s
  | .cseal d a b => Sys2Proof.Machine.execCseal d a b s
  | .cunseal d a b => Sys2Proof.Machine.execCunseal d a b s
  | .cmov d a => Sys2Proof.Machine.execCmov d a s
  | .ctestsub d a b => Sys2Proof.Machine.execCtestsub d a b s
  | .cclrtag d a => Sys2Proof.Machine.execCclrtag d a s
  | .cinci d a imm => Sys2Proof.Machine.execCinci d a imm s
  | .csetbi d a len => Sys2Proof.Machine.execCsetbi d a len s
  | .send a b => Sys2Proof.Machine.execSend a b s
  | .sendc d a b => Sys2Proof.Machine.execSendc d a b s
  | .sendk a b => Sys2Proof.Machine.execSendk a b s
  | .sendd a b => Sys2Proof.Machine.execSendd a b s
  | .post d a b => Sys2Proof.Machine.execPost d a b s
  | .mcast d a b => Sys2Proof.Machine.execMcast d a b s
  | .rread d a b => Sys2Proof.Machine.execRread d a b s
  | .sende a b => Sys2Proof.Machine.execSende a b s
  | .endTask => Sys2Proof.Machine.execEndTask s
  | .abort => Sys2Proof.Machine.execAbort s
  | .ctrset k a => Sys2Proof.Machine.execCtrset k a s
  | .ctrdec k a => Sys2Proof.Machine.execCtrdec k a s
  | .ctradd k a => Sys2Proof.Machine.execCtradd k a s
  | .ctrget k d => Sys2Proof.Machine.execCtrget k d s
  | .arrive k a b => Sys2Proof.Machine.execArrive k a b s
  | .barlink k a => Sys2Proof.Machine.execBarlink k a s
  | .ctrclr k => Sys2Proof.Machine.execCtrclr k s
  | .sbind d a b => Sys2Proof.Machine.execSbind d a b s
  | .qbind d q pop => Sys2Proof.Machine.execQbind d q pop s
  | .lbind d out fwd => Sys2Proof.Machine.execLbind d out fwd s
  | .unbind d => Sys2Proof.Machine.execUnbind d s
  | .bstat d a => Sys2Proof.Machine.execBstat d a s
  | .repb d a b => Sys2Proof.Machine.execRepb d a b s
  | .repe => Sys2Proof.Machine.execRepe s
  | .repwait => Sys2Proof.Machine.execRepwait s
  | .vadd t d a b => Sys2Proof.Machine.execVadd t d a b s
  | .vsub t d a b => Sys2Proof.Machine.execVsub t d a b s
  | .vmul t d a b => Sys2Proof.Machine.execVmul t d a b s
  | .vfma t d a b => Sys2Proof.Machine.execVfma t d a b s
  | .vmin t d a b => Sys2Proof.Machine.execVmin t d a b s
  | .vmax t d a b => Sys2Proof.Machine.execVmax t d a b s
  | .vabs t d a => Sys2Proof.Machine.execVabs t d a s
  | .vneg t d a => Sys2Proof.Machine.execVneg t d a s
  | .vand t d a b => Sys2Proof.Machine.execVand t d a b s
  | .vor t d a b => Sys2Proof.Machine.execVor t d a b s
  | .vxor t d a b => Sys2Proof.Machine.execVxor t d a b s
  | .vshl t d a b => Sys2Proof.Machine.execVshl t d a b s
  | .vshr t d a b => Sys2Proof.Machine.execVshr t d a b s
  | .vsra t d a b => Sys2Proof.Machine.execVsra t d a b s
  | .vceq t d a b => Sys2Proof.Machine.execVceq t d a b s
  | .vclt t d a b => Sys2Proof.Machine.execVclt t d a b s
  | .vcle t d a b => Sys2Proof.Machine.execVcle t d a b s
  | .vsel t d a b => Sys2Proof.Machine.execVsel t d a b s
  | .vsplat t d a => Sys2Proof.Machine.execVsplat t d a s
  | .vext t d a b => Sys2Proof.Machine.execVext t d a b s
  | .vins t d a b => Sys2Proof.Machine.execVins t d a b s
  | .vshuf t d a b => Sys2Proof.Machine.execVshuf t d a b s
  | .vrsum t d a => Sys2Proof.Machine.execVrsum t d a s
  | .vrmax t d a => Sys2Proof.Machine.execVrmax t d a s
  | .vcvt t src d a => Sys2Proof.Machine.execVcvt t src d a s
  | .vdec d a tblB => Sys2Proof.Machine.execVdec d a tblB s
  | .venc d a tblB => Sys2Proof.Machine.execVenc d a tblB s
  | .vrcp t d a => Sys2Proof.Machine.execVrcp t d a s
  | .vrsq t d a => Sys2Proof.Machine.execVrsq t d a s
  | .vexp2 t d a => Sys2Proof.Machine.execVexp2 t d a s
  | .vlog2 t d a => Sys2Proof.Machine.execVlog2 t d a s
  | .vimax t d a => Sys2Proof.Machine.execVimax t d a s
  | .mma d wa wc a ks => Sys2Proof.Machine.execMma d wa wc a ks s
  | .bload wa a ks => Sys2Proof.Machine.execBload wa a ks s
  | .brot => Sys2Proof.Machine.execBrot s
  | .mxwait => Sys2Proof.Machine.execMxwait s
  | .mxspill => Sys2Proof.Machine.execMxspill s
  | .mxwt a => Sys2Proof.Machine.execMxwt a s
  | .accclr w a b => Sys2Proof.Machine.execAccclr w a b s
  | .accadd w a b fmt => Sys2Proof.Machine.execAccadd w a b fmt s
  | .accaddv w a b fmt => Sys2Proof.Machine.execAccaddv w a b fmt s
  | .accfma w d a b => Sys2Proof.Machine.execAccfma w d a b s
  | .acccmb w a b => Sys2Proof.Machine.execAcccmb w a b s
  | .accrnd d w b fmt mode => Sys2Proof.Machine.execAccrnd d w b fmt mode s
  | .accst w a b => Sys2Proof.Machine.execAccst w a b s
  | .cpy d a b ch => Sys2Proof.Machine.execCpy d a b ch s
  | .gather d a b ch => Sys2Proof.Machine.execGather d a b ch s
  | .scatter d a b ch => Sys2Proof.Machine.execScatter d a b ch s
  | .fill d a b ch => Sys2Proof.Machine.execFill d a b ch s
  | .wmset ch a b => Sys2Proof.Machine.execWmset ch a b s
  | .wmget d ch => Sys2Proof.Machine.execWmget d ch s
  | .adopt d a => Sys2Proof.Machine.execAdopt d a s
  | .shed d => Sys2Proof.Machine.execShed d s
  | .chnget d a => Sys2Proof.Machine.execChnget d a s
  | .fit d a => Sys2Proof.Machine.execFit d a s
  | .unpick d a => Sys2Proof.Machine.execUnpick d a s
  | .charge a => Sys2Proof.Machine.execCharge a s
  | .chnset a => Sys2Proof.Machine.execChnset a s
  | .lton a => Sys2Proof.Machine.execLton a s
  | .ltoff => Sys2Proof.Machine.execLtoff s
  | .ltclk d a => Sys2Proof.Machine.execLtclk d a s
  | .ltchan a => Sys2Proof.Machine.execLtchan a s
  | .ltann => Sys2Proof.Machine.execLtann s
  | .ltnull a => Sys2Proof.Machine.execLtnull a s
  | .hem d a b => Sys2Proof.Machine.execHem d a b s
  | .playadv d a b => Sys2Proof.Machine.execPlayadv d a b s
  | .frame d a b => Sys2Proof.Machine.execFrame d a b s
  | .genadv d a b => Sys2Proof.Machine.execGenadv d a b s
  | .cmtadv d a b => Sys2Proof.Machine.execCmtadv d a b s
  | .ckpt d a b => Sys2Proof.Machine.execCkpt d a b s
  | .dpxget d a b => Sys2Proof.Machine.execDpxget d a b s
  | .smparm a b => Sys2Proof.Machine.execSmparm a b s
  | .smpinj a b => Sys2Proof.Machine.execSmpinj a b s
  | .smpget d a => Sys2Proof.Machine.execSmpget d a s
  | .wset w a => Sys2Proof.Machine.execWset w a s
  | .wget d w => Sys2Proof.Machine.execWget d w s
  | .dtload a tblB => Sys2Proof.Machine.execDtload a tblB s
  | .trap n => Sys2Proof.Machine.execTrap n s
  | .sysc n => Sys2Proof.Machine.execSysc n s
  | .eret => Sys2Proof.Machine.execEret s
  | .csrr d csr => Sys2Proof.Machine.execCsrr d csr s
  | .csrw csr d => Sys2Proof.Machine.execCsrw csr d s
  | .csrset csr d => Sys2Proof.Machine.execCsrset csr d s
  | .csrclr csr d => Sys2Proof.Machine.execCsrclr csr d s
  | .halt => Sys2Proof.Machine.execHalt s
  | .bkpt => Sys2Proof.Machine.execBkpt s
  | .clfl a => Sys2Proof.Machine.execClfl a s
  | .clinv => Sys2Proof.Machine.execClinv s
  | .xlinv a => Sys2Proof.Machine.execXlinv a s
  | .wfi => Sys2Proof.Machine.execWfi s
  | .hint => Sys2Proof.Machine.execHint s
  | .cMov x y => Sys2Proof.Machine.execCMov x y s
  | .cAddi x imm => Sys2Proof.Machine.execCAddi x imm s
  | .cLi x imm => Sys2Proof.Machine.execCLi x imm s
  | .cAdd x y => Sys2Proof.Machine.execCAdd x y s
  | .cSub x y => Sys2Proof.Machine.execCSub x y s
  | .cAnd x y => Sys2Proof.Machine.execCAnd x y s
  | .cSlli x sh => Sys2Proof.Machine.execCSlli x sh s
  | .cLdd x off => Sys2Proof.Machine.execCLdd x off s
  | .cStd x off => Sys2Proof.Machine.execCStd x off s
  | .cBeqz x off => Sys2Proof.Machine.execCBeqz x off s
  | .cBnez x off => Sys2Proof.Machine.execCBnez x off s
  | .cJ off => Sys2Proof.Machine.execCJ off s
  | .cNop => Sys2Proof.Machine.execCNop s
  | .cEnd => Sys2Proof.Machine.execCEnd s
  | .cBkpt => Sys2Proof.Machine.execCBkpt s
  | .cMxwait => Sys2Proof.Machine.execCMxwait s
  | .cRepwait => Sys2Proof.Machine.execCRepwait s
  | .cHint => Sys2Proof.Machine.execCHint s
  | .taskDispatch core => Sys2Proof.Machine.execTaskDispatch core s
  | .activeMessage src => Sys2Proof.Machine.execActiveMessage src s
  | .countMessage src => Sys2Proof.Machine.execCountMessage src s
  | .codeMessage src => Sys2Proof.Machine.execCodeMessage src s
  | .dataMessage src => Sys2Proof.Machine.execDataMessage src s
  | .systemMessage src => Sys2Proof.Machine.execSystemMessage src s
  | .eventMessage src => Sys2Proof.Machine.execEventMessage src s
  | .clockMessage src => Sys2Proof.Machine.execClockMessage src s
  | .sampleMessage src => Sys2Proof.Machine.execSampleMessage src s
  | .routerSampleCombine u v slotU copyU slotV copyV => Sys2Proof.Machine.execRouterSampleCombine u v slotU copyU slotV copyV s
  | .refusalReceived u slot copy => Sys2Proof.Machine.execRefusalReceived u slot copy s
  | .retryTimer u slot copy => Sys2Proof.Machine.execRetryTimer u slot copy s
  | .counterDecrement idx => Sys2Proof.Machine.execCounterDecrement idx s
  | .downwardFlip idx => Sys2Proof.Machine.execDownwardFlip idx s
  | .queueAgeing core q idx => Sys2Proof.Machine.execQueueAgeing core q idx s
  | .budgetExpiry core => Sys2Proof.Machine.execBudgetExpiry core s
  | .balancingRound core => Sys2Proof.Machine.execBalancingRound core s
  | .storeBufferDrain what => Sys2Proof.Machine.execStoreBufferDrain what s
  | .directoryRequest core line fill => Sys2Proof.Machine.execDirectoryRequest core line fill s
  | .remoteWordAccess idx => Sys2Proof.Machine.execRemoteWordAccess idx s
  | .lineEviction core line => Sys2Proof.Machine.execLineEviction core line s
  | .scPresent core => Sys2Proof.Machine.execScPresent core s
  | .scApply die window => Sys2Proof.Machine.execScApply die window s
  | .fittingWalk core region need => Sys2Proof.Machine.execFittingWalk core region need s
  | .matrixEngineStep core => Sys2Proof.Machine.execMatrixEngineStep core s
  | .brotRotate core => Sys2Proof.Machine.execBrotRotate core s
  | .groupWatchdog core => Sys2Proof.Machine.execGroupWatchdog core s
  | .streamerPiece job byte => Sys2Proof.Machine.execStreamerPiece job byte s
  | .unpickPresent idx => Sys2Proof.Machine.execUnpickPresent idx s
  | .unpickReceive idx core => Sys2Proof.Machine.execUnpickReceive idx core s
  | .unpickComplete idx => Sys2Proof.Machine.execUnpickComplete idx s
  | .automaticRound core => Sys2Proof.Machine.execAutomaticRound core s
  | .eventDispatch core => Sys2Proof.Machine.execEventDispatch core s
  | .zerolaEntry core => Sys2Proof.Machine.execZerolaEntry core s
  | .rreadServe side => Sys2Proof.Machine.execRreadServe side s
  | .hostAccess fn mpa bytes op => Sys2Proof.Machine.execHostAccess fn mpa bytes op s
  | .widx agent queue v => Sys2Proof.Machine.execWidx agent queue v s
  | .queueErrClear queue => Sys2Proof.Machine.execQueueErrClear queue s
  | .walkerStep die prio => Sys2Proof.Machine.execWalkerStep die prio s
  | .nop src => Sys2Proof.Machine.execNop src s
  | .install src => Sys2Proof.Machine.execInstall src s
  | .dispatch src tag => Sys2Proof.Machine.execDispatch src tag s
  | .postPacket src tag => Sys2Proof.Machine.execPostPacket src tag s
  | .copy src tag => Sys2Proof.Machine.execCopy src tag s
  | .signal src => Sys2Proof.Machine.execSignal src s
  | .write src => Sys2Proof.Machine.execWrite src s
  | .stamp src => Sys2Proof.Machine.execStamp src s
  | .uninstall src => Sys2Proof.Machine.execUninstall src s
  | .sendkRequest core slot => Sys2Proof.Machine.execSendkRequest core slot s
  | .launchTaskSend part tag => Sys2Proof.Machine.execLaunchTaskSend part tag s
  | .coreInstall core => Sys2Proof.Machine.execCoreInstall core s
  | .launchComplete part tag => Sys2Proof.Machine.execLaunchComplete part tag s
  | .prqridx part v => Sys2Proof.Machine.execPrqridx part v s
  | .rpwidx part v => Sys2Proof.Machine.execRpwidx part v s
  | .kernelReply core => Sys2Proof.Machine.execKernelReply core s
  | .xlflush part => Sys2Proof.Machine.execXlflush part s
  | .bookflush part => Sys2Proof.Machine.execBookflush part s
  | .en part v => Sys2Proof.Machine.execEn part v s
  | .panelRemove die part panel => Sys2Proof.Machine.execPanelRemove die part panel s
  | .panelAdd die part panel => Sys2Proof.Machine.execPanelAdd die part panel s
  | .save part => Sys2Proof.Machine.execSave part s
  | .restore part => Sys2Proof.Machine.execRestore part s
  | .sqwidx die v => Sys2Proof.Machine.execSqwidx die v s
  | .scrubEntry die => Sys2Proof.Machine.execScrubEntry die s
  | .waydisClear die ways => Sys2Proof.Machine.execWaydisClear die ways s
  | .sliceExpiry die group => Sys2Proof.Machine.execSliceExpiry die group s
  | .saveTimeout die group => Sys2Proof.Machine.execSaveTimeout die group s
  | .moduleReset => Sys2Proof.Machine.execModuleReset s
  | .romImageCheck => Sys2Proof.Machine.execRomImageCheck s
  | .recovgo => Sys2Proof.Machine.execRecovgo s
  | .flintStart d entry => Sys2Proof.Machine.execFlintStart d entry s
  | .measExtend idx => Sys2Proof.Machine.execMeasExtend idx s
  | .mlock bits => Sys2Proof.Machine.execMlock bits s
  | .fusecmd field index => Sys2Proof.Machine.execFusecmd field index s
  | .fuselock => Sys2Proof.Machine.execFuselock s
  | .qgo blow => Sys2Proof.Machine.execQgo blow s
  | .railEn n v => Sys2Proof.Machine.execRailEn n v s
  | .railPgoodTimeout n => Sys2Proof.Machine.execRailPgoodTimeout n s
  | .railFault n => Sys2Proof.Machine.execRailFault n s
  | .clkstateReq v => Sys2Proof.Machine.execClkstateReq v s
  | .clockChange => Sys2Proof.Machine.execClockChange s
  | .powerWindow estimate => Sys2Proof.Machine.execPowerWindow estimate s
  | .gddrInit c r => Sys2Proof.Machine.execGddrInit c r s
  | .catrain c r => Sys2Proof.Machine.execCatrain c r s
  | .wckalign c r => Sys2Proof.Machine.execWckalign c r s
  | .rdtrain c r => Sys2Proof.Machine.execRdtrain c r s
  | .wrtrain c r => Sys2Proof.Machine.execWrtrain c r s
  | .verify c r => Sys2Proof.Machine.execVerify c r s
  | .gddrOnline c => Sys2Proof.Machine.execGddrOnline c s
  | .eqTrain b r => Sys2Proof.Machine.execEqTrain b r s
  | .prbs b r => Sys2Proof.Machine.execPrbs b r s
  | .deskew b r => Sys2Proof.Machine.execDeskew b r s
  | .flitlock b r => Sys2Proof.Machine.execFlitlock b r s
  | .linkOnline b => Sys2Proof.Machine.execLinkOnline b s
  | .trainingDone b => Sys2Proof.Machine.execTrainingDone b s
  | .errorDetect u mpa place retryOk => Sys2Proof.Machine.execErrorDetect u mpa place retryOk s
  | .cacheDirtyLineError die line => Sys2Proof.Machine.execCacheDirtyLineError die line s
  | .ownerTagParityError die line => Sys2Proof.Machine.execOwnerTagParityError die line s
  | .panelRetirement panel => Sys2Proof.Machine.execPanelRetirement panel s
  | .linkFlitError l retryOk => Sys2Proof.Machine.execLinkFlitError l retryOk s
  | .registerWrite agent offset v => Sys2Proof.Machine.execRegisterWrite agent offset v s
  | .unreachable m => Sys2Proof.Machine.execUnreachable m s
  | .domainUnpick part p => Sys2Proof.Machine.execDomainUnpick part p s
  | .failureReport idx => Sys2Proof.Machine.execFailureReport idx s
  | .pgood n => Sys2Proof.Machine.execPgood n s

end Sys2Proof.Machine
end

