-- ==== Sys2Proof/Machine/Work.lean ====
section
/-! DEFINITION. What moves when the agenda names nothing and the core in focus waits (log 1): the first piece of the module's
own work that can go on, else another core. The spec leaves the interleaving of agents open. -/

namespace Sys2Proof.Machine

/-! ### Power -/

/-- Whether a Brixmal function reaches the module: the link carries traffic and has not failed (R354, R360, R364). -/
def State.hostHears (s : State) : Bool := s.hostUp && !s.brixDown

/-- Whether an agent reaches the register windows: the management interface and the flints while AON is up (R345, R354). -/
def State.agentHears (s : State) (a : RegAgent) : Bool :=
  match a with
  | .mgmt => s.railUp railAon
  | .flint _ => s.railUp railAon
  | _ => s.hostHears

/-- Whether a unit that sends is supplied (R354). -/
def State.senderUp (s : State) (u : Sender) : Bool :=
  match u with
  | .core n => s.coreUp n
  | .ni n => s.coreUp n
  | .frontEnd _ => s.railUp railAux
  | .home _ => s.railUp railSram

/-- Whether a message of a unit can move to a core: both are supplied (R354). -/
def State.copyUp (s : State) (u : Sender) (slot i : Nat) : Bool :=
  (match s.outgoing u slot i with
   | some o => o.copy.dmod != s.modnum || s.coreUp o.copy.dcore.toNat
   | none => true) && s.senderUp u

/-- Whether a message can arrive: its sender and its core are supplied, and the links where it comes from another module (R354). -/
def State.srcUp (s : State) (src : MsgSrc) : Bool :=
  match src with
  | .held u slot i => s.copyUp u slot i
  | .remote u slot i _ => s.copyUp u slot i && s.railUp railLink
  | .wire m _ => s.railUp railLink && s.coreUp (hdrCore m.hdr)

/-- Whether the rail of a training block is in regulation. -/
def State.blockUp (s : State) (b : TrainBlock) : Bool := s.railUp (trainRail b)

/-- Whether the units of an event are supplied (R354). [log 107 DESIGN CHOICE] -/
def State.powered (s : State) (i : Instr) : Bool :=
  match i with
  | .taskDispatch n => s.coreUp n
  | .activeMessage src => s.srcUp src
  | .countMessage src => s.srcUp src
  | .codeMessage src => s.srcUp src
  | .dataMessage src => s.srcUp src
  | .systemMessage src => s.srcUp src
  | .eventMessage src => s.srcUp src
  | .clockMessage src => s.srcUp src
  | .sampleMessage src => s.srcUp src
  | .queueAgeing n _ _ => s.coreUp n
  | .budgetExpiry n => s.coreUp n
  | .balancingRound n => s.coreUp n
  | .directoryRequest n _ _ => s.coreUp n
  | .automaticRound n => s.coreUp n
  | .eventDispatch n => s.coreUp n
  | .zerolaEntry n => s.coreUp n
  | .kernelReply n => s.coreUp n
  | .coreInstall n => s.coreUp n
  | .sendkRequest n _ => s.coreUp n && s.railUp railAux
  | .walkerStep _ _ => s.railUp railAux
  | .nop _ => s.railUp railAux
  | .install _ => s.railUp railAux
  | .dispatch _ _ => s.railUp railAux
  | .postPacket _ _ => s.railUp railAux
  | .copy _ _ => s.railUp railAux
  | .signal _ => s.railUp railAux
  | .write _ => s.railUp railAux
  | .stamp _ => s.railUp railAux
  | .uninstall _ => s.railUp railAux
  | .launchTaskSend _ _ => s.railUp railAux
  | .launchComplete _ _ => s.railUp railAux
  | .failureReport _ => s.railUp railAux
  | .rreadServe _ => s.railUp railLink
  | .domainUnpick _ _ => s.railUp railLink
  | .gddrInit c _ => s.blockUp (.gddr c)
  | .catrain c _ => s.blockUp (.gddr c)
  | .wckalign c _ => s.blockUp (.gddr c)
  | .rdtrain c _ => s.blockUp (.gddr c)
  | .wrtrain c _ => s.blockUp (.gddr c)
  | .verify c _ => s.blockUp (.gddr c)
  | .gddrOnline c => s.blockUp (.gddr c)
  | .eqTrain b _ => s.blockUp b
  | .prbs b _ => s.blockUp b
  | .deskew b _ => s.blockUp b
  | .flitlock b _ => s.blockUp b
  | .linkOnline b => s.blockUp b
  | .routerSampleCombine u v _ _ _ _ => s.senderUp u && s.senderUp v
  | .refusalReceived u _ _ => s.senderUp u
  | .retryTimer u _ _ => s.senderUp u
  | .storeBufferDrain (.leave n) => s.coreUp n
  | .lineEviction n _ => s.coreUp n
  | .scPresent n => s.coreUp n
  | .fittingWalk n _ _ => s.coreUp n
  | .matrixEngineStep n => s.coreUp n
  | .brotRotate n => s.coreUp n
  | .groupWatchdog n => s.coreUp n
  | .streamerPiece j _ => (s.jobs[j]?).all fun x => s.streamersUp (streamerDie x.streamer)
  | .scrubEntry d => s.streamersUp d
  | .romImageCheck => s.railUp railAon
  | .hostAccess .. => s.hostHears
  | .widx a _ _ => s.agentHears a
  | _ => true

/-! ### Work -/

/-- The first of a list of answers. -/
def firstSome {α : Type} : List (Option α) → Option α
  | [] => none
  | some x :: _ => some x
  | none :: r => firstSome r

/-- A state where something that can be compared has changed. -/
def progress {α : Type} [DecidableEq α] (a b : α) (s : State) : Option State := if a = b then none else some s

/-- How many page requests of a partition are outstanding. -/
def State.reqCount (s : State) (p : Nat) : Nat := (s.part p).reqs.length

/-- A store goes on: one that has left its buffer performs, or the oldest of some buffer leaves it. -/
def State.storeWork (s : State) : Option State :=
  if !s.flight.isEmpty then some (s.drainStep (.perform 0))
  else (s.coreNos.find? fun n => !(s.getCore n).stores.isEmpty && s.coreUp n).bind fun n =>
    let t := s.drainStep (.leave n)
    progress (s.getCore n).stores (t.getCore n).stores t

/-- A decrement or a flip arrives. -/
def State.counterWork (s : State) : Option State :=
  if !s.decs.isEmpty then some (s.decrementArrives 0)
  else if !s.flips.isEmpty then some (s.flipArrives 0) else none

/-- The units that send. -/
def State.senders (s : State) : List Sender :=
  s.coreNos.flatMap (fun n => [Sender.core n, Sender.ni n]) ++ (List.range 4).flatMap fun d => [Sender.frontEnd d, Sender.home d]

/-- Whether a core has something to run. -/
def State.hasWork (s : State) (n : Nat) : Bool :=
  let c := s.getCore n
  !c.out && (if n < 1048576 then c.km || c.task.isSome || !c.kwork.isEmpty || !c.install.isEmpty || !c.starts.isEmpty
    else s.flints[n - 1048576]? == some .running)

/-- Whether no core can run: each is idle, or its last attempt had to wait. -/
def State.coresWait (s : State) : Bool := s.coreNos.all fun n => !s.hasWork n || (s.getCore n).stalled

/-- What a copy of a released message comes to: it arrives, its refusal is read, or its delay is over. -/
def State.copyWork (s : State) (u : Sender) (slot i : Nat) : Option State :=
  match s.outgoing u slot i with
  | none => none
  | some o =>
    if !s.copyUp u slot i then none
    else match o.copy.phase with
    | .nacked _ => some (s.refused u slot i)
    | .waiting due => if due ≤ s.clock then some (s.retry u slot i) else none
    | .ready =>
      let t := s.deliver o.msg.kind (.held u slot i)
      progress (s.sends u) (t.sends u) t

/-- A message goes on. -/
def State.messageWork (s : State) : Option State :=
  s.senders.findSome? fun u => (s.sends u).zipIdx.findSome? fun e => (List.range e.1.copies.length).findSome? (s.copyWork u e.2)

/-- An entry of an event queue becomes ready (R282). -/
def State.eventWork (s : State) : Option State :=
  (s.coreNos.filter fun n => !(s.getCore n).evWaiting.isEmpty && s.coreUp n).findSome? fun n =>
    let t := s.evDispatch n
    progress (s.getCore n).evq (t.getCore n).evq t

/-- The retry that is due first, where nothing else moves. -/
def State.retryWork (s : State) : Option State :=
  let waits := s.senders.flatMap fun u => (s.sends u).zipIdx.flatMap fun e => e.1.copies.zipIdx.filterMap fun c => match c.1.phase with
    | .waiting due => if (s.outgoing u e.2 c.2).isSome then some (due, u, e.2, c.2) else none
    | _ => none
  let first := waits.foldl (fun (b : Option (Nat × Sender × Nat × Nat)) x => match b with
    | some y => if x.1 < y.1 then some x else b
    | none => some x) none
  if s.coresWait then first.map fun x => s.retry x.2.1 x.2.2.1 x.2.2.2 else none

/-- The first byte of a command that has not been moved. -/
def firstByte (done : List (Nat × Nat)) : Nat :=
  match done with
  | (0, n) :: _ => n
  | _ => 0

/-- Where a command may have a piece that can move: after what is done, at each row, and every 4 KiB. -/
def EngJob.starts (j : EngJob) : List Nat :=
  (j.held.map fun p => p.start) ++ firstByte j.done :: (j.done.map fun r => r.2) ++ (List.range j.cmd.rows).map (fun r => r * j.cmd.rowLen) ++
    (List.range (j.cmd.total / 4096 + 1)).map fun k => 4096 * k

/-- An engine command goes on. -/
def State.engineWork (s : State) : Option State :=
  s.jobs.zipIdx.findSome? fun j =>
    if j.1.finished || !s.streamersUp (streamerDie j.1.streamer) then none
    else
      j.1.starts.findSome? fun b =>
        let t := s.streamerPiece j.2 b
        firstSome [progress (some j.1) t.jobs[j.2]? t,
          progress (s.reqCount j.1.cmd.part) (t.reqCount j.1.cmd.part) t]

/-- A matrix command at a queue's head goes on. -/
def State.matrixWork (s : State) : Option State :=
  (s.coreNos.filter fun n => !(s.getCore n).mxq.isEmpty && s.coreUp n).findSome? fun n =>
    let t := s.mxStep n
    let u := s.rotate n
    firstSome [progress (s.getCore n).mxq (t.getCore n).mxq t, progress (s.getCore n).mxq (u.getCore n).mxq u]

/-- An SC operation goes on. -/
def State.scWork (s : State) : Option State :=
  firstSome
    [(s.coreNos.find? fun n => match (s.getCore n).sc with
        | some op => op.window.isNone && s.coreUp n
        | none => false).map s.scPresented,
     (List.range 4).findSome? fun d => ((s.scWaiting d).map fun x => x.1).min?.map (s.scApplied d)]

/-- An unpick or a book flush goes on. -/
def State.unpickWork (s : State) : Option State :=
  s.unpicks.zipIdx.findSome? fun x =>
    let u := x.1
    if !u.presented then
      let t := s.unpickPresented x.2
      progress (some u) t.unpicks[x.2]? t
    else match (s.unitsOf u.part).find? fun n => !u.received.contains n with
      | some n => some (s.unpickReceived x.2 n)
      | none => if u.peers.isEmpty then some (s.unpickCompleted x.2) else none

/-- A front end goes on: a report arrives, a request enters a device queue, a launch sends a task or completes. -/
def State.launchWork (s : State) : Option State :=
  let requests := s.coreNos.findSome? fun n => (s.getCore n).sendBuf.zipIdx.findSome? fun e =>
    match e.1.released, e.1.body with
    | true, .launch .. => some (s.sendkArrives n e.2)
    | _, _ => none
  let sends (l : Launch) : Option State :=
    let t := s.taskSend l.part l.tag
    progress (some l, s.reqCount l.part) (t.launchOf (some l.part) l.tag, t.reqCount l.part) t
  let ends (l : Launch) : Option State :=
    let t := s.launchCompletes l.part l.tag
    progress (s.launches.length, s.reqCount l.part) (t.launches.length, t.reqCount l.part) t
  if !s.railUp railAux then none
  else firstSome [if s.reports.isEmpty then none else some (s.reportArrives 0), requests, s.launches.findSome? sends, s.launches.findSome? ends]

/-- A rail that has been enabled comes into regulation (R355); the mask ROM goes on (R345). -/
def State.bootWork (s : State) : Option State :=
  match (List.range 9).find? fun n => s.railOn n && !(s.rail n).pgood with
  | some n => some (s.railGood n)
  | none => if s.flint 0 = .rom ∧ s.sec.queue.isEmpty then some s.romStep else none

/-- A flint's register write takes effect; the security block goes on with a fuse or a quote (R343, R346, R347, R351). -/
def State.blockWork (s : State) : Option State :=
  match s.posted with
  | x :: _ => some (s.postedWritten x.1 x.2.1 x.2.2)
  | [] => if s.sec.fgo then some s.fuseBlows else if s.sec.queue.isEmpty then none else some (s.quoteServed .verified)

/-- A way of a memory-side cache that is being emptied goes on (R367). -/
def State.wayWork (s : State) : Option State :=
  ((List.range 4).find? fun d => !(s.die d).walks.isEmpty).map s.wayStep

/-- The module's own work that goes on (log 1). [log 1 DESIGN CHOICE] -/
def State.work (s : State) : Option State :=
  firstSome [s.bootWork, s.blockWork, s.storeWork, s.counterWork, s.messageWork, s.eventWork, s.scWork, s.unpickWork, s.matrixWork, s.engineWork, s.launchWork, s.wayWork, s.retryWork]

/-- The next core after the focus that has something to run. [log 1 DESIGN CHOICE] -/
def State.nextCore (s : State) : Option Nat :=
  let l := s.coreNos.filter fun n => n != s.focus && s.hasWork n
  match l.find? fun n => decide (s.focus < n) with
  | some n => some n
  | none => l.head?

end Sys2Proof.Machine
end

