-- ==== Sys2Proof/Machine/Fetch.lean ====
section
/-! DEFINITION. What a core does next: fetching from IMEM or from a CODE message (R37, R144), the watchdog (R55), the capture
of a repetition body and the sequencer that issues it (R86, R154, R210, R211), and the placing of an instruction where
the next fetch finds it. -/

namespace Sys2Proof.Machine

/-- What a step comes to: an instruction with the state it runs from, or a state. -/
inductive Act where
  | run (i : Instr) (s : State)
  | done (s : State)

/-- ILLEGAL with an EVAL. -/
def State.illegal (s : State) (eval : DWord) : State := takeTrap ⟨Cause.illegal.code, eval, none, none, none⟩ s

/-- The core with an instruction fetched for a stream. -/
def State.holding (s : State) (st : Stream) (bits : Nat) : State :=
  { s with core := { s.core with insn := BitVec.ofNat 32 bits, stream := st, loadAt := 0 } }

/-- The next instruction of the control stream (R144, R162). -/
def State.control (s : State) : Act :=
  match s.fetch with
  | .none e => .done ((s.holding .control 0).illegal e)
  | .insn bits _ =>
    match decodeWord bits with
    | .ok i => .run i (s.holding .control bits)
    | .error _ => .done ((s.holding .control bits).illegal (BitVec.ofNat 64 bits))

/-- Whether R211 forbids an instruction in a body, by its bits. -/
def bodyForbids (bits : Nat) : Bool :=
  if bits % 2 = 0 then
    let op := fld bits 1 4
    let x := fld bits 5 5
    op == 9 || op == 10 || op == 11 || (op == 12 && (x == 1 || x == 2 || x == 4))
  else
    let major := fld bits 1 6
    major == 0 || (decide (18 ≤ major) && decide (major ≤ 26)) || (decide (30 ≤ major) && decide (major ≤ 33)) ||
      (major == 35 && fld bits 28 4 == 5) || (decide (37 ≤ major) && decide (major ≤ 42))

/-- Whether bits are a REPE. -/
def isRepe (bits : Nat) : Bool :=
  match decodeWord bits with
  | .ok .repe => true
  | _ => false

/-- One step of the capture of a body (R210, R211): REPE runs, every other instruction is checked and kept. -/
def State.capture (s : State) (r : Rep) : Act :=
  match s.fetch with
  | .none e => .done ((s.holding .control 0).illegal e)
  | .insn bits len =>
    let s := s.holding .control bits
    if isRepe bits then .run .repe s
    else if bodyForbids bits ∨ 16 ≤ r.body.length then .done (s.illegal (BitVec.ofNat 64 bits))
    else
      let b : BodyInsn := ⟨s.core.pcNow, BitVec.ofNat 32 bits, len == 2⟩
      .done { s with core := { s.core.pcOn len with rep := some { r with body := r.body ++ [b] } } }

/-- The next instruction of the body, renamed for its iteration (R154, R210, R211). -/
def State.bodyTurn (s : State) (r : Rep) : Act :=
  match r.body[r.pos]? with
  | none => .done { s with core := { s.core with rep := none, turn := .control } }
  | some b =>
    let s := s.holding .body b.bits.toNat
    match decodeWord b.bits.toNat with
    | .ok i => .run (renameRegs (renameReg r.base r.size r.iter) i) s
    | .error _ => .done (s.illegal (b.bits.setWidth 64))

/-- A flint that does not run (R353). [log 101 DEDUCED] -/
def State.flintStopped (s : State) : Bool :=
  decide (1048576 ≤ s.focus) && !(s.flints[s.focus - 1048576]? == some .running)

/-- The stream that alone may move: the one that an SC operation waits for, or the control stream behind an UNPICK (R84, R230). -/
def Core.heldTo (c : Core) : Option Stream :=
  match c.sc with
  | some op => some op.stream
  | none => if c.unpick.isSome then some .control else none

/-- The stream that issues next while a repetition runs: only the body where the control stream's trap waits for its iteration (R86). -/
def Core.issuer (c : Core) (r : Rep) : Stream := c.heldTo.getD (if r.stop.isSome then .body else c.turn)

/-- What the core in focus does next. -/
def State.coreTurn (s : State) : Act :=
  let c := s.core
  if c.out || s.flintStopped || !s.coreUp s.focus || (s.dark && decide (s.focus < 1048576)) then .done { s with waiting := true }
  else if !c.km && c.task.isNone then .run (.taskDispatch s.focus) s
  else if s.expired then .run (.budgetExpiry s.focus) s
  else match c.rep with
    | some r =>
      if r.capturing then s.capture r
      else if c.issuer r = .body then s.bodyTurn r
      else s.control
    | none => s.control

/-- Whether the agenda may name an instruction as an event: a well-formed row without an encoding. [log 10 DESIGN CHOICE] -/
def isEvent (i : Instr) : Bool := (encode i).isNone && wellFormed i

/-- Whether an event can come about: its units are supplied, the function that it comes from reaches the module, and once a rail's
FAULT has powered the module down only AON's units go on (R354, R355, R364). [log 10 DESIGN CHOICE, log 101 DEDUCED] -/
def State.hears (s : State) (i : Instr) : Bool :=
  match i with
  | .moduleReset => true
  | .qgo _ => s.railUp railAon
  | .recovgo => s.railUp railAon
  | .measExtend _ => s.railUp railAon
  | .mlock _ => s.railUp railAon
  | .fusecmd _ _ => s.railUp railAon
  | .fuselock => s.railUp railAon
  | .registerWrite a _ _ => s.agentHears a
  | i => !s.dark && s.powered i

/-! ### What comes about without a row of the table -/

/-- A register read by an agent (R306): the answer goes out to the host or to the management interface. [log 86 DEDUCED] -/
def State.registerReadBy (s : State) (a : RegAgent) (off : Nat) : State :=
  if s.agentHears a then { s with hostIn := some (Val.ofDWord (s.registerRead a off) false) } else s

/-- A read of a function's configuration space (R29, R30). [log 105 DESIGN CHOICE] -/
def State.configReadBy (s : State) (fn off : Nat) : State :=
  if s.hostHears then { s with hostIn := some (Val.ofDWord ((configRead fn off).setWidth 64) false) } else s

/-- The hottest sensor of a die (R372). -/
def State.heated (s : State) (d : Nat) (v : BitVec 12) : State := { s with temps := s.temps.setIfInBounds d v }

/-- Which stream of a core issues next while a repetition runs: the spec orders the two only through queues (R75, R212). -/
def State.turned (s : State) (n : Nat) (st : Stream) : State :=
  s.modCore n fun c => if c.rep.any fun r => !r.capturing then { c with turn := st } else c

/-- What an input does. [log 10 DESIGN CHOICE] -/
def State.entered (s : State) : Input → State
  | .registerRead a off => s.registerReadBy a off
  | .configRead fn off => s.configReadBy fn off
  | .recoveryWrite off v => s.recoveryWritten off v
  | .temperature d v => s.heated d v
  | .corrected d => s.corrected d
  | .lineRetried d line => s.lineRetried d line
  | .tagRetried d line => s.tagRetried d line
  | .peerAck u m => s.peerAcked u m
  | .wayStep d => s.wayStep d
  | .earlyLoad n st ea k alloc => if s.coreUp n && !s.dark then s.earlyLoaded n st ea k alloc else s
  | .latchRead n st x => if s.coreUp n && !s.dark then s.latchRead n st x else s
  | .turn n st => s.turned n st
  | .stage => s.stageStep
  | .stagePanel p => s.stagePanel p
  | .stageImage off kind => s.stageImage off kind
  | .stageLoaded => s.stageLoaded
  | .flintTrains d => s.flintTrains d
  | .stageTrain d b arg => s.stageTrained d b arg

/-- The destination of an instruction that may stand in no body and reads its own or none: `loop` counts, a jump links. -/
def ownDest : Instr → List Reg × List Reg
  | .loop a _ => ([a], [a])
  | .jal d _ => ([], [d])
  | .jalr d a _ => ([a], [d])
  | .sbind d _ _ => ([], [d])
  | .qbind d _ _ => ([], [d])
  | .lbind d _ _ => ([], [d])
  | .unbind d => ([], [d])
  | i => bodyRegs i

/-- The destination of every other instruction that may stand in no body and writes a register. -/
def otherDest : Instr → Option Reg
  | .rread d _ _ => some d
  | .ctrget _ d => some d
  | .bstat d _ => some d
  | .wmget d _ => some d
  | .adopt d _ => some d
  | .shed d => some d
  | .chnget d _ => some d
  | .fit d _ => some d
  | .unpick d _ => some d
  | .ltclk d _ => some d
  | .hem d _ _ => some d
  | .playadv d _ _ => some d
  | .frame d _ _ => some d
  | .genadv d _ _ => some d
  | .cmtadv d _ _ => some d
  | .dpxget d _ _ => some d
  | .smpget d _ => some d
  | .wget d _ => some d
  | .csrr d _ => some d
  | _ => none

/-- The step in which the latest load performed that the value of a destination is formed from. -/
def Core.formed (c : Core) (r : Reg) (t : Nat) : Core := if r = 0 then c else { c with deps := c.deps.set r.toNat t r.isLt }

/-- After an instruction has retired: from which loads its results are formed (R88), by the registers that it reads and its own loads; the
result of an instruction that may stand in no body counts as loaded in this step. [log 40 DESIGN CHOICE] -/
def State.tracked (t : State) (i : Instr) (s : State) : State :=
  if s.core.csr.instret = t.core.csr.instret then t
  else
    let u := ownDest i
    let at_ := (u.1.map s.depOf).foldl max t.core.loadAt
    let c := u.2.foldl (fun c r => c.formed r at_) t.core
    { t with core := match otherDest i with
        | some d => c.formed d s.tick
        | none => c }

/-- What an agent does. [log 1 DESIGN CHOICE, log 10 DESIGN CHOICE] -/
def State.agentTurn (s : State) : Agent → Act
  | .event i => if isEvent i && s.hears i then .run i { s with waiting := false } else .done s
  | .core n => ({ s with waiting := false }.focusOn n).coreTurn
  | .input x => .done (s.entered x)

/-- What a step does where the agenda is empty (log 1): the core in focus moves; where its last step waited, the module's own
work goes on, or another core comes into focus. [log 1 DESIGN CHOICE] -/
def State.freeTurn (s : State) : Act :=
  match (if s.waiting then s.work else none) with
  | some t => .done { t with waiting := false }
  | none =>
    let n := if s.waiting then s.nextCore.getD s.focus else s.focus
    s.agentTurn (.core n)

/-- What a step does (log 1): what the agenda's head names, else what moves by itself. [log 1 DESIGN CHOICE] -/
def State.act (s : State) : Act :=
  match s.agenda with
  | a :: r => { s with agenda := r }.agentTurn a
  | [] => s.freeTurn

/-- What one cycle adds to the reference of STAMP, in units of 1/24 of its 2.5 GHz period, in a clock state (R356). [log 4 DEDUCED] -/
def refPerCycle (cur : BitVec 2) : Nat :=
  match cur.toNat with
  | 0 => 24
  | 1 => 30
  | 2 => 40
  | _ => 75

/-- A step's end: the module's clock moves on by what the step took, and the reference of STAMP by the time from `before`. [log 4 DEDUCED] -/
def State.ticked (s : State) (before : Nat) : State :=
  let now := s.clock + Config.elapse s.tick
  { s.serviced (now - before) with tick := s.tick + 1, clock := now, ref24 := s.ref24 + (now - before) * refPerCycle s.clkCur }

/-- The core in focus made ready to fetch: supplied, in service and running, past no capture and no pending answer. [log 8 DESIGN CHOICE] -/
def State.readied (s : State) : State :=
  let c := s.core
  let flints := if 1048576 ≤ s.focus then s.flints.setIfInBounds (s.focus - 1048576) .running else s.flints
  let k := c.task.map fun k => { k with started := s.clock }
  let km := c.km || c.task.isNone
  let up (s : State) (n : Nat) : State := s.modRail n fun r => { r with pgood := true }
  let s := if s.focus < 1048576 then up (up s (railCore (dieOfCore s.focus))) railAux else up s railAon
  let fix (pc : BitVec 12) : BitVec 12 := if pc = 0xFFF then 0 else pc
  { s with
    agenda := [], waiting := false, dark := false, flints := flints,
    core := { c with out := false, task := k, csr := { c.csr with km := km, budget := if c.csr.budget = 0 then 1 else c.csr.budget }, rep := none,
                     sc := none, rread := none, unpick := none, pc := fix c.pc, kpc := fix c.kpc } }

/-- A 32-bit word placed where the next fetch finds it: in IMEM, or in the message of a CODE task. [log 8 DESIGN CHOICE, log 9 DESIGN CHOICE] -/
def State.placed (s : State) (w : Nat) : State :=
  let s := s.readied
  let pc := s.core.pcNow.toNat
  match s.core.codeWords, s.core.task with
  | some _, some k =>
    match k.code with
    | some (slot, _) =>
      match (s.core.inbox[slot]?).bind id with
      | some m =>
        let m := { m with words := (BitVec.ofNat 64 w) :: m.words.drop 1 }
        { s with core := { s.core with pc := 0, inbox := s.core.inbox.setIfInBounds slot (some m) } }
      | none => s
    | none => s
  | _, _ => { s with mem := s.mem.write (imemBase s.focus + 2 * pc) 4 w }

end Sys2Proof.Machine
end

