-- ==== Sys2Proof/Machine/Step.lean ====
section
/-! DEFINITION. One step of the module. -/

namespace Sys2Proof.Machine

/-- One step: what `act` names runs, and the clock moves on (log 1). -/
def step (s : State) : Host.Outcome State Fault Refusal :=
  match s.act with
  | .done s' => .next (s'.ticked s.clock)
  | .run i s' =>
    match exec i s' with
    | .next t => .next ((t.tracked i s').ticked s.clock)
    | r => r

/-- The module with an instruction stored where the next step fetches. [log 8 DESIGN CHOICE] -/
def State.withFetchWord (s : State) (nbits w : Nat) : State := s.placed (w % 2 ^ nbits)

end Sys2Proof.Machine
end

