-- ==== Sys2Proof/Safety.lean ====
section
/-! DEFINITION. What a safe run is, in the terms that statements use. -/

namespace Sys2Proof.Machine

/-- A step that gives a next state. -/
def Steps (s t : State) : Prop := step s = .next t

/-- The states that steps reach from a state. -/
inductive Reaches (s : State) : State → Prop where
  | here : Reaches s s
  | step {t u : State} : Reaches s t → Steps t u → Reaches s u

end Sys2Proof.Machine
end

