-- ==== Sys2Proof/Certificates/Slice0/Obligations.lean ====
section
/-! DEFINITION. The statements about the model, in terms of the spec's rules: what each instruction and each step of an agent
does, what taking a trap saves, what an instruction leaves alone, what every step keeps. -/

open Sys2Proof Sys2Proof.Machine

namespace Sys2Proof.Claims

open Sys2Proof.Machine

/-! ### Operands and forms -/

/-- A register that the running core may name now without an effect beyond the register itself: it is not bound (R203) and
no active repetition holds it back (R212). -/
def Free (s : State) (r : Reg) (write : Bool) : Prop :=
  s.core.bound r = false ∧ awaitBody r write s = .ok ((), s)

/-- The control stream runs and no repetition is active. -/
def Plain (s : State) : Prop := s.core.stream = .control ∧ s.core.rep = none

/-- The sources of an instruction read one after another, bound ones popping (R153). -/
def readAll : List Reg → Ex (List Val)
  | [] => pure []
  | r :: rs => do
    let v ← readReg r
    let vs ← readAll rs
    pure (v :: vs)

/-- The state with FFLAGS raised (R126). -/
def flagged (s : State) (f : BitVec 6) : State :=
  { s with core := { s.core with csr := { s.core.csr with fflags := s.core.csr.fflags ||| f } } }

/-- The state with a register of the running bank written. -/
def put (s : State) (d : Reg) (v : Val) : State := { s with core := s.core.setReg d v }

/-- An instruction that reads registers and writes one: its length in parcels, its destination, its sources in the order of
R153, those of them that must not be bound (R173, R241), the operands it takes, its result and the flags it raises. -/
structure Form where
  len   : Nat
  dst   : Reg
  srcs  : List Reg
  fixed : List Reg
  ok    : Core → List Val → Bool
  val   : Core → List Val → Val
  flags : Core → List Val → BitVec 6

/-- A form of two sources that always completes and raises nothing. -/
def form2 (len : Nat) (d a b : Reg) (f : Val → Val → Val) : Form :=
  ⟨len, d, [a, b], [], fun _ _ => true, fun _ vs => match vs with
    | [x, y] => f x y
    | _ => Val.zero, fun _ _ => 0⟩

/-- A form of one source that always completes and raises nothing. -/
def form1 (len : Nat) (d a : Reg) (f : Val → Val) : Form :=
  ⟨len, d, [a], [], fun _ _ => true, fun _ vs => match vs with
    | [x] => f x
    | _ => Val.zero, fun _ _ => 0⟩

/-- A form without a source. -/
def form0 (len : Nat) (d : Reg) (v : Val) : Form := ⟨len, d, [], [], fun _ _ => true, fun _ _ => v, fun _ _ => 0⟩

/-- A form that reads D first, which must not be bound. -/
def formD (len : Nat) (d a b : Reg) (f : Val → Val → Val → Val) : Form :=
  ⟨len, d, [d, a, b], [d], fun _ _ => true, fun _ vs => match vs with
    | [z, x, y] => f z x y
    | _ => Val.zero, fun _ _ => 0⟩

/-- A data result of two sources (R172): 64 bits of data, poisoned by either. -/
def dat2 (f : DWord → DWord → DWord) (x y : Val) : Val :=
  ⟨(f (x.bits.setWidth 64) (y.bits.setWidth 64)).setWidth 128, false, x.poison || y.poison⟩
/-- A data result of one source (R172). -/
def dat1 (f : DWord → DWord) (x : Val) : Val := ⟨(f (x.bits.setWidth 64)).setWidth 128, false, x.poison⟩

/-- Whether every bit of a number of bits is counted by a predicate up to the first that is not. -/
def runLength (p : Nat → Bool) : Nat := ((List.range 64).takeWhile p).length

/-- r of R174 and R175 for two sources. -/
def bit (b : Bool) : DWord := if b then 1 else 0

/-- The register forms of the integer instructions (R174, R175). -/
def intForm : Instr → Option Form
  | .add d a b => some (form2 2 d a b (dat2 fun x y => x + y))
  | .sub d a b => some (form2 2 d a b (dat2 fun x y => x - y))
  | .and d a b => some (form2 2 d a b (dat2 fun x y => x &&& y))
  | .or d a b => some (form2 2 d a b (dat2 fun x y => x ||| y))
  | .xor d a b => some (form2 2 d a b (dat2 fun x y => x ^^^ y))
  | .andn d a b => some (form2 2 d a b (dat2 fun x y => x &&& ~~~y))
  | .sll d a b => some (form2 2 d a b (dat2 fun x y => x <<< (y.toNat % 64)))
  | .srl d a b => some (form2 2 d a b (dat2 fun x y => x >>> (y.toNat % 64)))
  | .sra d a b => some (form2 2 d a b (dat2 fun x y => BitVec.ofInt 64 (x.toInt / 2 ^ (y.toNat % 64))))
  | .rol d a b => some (form2 2 d a b (dat2 fun x y => x <<< (y.toNat % 64) ||| x >>> (64 - y.toNat % 64)))
  | .slt d a b => some (form2 2 d a b (dat2 fun x y => bit (decide (x.toInt < y.toInt))))
  | .sltu d a b => some (form2 2 d a b (dat2 fun x y => bit (decide (x.toNat < y.toNat))))
  | .min d a b => some (form2 2 d a b (dat2 fun x y => BitVec.ofInt 64 (Min.min x.toInt y.toInt)))
  | .max d a b => some (form2 2 d a b (dat2 fun x y => BitVec.ofInt 64 (Max.max x.toInt y.toInt)))
  | .minu d a b => some (form2 2 d a b (dat2 fun x y => BitVec.ofNat 64 (Min.min x.toNat y.toNat)))
  | .maxu d a b => some (form2 2 d a b (dat2 fun x y => BitVec.ofNat 64 (Max.max x.toNat y.toNat)))
  | .mul d a b => some (form2 2 d a b (dat2 fun x y => BitVec.ofInt 64 (x.toInt * y.toInt)))
  | .mulh d a b => some (form2 2 d a b (dat2 fun x y => BitVec.ofInt 64 (x.toInt * y.toInt / 2 ^ 64)))
  | .mulhu d a b => some (form2 2 d a b (dat2 fun x y => BitVec.ofNat 64 (x.toNat * y.toNat / 2 ^ 64)))
  | .div d a b => some (form2 2 d a b (dat2 fun x y =>
      if y = 0 then BitVec.allOnes 64 else BitVec.ofInt 64 (x.toInt.tdiv y.toInt)))
  | .divu d a b => some (form2 2 d a b (dat2 fun x y =>
      if y = 0 then BitVec.allOnes 64 else BitVec.ofNat 64 (x.toNat / y.toNat)))
  | .rem d a b => some (form2 2 d a b (dat2 fun x y =>
      if y = 0 then x else BitVec.ofInt 64 (x.toInt - y.toInt * x.toInt.tdiv y.toInt)))
  | .remu d a b => some (form2 2 d a b (dat2 fun x y =>
      if y = 0 then x else BitVec.ofNat 64 (x.toNat % y.toNat)))
  | .clz d a => some (form1 2 d a (dat1 fun x => BitVec.ofNat 64 (runLength fun k => !x.getLsbD (63 - k))))
  | .ctz d a => some (form1 2 d a (dat1 fun x => BitVec.ofNat 64 (runLength fun k => !x.getLsbD k)))
  | .popc d a => some (form1 2 d a (dat1 fun x => BitVec.ofNat 64 ((List.range 64).countP x.getLsbD)))
  | .sel d a b => some (formD 2 d a b fun z x y =>
      if z.bits.setWidth 64 ≠ (0 : DWord) then ⟨(x.bits.setWidth 64).setWidth 128, false, z.poison || x.poison⟩
      else ⟨((y.bits.setWidth 64 : DWord)).setWidth 128, false, z.poison || y.poison⟩)
  | .mix d a => some (form1 2 d a (dat1 mix64))
  | _ => none

/-- The immediate forms (R176 to R178) and the 16-bit integer forms (R190). -/
def immForm : Instr → Option Form
  | .addi d a i => some (form1 2 d a (dat1 fun x => x + i.signExtend 64))
  | .andi d a i => some (form1 2 d a (dat1 fun x => x &&& i.signExtend 64))
  | .ori d a i => some (form1 2 d a (dat1 fun x => x ||| i.signExtend 64))
  | .xori d a i => some (form1 2 d a (dat1 fun x => x ^^^ i.signExtend 64))
  | .slti d a i => some (form1 2 d a (dat1 fun x => bit (decide (x.toInt < i.toInt))))
  | .sltiu d a i => some (form1 2 d a (dat1 fun x => bit (decide (x.toNat < (i.signExtend 64).toNat))))
  | .slli d a k => some (form1 2 d a (dat1 fun x => x <<< k.toNat))
  | .srli d a k => some (form1 2 d a (dat1 fun x => x >>> k.toNat))
  | .srai d a k => some (form1 2 d a (dat1 fun x => BitVec.ofInt 64 (x.toInt / 2 ^ k.toNat)))
  | .roli d a k => some (form1 2 d a (dat1 fun x => x <<< k.toNat ||| x >>> (64 - k.toNat)))
  | .li d i => some (form0 2 d ⟨(i.signExtend 64 : DWord).setWidth 128, false, false⟩)
  | .lis d i => some ⟨2, d, [d], [d], fun _ _ => true, fun _ vs => match vs with
      | [z] => dat1 (fun x => x <<< 20 ||| i.setWidth 64) z
      | _ => Val.zero, fun _ _ => 0⟩
  | .cAddi x i => some (form1 1 x x (dat1 fun v => v + i.signExtend 64))
  | .cLi x i => some (form0 1 x ⟨(i.signExtend 64 : DWord).setWidth 128, false, false⟩)
  | .cAdd x y => some (form2 1 x x y (dat2 fun v w => v + w))
  | .cSub x y => some (form2 1 x x y (dat2 fun v w => v - w))
  | .cAnd x y => some (form2 1 x x y (dat2 fun v w => v &&& w))
  | .cSlli x k => some (form1 1 x x (dat1 fun v => v <<< k.toNat))
  | _ => none

/-- What a form states: with its sources read, its operands taken and its destination written, it completes. -/
def Completes (i : Instr) (f : Form) : Prop :=
  ∀ (s t u : State) (vs : List Val), (∀ r ∈ f.fixed, s.core.bound r = false) → readAll f.srcs s = .ok (vs, t) →
    f.ok t.core vs = true → writeReg f.dst (f.val t.core vs) (flagged t (f.flags t.core vs)) = .ok ((), u) →
    exec i s = .next (u.complete f.len .seq)

end Sys2Proof.Claims

open Sys2Proof.Claims

/-- R174 and R175: each register form of the integer instructions reads its sources, bound or not, and completes with the
result the tables give. -/
def Obligations.IntegerRegisterForms : Prop :=
  ∀ (i : Instr) (f : Form), intForm i = some f → Completes i f

/-- R176 to R178 and R190: each immediate form and each 16-bit integer form completes with the result its table gives. -/
def Obligations.IntegerImmediateForms : Prop :=
  ∀ (i : Instr) (f : Form), immForm i = some f → Completes i f

namespace Sys2Proof.Claims

open Sys2Proof.Machine

/-! ### Capabilities -/

/-- The low doubleword of an operand. -/
def lo (v : Val) : DWord := v.bits.setWidth 64

/-- OTYPE as it stands (R12). -/
def otype (v : Val) : BitVec 6 := v.bits.extractLsb' 114 6
/-- The permission byte as it stands (R12). -/
def permByte (v : Val) : Byte := v.bits.extractLsb' 120 8
/-- RTAG as it stands (R12). -/
def rtag (v : Val) : BitVec 10 := v.bits.extractLsb' 104 10

/-- A capability's bits with another address (R185). -/
def withAddr (c : QWord) (a : DWord) : QWord := c.extractLsb' 64 64 ++ a
/-- A capability's bits with another OTYPE (R188). -/
def withOtype (c : QWord) (t : BitVec 6) : QWord := c.extractLsb' 120 8 ++ t ++ c.extractLsb' 0 114
/-- A capability's bits with other permissions and another RTAG (R187). -/
def withPerms (c : QWord) (p : Byte) (g : BitVec 10) : QWord := p ++ c.extractLsb' 114 6 ++ g ++ c.extractLsb' 0 104

/-- A data result of 64 bits from a whole register (R184). -/
def look (f : Val → DWord) (x : Val) : Val := ⟨(f x).setWidth 128, false, x.poison⟩

/-- A capability moved to an address (R182, R185). -/
def moved (x : Val) (a : DWord) (poison : Bool) : Val :=
  ⟨withAddr x.bits a, x.tag && decide (capBounds (withAddr x.bits a) = capBounds x.bits), poison⟩

/-- Untagged, or unsealed (R183). -/
def unsealed (x : Val) : Bool := !x.tag || otype x == 0

/-- An authority to seal or unseal for an otype (R183). -/
def authority (y : Val) (perm : Nat) : Bool :=
  y.tag && otype y == 0 && y.bits.getLsbD perm && decide ((capBounds y.bits).1 ≤ ((lo y).toNat : Int)) &&
    decide (((lo y).toNat : Int) < (capBounds y.bits).2)

/-- The capability forms (R183 to R189, R190). -/
def capForm : Instr → Option Form
  | .cgetbase d a => some (form1 2 d a (look fun x => BitVec.ofInt 64 (capBounds x.bits).1))
  | .cgetlen d a => some (form1 2 d a (look fun x =>
      if 2 ^ 64 ≤ (capBounds x.bits).2 - (capBounds x.bits).1 then BitVec.allOnes 64
      else BitVec.ofInt 64 ((capBounds x.bits).2 - (capBounds x.bits).1)))
  | .cgetperm d a => some (form1 2 d a (look fun x => (permByte x).setWidth 64))
  | .cgettype d a => some (form1 2 d a (look fun x => (otype x).setWidth 64))
  | .cgetreg d a => some (form1 2 d a (look fun x => (rtag x).setWidth 64))
  | .cgettag d a => some (form1 2 d a (look fun x => bit x.tag))
  | .csetaddr d a b => some { form2 2 d a b (fun x y => moved x (lo y) (x.poison || y.poison)) with
      ok := fun _ vs => unsealed (vs.headD Val.zero) }
  | .cinc d a b => some { form2 2 d a b (fun x y => moved x (lo x + lo y) (x.poison || y.poison)) with
      ok := fun _ vs => unsealed (vs.headD Val.zero) }
  | .cinci d a i => some { form1 2 d a (fun x => moved x (lo x + i.signExtend 64) x.poison) with
      ok := fun _ vs => unsealed (vs.headD Val.zero) }
  | .csetbnd d a b => some { form2 2 d a b (fun x y =>
        ⟨(narrowed x.bits (lo y).toNat).getD 0, true, x.poison || y.poison⟩) with
      ok := fun _ vs => match vs with
        | [x, y] => x.tag && otype x == 0 && (narrowed x.bits (lo y).toNat).isSome
        | _ => false }
  | .csetbi d a n => some { form1 2 d a (fun x => ⟨(narrowed x.bits n.toNat).getD 0, true, x.poison⟩) with
      ok := fun _ vs => match vs with
        | [x] => x.tag && otype x == 0 && (narrowed x.bits n.toNat).isSome
        | _ => false }
  | .candperm d a b => some ⟨2, d, [a, b], [], fun _ vs => unsealed (vs.headD Val.zero), fun c vs => match vs with
      | [x, y] =>
        ⟨withPerms x.bits (permByte x &&& (lo y).extractLsb' 0 8)
          (if c.csr.km && (lo y).getLsbD 63 then (lo y).extractLsb' 8 10 else rtag x), x.tag, x.poison || y.poison⟩
      | _ => Val.zero, fun _ _ => 0⟩
  | .cseal d a b => some { form2 2 d a b (fun x y => ⟨withOtype x.bits ((lo y).extractLsb' 0 6), true, x.poison || y.poison⟩) with
      ok := fun _ vs => match vs with
        | [x, y] => x.tag && otype x == 0 && authority y 123 && decide (1 ≤ (lo y).toNat) && decide ((lo y).toNat ≤ 63)
        | _ => false }
  | .cunseal d a b => some { form2 2 d a b (fun x y => ⟨withOtype x.bits 0, true, x.poison || y.poison⟩) with
      ok := fun _ vs => match vs with
        | [x, y] => x.tag && otype x != 0 && authority y 122 && lo y == (otype x).setWidth 64
        | _ => false }
  | .cmov d a => some (form1 2 d a id)
  | .cMov x y => some (form1 1 x y id)
  | .ctestsub d a b => some (form2 2 d a b fun x y =>
      ⟨(bit (x.tag && y.tag && otype x == otype y && rtag x == rtag y && permByte y &&& permByte x == permByte y &&
          decide ((capBounds x.bits).1 ≤ (capBounds y.bits).1) && decide ((capBounds y.bits).2 ≤ (capBounds x.bits).2))).setWidth 128,
        false, x.poison || y.poison⟩)
  | .cclrtag d a => some (form1 2 d a fun x => { x with tag := false })
  | _ => none

/-! ### Vectors -/

/-- The lanes of an operand under a type (R241). -/
def lanes (t : VType) (v : Val) : List Nat := lanesOf (laneW t) (laneN t) v.bits

/-- Lanes as the 128 bits of a register. -/
def pack (w : Nat) (l : List Nat) : QWord := ofLanes w l

/-- The rounding mode of RMODE (R125). -/
def mode (c : Core) : RMode := modeOf c.csr.rmode.toNat

/-- A lane-wise form of two sources whose lanes raise flags (R241, R242). -/
def lane2 (t : VType) (d a b : Reg) (f : RMode → Nat → Nat → Nat × Flags) : Form :=
  ⟨2, d, [a, b], [], fun _ _ => true, fun c vs => match vs with
    | [x, y] => ⟨pack (laneW t) ((List.zipWith (f (mode c)) (lanes t x) (lanes t y)).map Prod.fst), false, x.poison || y.poison⟩
    | _ => Val.zero, fun c vs => match vs with
    | [x, y] => ((List.zipWith (f (mode c)) (lanes t x) (lanes t y)).map Prod.snd).foldl (· ||| ·) 0
    | _ => 0⟩

/-- A form of one source over its lanes under another width (R242, R243). -/
def lane1 (w : Nat) (d a : Reg) (split : Val → List Nat) (f : Core → Nat → Nat × Flags) : Form :=
  ⟨2, d, [a], [], fun _ _ => true, fun c vs => match vs with
    | [x] => ⟨pack w (((split x).map (f c)).map Prod.fst), false, x.poison⟩
    | _ => Val.zero, fun c vs => match vs with
    | [x] => (((split x).map (f c)).map Prod.snd).foldl (· ||| ·) 0
    | _ => 0⟩

/-- A lane-wise form without flags. -/
def quiet2 (t : VType) (d a b : Reg) (f : Nat → Nat → Nat) : Form := lane2 t d a b fun _ x y => (f x y, 0)

/-- A form that reduces the lanes of a register to a number with flags (R243). -/
def reduce (d a : Reg) (f : Core → Val → QWord × Flags) : Form :=
  ⟨2, d, [a], [], fun _ _ => true, fun c vs => match vs with
    | [x] => ⟨(f c x).1, false, x.poison⟩
    | _ => Val.zero, fun c vs => match vs with
    | [x] => (f c x).2
    | _ => 0⟩

/-- A vector operand of three registers, D first, lane by lane (R241). -/
def lane3 (t : VType) (d a b : Reg) (f : RMode → Nat → Nat → Nat → Nat × Flags) : Form :=
  let at_ (v : Val) (l : Nat) : Nat := (lanes t v)[l]?.getD 0
  ⟨2, d, [d, a, b], [d], fun _ _ => true, fun c vs => match vs with
    | [z, x, y] =>
      ⟨pack (laneW t) (((List.range (laneN t)).map fun l => f (mode c) (at_ x l) (at_ y l) (at_ z l)).map Prod.fst), false,
        x.poison || y.poison || z.poison⟩
    | _ => Val.zero, fun c vs => match vs with
    | [z, x, y] => (((List.range (laneN t)).map fun l => f (mode c) (at_ x l) (at_ y l) (at_ z l)).map Prod.snd).foldl (· ||| ·) 0
    | _ => 0⟩

/-- A form of two whole registers. -/
def whole2 (d a b : Reg) (f : Val → Val → QWord) : Form := form2 2 d a b fun x y => ⟨f x y, false, x.poison || y.poison⟩

/-- Two's complement of a signed integer type, else the number (R122). -/
def reading (t : VType) (x : Nat) : Int := if t.isSigned && decide (2 ^ (laneW t - 1) ≤ x) then (x : Int) - (2 ^ laneW t : Nat) else x

/-- The vector instructions (R241 to R243). -/
def vecForm : Instr → Option Form
  | .vadd t d a b => some (lane2 t d a b fun m x y =>
      if t.isFloat then laneAdd (laneFmt t) m x y else ((x + y) % 2 ^ laneW t, 0))
  | .vsub t d a b => some (lane2 t d a b fun m x y =>
      if t.isFloat then laneSub (laneFmt t) m x y else ((x + (2 ^ laneW t - y)) % 2 ^ laneW t, 0))
  | .vmul t d a b => some (lane2 t d a b fun m x y =>
      if t.isFloat then laneMul (laneFmt t) m x y else (x * y % 2 ^ laneW t, 0))
  | .vfma t d a b => some (lane3 t d a b (laneFma (laneFmt t)))
  | .vmin t d a b => some (lane2 t d a b fun _ x y =>
      if t.isFloat then laneMinMax (laneFmt t) false x y else (if reading t x ≤ reading t y then x else y, 0))
  | .vmax t d a b => some (lane2 t d a b fun _ x y =>
      if t.isFloat then laneMinMax (laneFmt t) true x y else (if reading t y ≤ reading t x then x else y, 0))
  | .vabs t d a => some (lane1 (laneW t) d a (lanes t) fun _ x =>
      (if t.isFloat then laneSign (laneFmt t) false x else if 0 ≤ reading t x then x else (2 ^ laneW t - x) % 2 ^ laneW t, 0))
  | .vneg t d a => some (lane1 (laneW t) d a (lanes t) fun _ x =>
      (if t.isFloat then laneSign (laneFmt t) true x else (2 ^ laneW t - x) % 2 ^ laneW t, 0))
  | .vand t d a b => some (quiet2 t d a b (· &&& ·))
  | .vor t d a b => some (quiet2 t d a b (· ||| ·))
  | .vxor t d a b => some (quiet2 t d a b (· ^^^ ·))
  | .vshl t d a b => some (quiet2 t d a b fun x y => x * 2 ^ (y % laneW t) % 2 ^ laneW t)
  | .vshr t d a b => some (quiet2 t d a b fun x y => x / 2 ^ (y % laneW t))
  | .vsra t d a b => some (quiet2 t d a b fun x y =>
      (((if 2 ^ (laneW t - 1) ≤ x then (x : Int) - (2 ^ laneW t : Nat) else x) / (2 ^ (y % laneW t) : Nat)) % (2 ^ laneW t : Nat)).toNat)
  | .vceq t d a b => some (lane2 t d a b fun _ x y =>
      if t.isFloat then (laneBool t (laneCmp (laneFmt t) .eq x y).1, (laneCmp (laneFmt t) .eq x y).2)
      else (laneBool t (decide (reading t x = reading t y)), 0))
  | .vclt t d a b => some (lane2 t d a b fun _ x y =>
      if t.isFloat then (laneBool t (laneCmp (laneFmt t) .lt x y).1, (laneCmp (laneFmt t) .lt x y).2)
      else (laneBool t (decide (reading t x < reading t y)), 0))
  | .vcle t d a b => some (lane2 t d a b fun _ x y =>
      if t.isFloat then (laneBool t (laneCmp (laneFmt t) .le x y).1, (laneCmp (laneFmt t) .le x y).2)
      else (laneBool t (decide (reading t x ≤ reading t y)), 0))
  | .vsel t d a b => some (lane3 t d a b fun _ x y z => (if z ≠ 0 then x else y, 0))
  | .vsplat t d a => some (form1 2 d a fun x => ⟨pack (laneW t) (List.replicate (laneN t) (x.bits.toNat % 2 ^ laneW t)), false, x.poison⟩)
  | .vext t d a b => some (whole2 d a b fun x y =>
      (BitVec.ofInt 64 (reading t ((lanes t x)[(lo y).toNat % laneN t]?.getD 0))).setWidth 128)
  | .vins t d a b => some (formD 2 d a b fun z x y =>
      ⟨pack (laneW t) ((lanes t z).set ((lo y).toNat % laneN t) (x.bits.toNat % 2 ^ laneW t)), false, z.poison || x.poison || y.poison⟩)
  | .vshuf t d a b => some (whole2 d a b fun x y =>
      pack (laneW t) ((lanes t y).map fun k => (lanes t x)[k % laneN t]?.getD 0))
  | .vrsum t d a => some (reduce d a fun c x =>
      if t.isFloat then (BitVec.ofNat 128 (laneSum (laneFmt t) (mode c) (lanes t x)).1, (laneSum (laneFmt t) (mode c) (lanes t x)).2)
      else ((BitVec.ofInt 64 ((lanes t x).map (reading t)).sum).setWidth 128, 0))
  | .vrmax t d a => some (reduce d a fun _ x =>
      if t.isFloat then (BitVec.ofNat 128 (laneMaxAll (laneFmt t) (lanes t x)).1, (laneMaxAll (laneFmt t) (lanes t x)).2)
      else ((BitVec.ofInt 64 (greatest ((lanes t x).map (reading t)))).setWidth 128, 0))
  | .vimax t d a => some (reduce d a fun _ x =>
      (BitVec.ofNat 128 (indexOfGreatest ((lanes t x).map fun k =>
        if t.isFloat then (laneRank (laneFmt t) k : Int) else reading t k)), 0))
  | .vcvt t src d a => some (lane1 (laneW t) d a (fun x => lanesOf (laneW src) (128 / Max.max (laneW t) (laneW src)) x.bits)
      fun c x => laneCvt (mode c) src t x)
  | .vdec d a tblB => some (lane1 32 d a (fun x => lanesOf 8 4 x.bits) fun c x =>
      ((e8m10ToFp32 ((if tblB then c.tblB else c.tblA)[x]?.getD 0)).toNat, 0))
  | .venc d a tblB => some (lane1 8 d a (fun x => lanesOf 32 4 x.bits) fun c x =>
      ((encodeTbl (if tblB then c.tblB else c.tblA) (fp32.val x)).1.toNat, (encodeTbl (if tblB then c.tblB else c.tblA) (fp32.val x)).2))
  | .vrcp t d a => some (lane1 (laneW t) d a (lanes t) fun c x => laneFn (numRcp (laneFmt t).p) (laneFmt t) (mode c) x)
  | .vrsq t d a => some (lane1 (laneW t) d a (lanes t) fun c x => laneFn (numRsq (laneFmt t).p) (laneFmt t) (mode c) x)
  | .vexp2 t d a => some (lane1 (laneW t) d a (lanes t) fun c x => laneFn (numExp2 (laneFmt t).p) (laneFmt t) (mode c) x)
  | .vlog2 t d a => some (lane1 (laneW t) d a (lanes t) fun c x => laneFn numLog2 (laneFmt t) (mode c) x)
  | _ => none

end Sys2Proof.Claims

/-- R183 to R189: each capability form whose checks pass completes with the result its entry gives. -/
def Obligations.CapabilityForms : Prop :=
  ∀ (i : Instr) (f : Form), capForm i = some f → Completes i f

/-- R241 to R243: each vector instruction completes with its lanes' results and raises their flags. The readings of log entries
49 and 51 are the model's. -/
def Obligations.VectorForms : Prop :=
  ∀ (i : Instr) (f : Form), vecForm i = some f → Completes i f

/-- R186: the bounds of CSETBND's result are [b′, t′), within the old ones, and hold [a, a + n). -/
def Sys2Proof.Claims.NarrowedBounds : Prop :=
  ∀ (c r : QWord) (n : Nat), n < 2 ^ 64 → narrowed c n = some r →
    ∃ e : Nat,
      let a := (c.setWidth 64 : DWord).toNat
      (∀ e' < e, 0xFFFF < (a + n + (2 ^ e' - 1)) / 2 ^ e' - a / 2 ^ e') ∧
      (a + n + (2 ^ e - 1)) / 2 ^ e - a / 2 ^ e ≤ 0xFFFF ∧
      capBounds r = (((a / 2 ^ e * 2 ^ e : Nat) : Int), (((a + n + (2 ^ e - 1)) / 2 ^ e * 2 ^ e : Nat) : Int)) ∧
      (capBounds c).1 ≤ (capBounds r).1 ∧
      (capBounds r).2 ≤ (capBounds c).2 ∧
      (r.setWidth 64 : DWord) = c.setWidth 64 ∧ r.extractLsb' 104 24 = c.extractLsb' 104 24

/-- A register of a bank. -/
def Sys2Proof.Claims.held (km : Bool) (c : Core) (r : Reg) : Val := if km then c.kregs[r.toNat] else c.regs[r.toNat]

/-- A tagged value that gains nothing over the tagged capability that it was made from: its bounds lie within the old ones, its
permissions among the old ones, and in task mode its region tag is the old one. -/
def Sys2Proof.Claims.NoGain (km : Bool) (x y : Val) : Prop :=
  x.tag = true ∧ (capBounds x.bits).1 ≤ (capBounds y.bits).1 ∧ (capBounds y.bits).2 ≤ (capBounds x.bits).2 ∧
    permByte y &&& permByte x = permByte y ∧ (km = false → rtag y = rtag x)

/-- R182, R185 to R188: whatever becomes of a capability instruction, a register of either bank that is tagged afterwards stands as it
stood, or is the destination and gains nothing over the first operand that the instruction read. -/
def Sys2Proof.Claims.CapabilitiesOnlyFall : Prop :=
  ∀ (i : Instr) (f : Form) (s t : State) (km : Bool) (r : Reg),
    capForm i = some f → Plain s → exec i s = .next t → (held km t.core r).tag = true →
    held km t.core r = held km s.core r ∨
      (r = f.dst ∧ km = s.core.csr.km ∧ ∃ x vs u, readAll f.srcs s = .ok (x :: vs, u) ∧ f.ok u.core (x :: vs) = true ∧
        NoGain km x (held km t.core r))

/-- R182, R185 to R188: what a narrowed capability covers, and that no step of the capability group raises authority. -/
def Obligations.CapabilityAuthority : Prop := NarrowedBounds ∧ CapabilitiesOnlyFall

namespace Sys2Proof.Claims

open Sys2Proof.Machine

/-! ### Operands of their own kind -/

/-- A trap of a cause with a register number in EVAL. -/
def regTrap (c : Cause) (r : Reg) : Stop := .trap ⟨c.code, r.setWidth 64, none, none, none⟩
/-- A trap of a cause with an EVAL. -/
def evalTrap (c : Cause) (e : DWord) : Stop := .trap ⟨c.code, e, none, none, none⟩

/-- Where the core's next instruction would have to block on an architectural queue: it waits, or traps BIND (R206). -/
def queueBlock (s : State) (r : Reg) : Stop :=
  if s.core.stream = .control ∧ s.core.rep = none then regTrap .bind r else .stall true

/-- Every buffered store goes to memory that carries no line and belongs to the core's own die. -/
def LocalStores (s : State) : Prop := ∀ e ∈ s.core.stores, isMpa e.loc = false ∧ localDie e.loc = some (dieOfCore s.focus)

/-- The loads of the core's other stream that have performed early: an acquire leaves them (R90). -/
def besides (c : Core) : List Early := c.early.filter fun e => decide (e.stream ≠ c.stream)

/-- The end of a queue that a stream may use (R206): the control stream pushes onto q0 and q1 and pops q2 and q3, the body
uses the other ends. -/
def endAllowed (st : Stream) (q : BitVec 2) (pop : Bool) : Bool :=
  match st with
  | .control => if q.toNat < 2 then !pop else pop
  | .body => if q.toNat < 2 then pop else !pop

end Sys2Proof.Claims

/-- R11, R203: a register that is not bound reads as the running bank holds it and is written there; g0 reads as zero and a
write to it is discarded; no other register, not the other bank and nothing else changes. -/
def Sys2Proof.Claims.UnboundRegisters : Prop :=
  ∀ (s : State) (r : Reg) (v : Val),
    Free s r false → Free s r true →
    readReg r s = .ok (s.core.reg r, s) ∧
    s.core.reg 0 = ⟨0, false, false⟩ ∧
    ∃ t, writeReg r v s = .ok ((), t) ∧
      t.core.reg r = (if r = 0 then ⟨0, false, false⟩ else v) ∧
      (∀ q, q ≠ r → t.core.reg q = s.core.reg q) ∧
      (if s.core.csr.km then t.core.regs = s.core.regs else t.core.kregs = s.core.kregs) ∧
      t = { s with core := { s.core with regs := t.core.regs, kregs := t.core.kregs } }

/-- R206, R74: a register bound to an architectural queue pushes at the tail and pops from the head, which acquires: no load of
that stream that follows has performed before it; the value keeps its poison and loses its tag; the wrong end traps BIND; an empty queue or one of four entries blocks, or traps BIND without a partner. -/
def Sys2Proof.Claims.QueueOperands : Prop :=
  ∀ (s : State) (r : Reg) (q : BitVec 2) (pop : Bool) (v : Val),
    alookup r.toNat s.core.binds = some (.queue q pop) →
    let l := s.core.aqs[q.toNat]?.getD []
    let mine := endAllowed s.core.stream q pop
    let after (l : List Val) (early : List Early) : State :=
      { s with core := { s.core with aqs := s.core.aqs.setIfInBounds q.toNat l, early := early } }
    readReg r s =
      (if pop && mine then
        match l with
        | [] => .error (queueBlock s r)
        | x :: xs => .ok (x, after xs (besides s.core))
      else .error (regTrap .bind r)) ∧
    writeReg r v s =
      (if !pop && mine then
        if l.length < 4 then .ok ((), after (l ++ [⟨v.bits, false, v.poison⟩]) s.core.early) else .error (queueBlock s r)
      else .error (regTrap .bind r))

/-- R204, R205: a register bound to a generator loads or stores element x at the address of R205 and moves on to element
x + 1; the wrong direction and an access past COUNT trap BIND. -/
def Sys2Proof.Claims.GeneratorOperands : Prop :=
  ∀ (s : State) (r : Reg) (cap v : Val) (count : BitVec 32)
    (stride : BitVec 24) (write desc : Bool) (esz : BitVec 3) (x : Nat),
    alookup r.toNat s.core.binds = some (.gen cap count stride write desc esz x) →
    let step : DWord := BitVec.ofNat 64 (x * stride.toNat)
    let ea : DWord := if desc then cap.bits.setWidth 64 - step else cap.bits.setWidth 64 + step
    let on (t : State) : State :=
      { t with core := { t.core with
          binds := aset r.toNat (.gen cap count stride write desc esz (x + 1)) t.core.binds } }
    ((write = true ∨ x = count.toNat) →
      readReg r s = .error (regTrap .bind r)) ∧
    ((write = false ∨ x = count.toNat) →
      writeReg r v s = .error (regTrap .bind r)) ∧
    (∀ w t, write = false → x ≠ count.toNat → loadVal cap r ea esz true s = .ok (w, t) →
      readReg r s = .ok (w, on t)) ∧
    (∀ t, write = true → x ≠ count.toNat → storeVal cap r ea esz v r true s = .ok ((), t) →
      writeReg r v s = .ok ((), on t))

/-- R207, R69, R74: an out-link holds two entries and is pushed by its own core, whose store buffer is empty from then on; the
successor's in-link pops it, which acquires, and with the forward flag passes the word on. -/
def Sys2Proof.Claims.LinkOperands : Prop :=
  ∀ (s : State) (r : Reg) (out fwd : Bool) (v : Val),
    alookup r.toNat s.core.binds = some (.link out fwd) →
    let p := s.focus / 8 * 8 + (s.focus % 8 + 7) % 8
    (out = true → readReg r s = .error (regTrap .bind r)) ∧
    (out = false → writeReg r v s = .error (regTrap .bind r)) ∧
    (out = true → s.core.link.length < 2 →
      ∃ t, writeReg r v s = .ok ((), t) ∧
        t.core = { s.core with stores := [], link := s.core.link ++ [⟨v.bits, false, v.poison⟩] } ∧
        (LocalStores s → t.mem = s.core.stores.foldl Memory.perform s.mem)) ∧
    (out = true → 2 ≤ s.core.link.length → writeReg r v s = .error (.stall false)) ∧
    (out = false → (s.getCore p).link = [] → readReg r s = .error (.stall false)) ∧
    (∀ x l, out = false → fwd = false → (s.getCore p).link = x :: l →
      readReg r s = .ok (x, let t := s.setCore p { s.getCore p with link := l }; { t with core := { t.core with early := besides s.core } })) ∧
    (∀ x l, out = false → fwd = true → (s.getCore p).link = x :: l → s.core.link.length < 2 →
      ∃ t, readReg r s = .ok (x, t) ∧ (t.getCore p).link = l ∧ t.core.stores = [] ∧ t.core.early = besides s.core ∧
        t.core.link = s.core.link ++ [⟨x.bits, false, x.poison⟩])

/-- R116, R262, R144: at the end of an instruction of the control stream the pc of its bank moves on by its parcels, INSTRET
rises by one and the meter by PRICE0.INSN. -/
def Obligations.InstructionEnd : Prop :=
  ∀ (s : State) (len : Nat), Plain s →
    let c := s.core
    let x := c.csr
    let price : DWord := BitVec.ofNat 64 ((x.price0.extractLsb' 0 16).toNat)
    s.complete len .seq =
      { s with core := { c with
          pc := if x.km then c.pc else c.pc + BitVec.ofNat 12 len, kpc := if x.km then c.kpc + BitVec.ofNat 12 len else c.kpc,
          stalled := false, turn := .body,
          csr := { x with instret := x.instret + 1, meter := if x.km then x.meter else x.meter + price,
                          kmeter := if x.km then x.kmeter + price else x.kmeter } } }

/-- The frame of the integer, capability and vector forms (R58, R172, R241): with no bound operand and no repetition, such an
instruction that completes changes its destination register, the pc, FFLAGS, INSTRET and the meter of its bank, and nothing
else: no other register of either bank, no special register, no byte of memory, no other core, no load that has
performed early. -/
def Obligations.RegisterFormFrame : Prop :=
  ∀ (i : Instr) (f : Form) (s t : State),
    (intForm i = some f ∨ immForm i = some f ∨ capForm i = some f ∨
      vecForm i = some f) →
    Plain s → (∀ r ∈ f.dst :: f.srcs, s.core.bound r = false) →
    f.ok s.core (f.srcs.map s.core.reg) = true → exec i s = .next t →
    t.core.reg f.dst = (if f.dst = 0 then ⟨0, false, false⟩ else f.val s.core (f.srcs.map s.core.reg)) ∧
    (∀ r, r ≠ f.dst → t.core.reg r = s.core.reg r) ∧
    (∀ a, t.mem.byte a = s.mem.byte a) ∧
    t.core.csr.fflags = s.core.csr.fflags ||| f.flags s.core (f.srcs.map s.core.reg) ∧
    t = { s with core := { s.core with
            regs := if s.core.csr.km then s.core.regs else t.core.regs,
            kregs := if s.core.csr.km then t.core.kregs else s.core.kregs,
            pc := if s.core.csr.km then s.core.pc else s.core.pc + BitVec.ofNat 12 f.len,
            kpc := if s.core.csr.km then s.core.kpc + BitVec.ofNat 12 f.len else s.core.kpc, turn := .body, stalled := false,
            csr := { s.core.csr with
              fflags := t.core.csr.fflags, instret := s.core.csr.instret + 1,
              meter := if s.core.csr.km then s.core.csr.meter else t.core.csr.meter,
              kmeter := if s.core.csr.km then t.core.csr.kmeter else s.core.csr.kmeter } } }

/-- R153, R203 to R207: what reading and writing a register does, unbound or bound to a queue, a generator or a link. The
readings of log entries 34 and 36 are the model's. -/
def Obligations.OperandForms : Prop := UnboundRegisters ∧ QueueOperands ∧ GeneratorOperands ∧ LinkOperands

namespace Sys2Proof.Claims

open Sys2Proof.Machine

/-! ### Fetching, traps and privilege -/

/-- The pc of the bank that runs (R11). -/
def pcOf (s : State) : BitVec 12 := if s.core.csr.km then s.core.kpc else s.core.pc

/-- Parcel `k` of the core's IMEM (R144). -/
def imemParcel (s : State) (k : Nat) : Nat := (s.mem.byte (imemBase s.focus + 2 * k)).toNat + 256 * (s.mem.byte (imemBase s.focus + 2 * k + 1)).toNat

/-- What stands at the pc in IMEM, where what runs is no CODE message (R144): the instruction's bits, or none for a 32-bit
instruction that starts at parcel 0xFFF. -/
def imemInsn (s : State) : Option Nat :=
  let p := (pcOf s).toNat
  if imemParcel s p % 2 = 0 then some (imemParcel s p)
  else if p = 0xFFF then none
  else some (imemParcel s p + 65536 * imemParcel s (p + 1))

/-- Whether the running task executes a CODE message (R37). -/
def inMessage (s : State) : Prop := s.core.csr.km = false ∧ ∃ k, s.core.task = some k ∧ k.code.isSome

/-- A core that issues its next instruction: nothing is named on the agenda, the core in focus is supplied, is in service and has not
just waited, the kernel or a task runs on it, a task within its budget. -/
def Ready (s : State) : Prop :=
  s.agenda = [] ∧ s.waiting = false ∧ s.core.out = false ∧ s.dark = false ∧
    s.coreUp s.focus = true ∧ (s.focus < 1048576 ∨ s.flints[s.focus - 1048576]? = some .running) ∧
    (s.core.csr.km = true ∨ s.core.task.isSome) ∧
    (∀ k, s.core.task = some k → s.core.sc.isSome ∨ s.core.unpick.isSome ∨ s.clock - k.started < s.core.csr.budget.toNat)

/-- A core that issues the next instruction of its control stream, no repetition being active. -/
def Issues (s : State) : Prop := Ready s ∧ s.core.rep = none

/-- The state with an instruction fetched for the control stream. -/
def fetched (s : State) (bits : Nat) : State :=
  { s with core := { s.core with insn := BitVec.ofNat 32 bits, stream := .control, loadAt := 0 } }

/-- What the registers of an exception hold once a trap of a task has been taken at a pc (R59). -/
def trappedTask (s t : State) (cause : Nat) (eval : DWord) (pc : BitVec 12) : Prop :=
  t.core.csr.km = true ∧ t.core.csr.ecause = BitVec.ofNat 64 cause ∧ t.core.csr.eval = eval ∧
    t.core.csr.epc = (match s.core.task with
      | some k => if k.code.isSome then pc.setWidth 64 ||| (1 <<< 63) else pc.setWidth 64
      | none => pc.setWidth 64) ∧
    t.core.csr.emsg = (match s.core.task with
      | some k => k.emsg
      | none => 0) ∧
    t.core.csr.echn = s.core.chn ∧ t.core.kpc = s.core.csr.tvec ∧ t.core.csr.tvec = s.core.csr.tvec ∧
    t.core.csr.nest = s.core.csr.nest

/-- What a trap of a task lets go of and what it keeps (R58): the sends that are not released, the bindings, the repetition and
the queues are gone; the task bank and its pc, the stores and the released sends stay; nothing is retired or charged; the kernel runs
under handle 0 (R101). -/
def trapKeeps (s t : State) : Prop :=
  t.core.regs = s.core.regs ∧ t.core.kregs = s.core.kregs ∧ t.core.pc = s.core.pc ∧ t.core.chn.extractLsb' 0 16 = (0 : BitVec 16) ∧
    t.core.stores = s.core.stores ∧ t.core.sendBuf = s.core.sendBuf.filter (fun e => e.released) ∧ t.core.binds = [] ∧
    t.core.rep = none ∧ t.core.aqs = Vector.replicate 4 [] ∧ t.core.task = none ∧ t.core.mxq = s.core.mxq ∧ t.jobs = s.jobs ∧
    t.core.csr.instret = s.core.csr.instret ∧ t.core.csr.meter = s.core.csr.meter

/-- The privileged instructions that R260, R251 and R230 mark (K). -/
def kernelOnly : Instr → Bool
  | .eret => true
  | .halt => true
  | .wfi => true
  | .clinv => true
  | .xlinv _ => true
  | .mxwt _ => true
  | .chnset _ => true
  | _ => false

end Sys2Proof.Claims

/-- R37, R144, R162: a step of a core that issues runs the instruction that its bits decode to; around it the step only notes
the fetched bits, from which loads the registers' values are formed (R88), and lets the clock go on. The readings of log entries 4, 10
and 40 are the model's. -/
def Obligations.StepRunsDecoded : Prop :=
  ∀ (s : State) (bits : Nat) (i : Instr),
    Issues s → ¬ inMessage s → imemInsn s = some bits →
    decodeWord bits = .ok i →
    step s =
      (match exec i (fetched s bits) with
      | .next t => .next ((t.tracked i (fetched s bits)).ticked s.clock)
      | r => r) ∧
    ∀ t u : State, t.tracked i u = { t with core := { t.core with deps := (t.tracked i u).core.deps } }

/-- R162, R144: bits that decode to no instruction trap ILLEGAL with EVAL the bits, and a 32-bit instruction at parcel 0xFFF
with EVAL the pc. -/
def Sys2Proof.Claims.UndecodableTraps : Prop :=
  ∀ (s : State), Issues s → ¬ inMessage s → s.core.csr.km = false →
    (∀ bits e, imemInsn s = some bits → decodeWord bits = .error e →
      ∃ t, step s = .next t ∧
        trappedTask s t 0 (BitVec.ofNat 64 bits) s.core.pc ∧ trapKeeps s t) ∧
    (imemInsn s = none →
      ∃ t, step s = .next t ∧ trappedTask s t 0 0xFFF s.core.pc ∧
        trapKeeps s t)

/-- R163, R164: the reserved major opcodes decode to nothing, and the hint region to the hint. -/
def Sys2Proof.Claims.ReservedMajors : Prop :=
  ∀ w : Nat, w < 2 ^ 32 → w % 2 = 1 →
    (43 ≤ w / 2 % 64 → w / 2 % 64 ≤ 47 → ∃ e, decodeWord w = .error e) ∧
    (56 ≤ w / 2 % 64 → ∃ e, decodeWord w = .error e) ∧
    (48 ≤ w / 2 % 64 → w / 2 % 64 ≤ 55 → decodeWord w = .ok .hint)

/-- R58, R59: the one operation that takes a trap of a task enters the kernel at TVEC with ECAUSE, EPC, EVAL, EMSG and ECHN, puts
the start back at the head of its queue and keeps what R58 keeps. What becomes of a PEND of 65,535 is the model's choice (log entry
109). -/
def Sys2Proof.Claims.TrapOfTask : Prop :=
  ∀ (s : State) (i : TrapInfo) (pc : BitVec 12), s.core.csr.km = false →
    let t := trapEntry i pc s
    trappedTask s t i.cause i.eval pc ∧ trapKeeps s t ∧
    (∀ k, s.core.task = some k → t.core.inbox = s.core.inbox ∧
      ∃ x r, t.core.queues[s.core.prioOf k.trigger]? = some (x :: r) ∧ x.what = k.trigger) ∧
    (∀ k j, s.core.task = some k → k.trigger = .counter j → j < 64 →
      let e := s.core.counter j
      t.core.counter j = if e.pend = 0xFFFF then { e with ovr := true } else { e with pend := e.pend + 1 })

/-- R62: a trap of the kernel bank sets STATUS.NEST and enters at TVEC again; with NEST set it takes the core out of service. -/
def Sys2Proof.Claims.TrapOfKernel : Prop :=
  ∀ (s : State) (i : TrapInfo) (pc : BitVec 12), s.core.csr.km = true →
    let t := trapEntry i pc s
    (s.core.csr.nest = false →
      t.core.csr.nest = true ∧ t.core.csr.km = true ∧ t.core.kpc = s.core.csr.tvec ∧ t.core.out = s.core.out ∧
        t.core.csr.ecause = BitVec.ofNat 64 i.cause ∧ t.core.csr.eval = i.eval ∧ t.core.csr.epc = pc.setWidth 64 ∧
        t.core.csr.echn = s.core.chn ∧ t.core.regs = s.core.regs ∧ t.core.kregs = s.core.kregs) ∧
    (s.core.csr.nest = true → t.core.out = true)

/-- R260, R58, R59: TRAP, SYSC, BKPT and C.BKPT enter the kernel with their cause and operand, not retired and not charged. -/
def Sys2Proof.Claims.SoftwareTraps : Prop :=
  ∀ (s : State) (n : BitVec 10), s.core.csr.km = false → Plain s →
    (∃ t, exec (.trap n) s = .next t ∧
      trappedTask s t 22 (n.setWidth 64) s.core.pc ∧ trapKeeps s t) ∧
    (∃ t, exec (.sysc n) s = .next t ∧
      trappedTask s t 20 (n.setWidth 64) s.core.pc ∧ trapKeeps s t) ∧
    (∃ t, exec .bkpt s = .next t ∧
      trappedTask s t 21 0 s.core.pc ∧ trapKeeps s t) ∧
    (∃ t, exec .cBkpt s = .next t ∧
      trappedTask s t 21 0 s.core.pc ∧ trapKeeps s t)

/-- R260, R251, R230, R37: in task mode every kernel-only form traps PRIV, and in a CODE message ILLEGAL with the
instruction's bits. -/
def Sys2Proof.Claims.KernelOnlyForms : Prop :=
  ∀ (i : Instr) (s : State), kernelOnly i = true → s.core.csr.km = false →
    Plain s →
    ∃ t, exec i s = .next t ∧ trapKeeps s t ∧
      ((∃ k, s.core.task = some k ∧ k.code.isSome) → trappedTask s t 0 (s.core.insn.setWidth 64) s.core.pc) ∧
      (¬ (∃ k, s.core.task = some k ∧ k.code.isSome) → trappedTask s t 23 0 s.core.pc)

/-- R144, R162 to R164: what does not decode traps ILLEGAL, with the instruction's bits in EVAL. The reading of log entry 14 is
the model's. -/
def Obligations.IllegalEncodings : Prop := UndecodableTraps ∧ ReservedMajors

/-- R58, R59, R62: what taking a trap saves, keeps and changes, in a task and in the kernel. That the start goes back to the
queue of its PRIO is log entry 31, and that CHN after the entry is the word of handle 0 is log entry 110; these, and the readings of log
entries 11, 12, 15 and 109, are the model's. -/
def Obligations.TrapEntry : Prop := TrapOfTask ∧ TrapOfKernel

/-- R37, R58, R59, R230, R251, R260: the forms whose effect is a trap, and the privileged forms in a task. The readings of log
entries 11 and 13 are the model's. -/
def Obligations.SystemCalls : Prop := SoftwareTraps ∧ KernelOnlyForms

namespace Sys2Proof.Claims

open Sys2Proof.Machine

/-! ### Control flow, special registers, kernel forms -/

/-- Where a target given as an unbounded integer lies: modulo 4,096 in IMEM; in a CODE message only within its parcels (R37,
R144). -/
def targetOf (s : State) (t : Int) : Option (BitVec 12) :=
  match (if s.core.csr.km then none else s.core.task.bind fun k => k.code) with
  | none => some (BitVec.ofInt 12 t)
  | some c => if 0 ≤ t ∧ t < 4 * c.2 then some (BitVec.ofInt 12 t) else none

/-- A conditional branch (R179, R190): its length, its registers, its offset, and when it is taken. -/
structure Branch where
  len  : Nat
  a    : Reg
  b    : Reg
  off  : Int
  cond : DWord → DWord → Bool

def branchForm : Instr → Option Branch
  | .beq a b o => some ⟨2, a, b, o.toInt, fun x y => decide (x = y)⟩
  | .bne a b o => some ⟨2, a, b, o.toInt, fun x y => decide (x ≠ y)⟩
  | .blt a b o => some ⟨2, a, b, o.toInt, fun x y => decide (x.toInt < y.toInt)⟩
  | .bge a b o => some ⟨2, a, b, o.toInt, fun x y => decide (y.toInt ≤ x.toInt)⟩
  | .bltu a b o => some ⟨2, a, b, o.toInt, fun x y => decide (x.toNat < y.toNat)⟩
  | .bgeu a b o => some ⟨2, a, b, o.toInt, fun x y => decide (y.toNat ≤ x.toNat)⟩
  | .cBeqz x o => some ⟨1, x, 0, o.toInt, fun v _ => decide (v = 0)⟩
  | .cBnez x o => some ⟨1, x, 0, o.toInt, fun v _ => decide (v ≠ 0)⟩
  | _ => none

/-- Clean data of 64 bits. -/
def clean (x : DWord) : Val := ⟨x.setWidth 128, false, false⟩

/-- The link value of JAL and JALR (R180). -/
def linkOf (s : State) : Val := clean ((pcOf s + 2).setWidth 64)

/-- An instruction that traps with a cause and an EVAL, having had no effect. -/
def TrapsWith (i : Instr) (s : State) (c : Cause) (e : DWord) : Prop :=
  exec i s = .next (takeTrap ⟨c.code, e, none, none, none⟩ s)

/-- The CSRs that may be read (R262), in the mode that runs. -/
def csrReadable (n : Nat) (km : Bool) : Bool := decide (n ≤ 11) || (km && (16 ≤ n && n ≤ 22 || 24 ≤ n && n ≤ 27))

/-- The CSRs that may be written (R262), in the mode that runs. -/
def csrWritable (n : Nat) (km : Bool) : Bool :=
  n == 0 || n == 1 || (km && (n == 2 || n == 3 || n == 9 || n == 11 || 16 ≤ n && n ≤ 22 || 24 ≤ n && n ≤ 27))

/-- What a CSR reads as once a value has been written to it (R55, R117, R125, R126, R262, R263), where it is one that may be
written: KM stays set in kernel mode. -/
def csrFit (n : Nat) (v : DWord) : DWord :=
  match n with
  | 0 => v &&& 0x3F
  | 1 => v &&& 3
  | 3 => BitVec.ofNat 64 (Min.min v.toNat 16777216)
  | 9 => v &&& 1
  | 11 => BitVec.ofNat 64 (Min.min (v.toNat % 2 ^ 25) 16777216)
  | 16 => v &&& 2 ||| 1
  | 17 => v &&& 0xFFF
  | 25 => v &&& 0xFFFFFFFF
  | 26 => 0
  | 27 => 0
  | _ => v

/-- A start whose task is on its way to a neighbour (R57). -/
def leaving (c : Core) (t : Trigger) : Prop := ∃ i : Nat, t = .slot i ∧ ∃ e ∈ c.ni, e.back = some i

/-- Where the entry of a handle lies in a partition's chain table (R101). -/
def entryAt (s : State) (p h : Nat) : Nat := (s.part p).ctbase.toNat + 128 * h

/-- An instruction waits for the scrub of a frame, whose entry moves to the head of its queue (R332). -/
def AwaitsScrub (i : Instr) (s : State) (f : Nat) : Prop := exec i s = .next ((s.demanded f).stalledOn false)

/-- Every global line has at most one holder (R17). -/
def SingleHolder (s : State) : Prop := (s.lines.map fun l => l.line).Nodup

/-- The three forms that write a CSR (R260): the number, the register, what is written from the CSR and the register. -/
def csrForm : Instr → Option (BitVec 10 × Reg × (DWord → DWord → DWord))
  | .csrw n d => some (n, d, fun _ v => v)
  | .csrset n d => some (n, d, fun x v => x ||| v)
  | .csrclr n d => some (n, d, fun x v => x &&& ~~~v)
  | _ => none

end Sys2Proof.Claims

/-- R179, R190, R37: a conditional branch of two clean operands goes to pc + offset or on; a poisoned operand traps POISON, A
before B; a target outside a CODE message traps ILLEGAL before anything else. The reading of log entry 14 is the model's. -/
def Obligations.BranchForms : Prop :=
  ∀ (i : Instr) (f : Branch) (s t u : State) (x y : Val),
    branchForm i = some f →
    (targetOf s ((pcOf s).toNat + f.off) = none →
      TrapsWith i s .illegal (s.core.insn.setWidth 64)) ∧
    (∀ p, targetOf s ((pcOf s).toNat + f.off) = some p →
      readReg f.a s = .ok (x, t) → readReg f.b t = .ok (y, u) →
      (x.poison = false → y.poison = false → exec i s =
        .next (u.complete f.len (if f.cond (x.bits.setWidth 64) (y.bits.setWidth 64) then .jump p else .seq))) ∧
      (x.poison = true → TrapsWith i s .poison (f.a.setWidth 64)) ∧
      (x.poison = false → y.poison = true → TrapsWith i s .poison (f.b.setWidth 64)))

/-- R180, R181, R173, R190: JAL, JALR, LOOP and C.J. -/
def Sys2Proof.Claims.JumpForms : Prop :=
  ∀ (s t u : State) (d a : Reg) (x : Val) (p : BitVec 12),
    let pc : Int := (pcOf s).toNat
    (∀ o : BitVec 20, targetOf s (pc + o.toInt) = some p →
      writeReg d (linkOf s) s = .ok ((), u) →
      exec (.jal d o) s = .next (u.complete 2 (.jump p))) ∧
    (∀ m : BitVec 15, readReg a s = .ok (x, t) → x.poison = false →
      targetOf t ((lo x).toNat + m.toInt) = some p →
      writeReg d (linkOf s) t = .ok ((), u) →
      exec (.jalr d a m) s = .next (u.complete 2 (.jump p))) ∧
    (∀ m : BitVec 15, readReg a s = .ok (x, t) → x.poison = true →
      TrapsWith (.jalr d a m) s .poison (a.setWidth 64)) ∧
    (∀ o : BitVec 15, targetOf s (pc + o.toInt) = some p → s.core.bound a = true →
      TrapsWith (.loop a o) s .bind (a.setWidth 64)) ∧
    (∀ o : BitVec 15, targetOf s (pc + o.toInt) = some p → s.core.bound a = false →
      readReg a s = .ok (x, t) →
      (x.poison = true → TrapsWith (.loop a o) s .poison (a.setWidth 64)) ∧
      (x.poison = false → lo x = 0 →
        exec (.loop a o) s = .next (t.complete 2 (.jump p))) ∧
      (x.poison = false → lo x ≠ 0 →
        writeReg a (clean (lo x - 1)) t = .ok ((), u) →
        exec (.loop a o) s = .next (u.complete 2 .seq))) ∧
    (∀ o : BitVec 11, targetOf s (pc + o.toInt) = some p →
      exec (.cJ o) s = .next (s.complete 1 (.jump p)))

/-- R260, R262: CSRR reads a CSR that the mode may read, and CSRW, CSRSET and CSRCLR write one that it may write; another
number, and a write of a CSR that none may write, traps ILLEGAL with the instruction's bits; what the kernel alone may do
traps PRIV in task mode; a poisoned register traps POISON. -/
def Sys2Proof.Claims.SpecialRegisterForms : Prop :=
  ∀ (s t u : State) (d : Reg) (n : BitVec 10) (v : Val),
    ¬ inMessage s →
    (csrReadable n.toNat s.core.csr.km = true →
      writeReg d (clean (s.csr n.toNat)) s = .ok ((), u) →
      exec (.csrr d n) s = .next (u.complete 2 .seq)) ∧
    (csrReadable n.toNat true = false →
      TrapsWith (.csrr d n) s .illegal (s.core.insn.setWidth 64)) ∧
    (csrReadable n.toNat true = true → csrReadable n.toNat s.core.csr.km = false →
      TrapsWith (.csrr d n) s .priv 0) ∧
    (∀ i f, csrForm i = some (n, d, f) →
      (csrWritable n.toNat s.core.csr.km = true → readReg d s = .ok (v, t) →
        v.poison = false →
        exec i s =
          .next ({ t with core := t.core.putCsr n.toNat (f (t.csr n.toNat) (lo v)) }.complete 2 .seq)) ∧
      (csrWritable n.toNat s.core.csr.km = true → readReg d s = .ok (v, t) →
        v.poison = true → TrapsWith i s .poison (d.setWidth 64)) ∧
      (csrWritable n.toNat true = false →
        TrapsWith i s .illegal (s.core.insn.setWidth 64)) ∧
      (csrWritable n.toNat true = true → csrWritable n.toNat s.core.csr.km = false →
        TrapsWith i s .priv 0))

/-- R262, R263, R55, R117, R125, R126: a CSR that has been written reads as its fields hold the value; no other CSR changes, and
nothing else of the module does but the local-time mode's ON with its blocking (R231, R286). -/
def Sys2Proof.Claims.SpecialRegisterReadBack : Prop :=
  ∀ (s : State) (n m : Nat) (v : DWord),
    csrWritable n s.core.csr.km = true →
    let t : State := { s with core := s.core.putCsr n v }
    t.csr n = csrFit n v ∧ (m ≠ n → t.csr m = s.csr m) ∧
    t = { s with core := { s.core with csr := t.core.csr, lt := { s.core.lt with on := t.core.lt.on, blocked := t.core.lt.blocked } } } ∧
    t.core.csr.km = s.core.csr.km

/-- R262, R263, R13: the CSRs whose contents are the core's own: CYCLE, INSTRET, CORE, PART and STATUS. -/
def Sys2Proof.Claims.SpecialRegisterContents : Prop :=
  ∀ (s : State),
    s.csr 4 = BitVec.ofNat 64 (s.clock - s.core.resetAt) ∧ s.csr 5 = s.core.csr.instret ∧
    (s.csr 6).extractLsb' 0 20 = BitVec.ofNat 20 s.focus ∧ (s.csr 6).extractLsb' 20 12 = s.modnum ∧
    (∀ p, s.partOf s.focus = some p → p < 256 → (s.csr 7).extractLsb' 0 8 = BitVec.ofNat 8 p) ∧
    (s.csr 16).getLsbD 0 = s.core.csr.km ∧ (s.csr 16).getLsbD 1 = s.core.csr.nest ∧
    (∀ k, s.core.task = some k → s.csr 8 = k.msrc)

/-- R164, R148: a hint, C.NOP and C.HINT only go on. FENCE.ACQ goes on (R202): a load has performed by the time it retires, so only a
load of its stream that has performed early, ahead of its instruction, is held back by it, at MODULE and SYSTEM scope: its value is read
again. That is the model's reading (log entries 40 and 41). -/
def Sys2Proof.Claims.NoOperations : Prop :=
  ∀ (s : State) (sc : Scope),
    exec .hint s = .next (s.complete 2 .seq) ∧ exec .cNop s = .next (s.complete 1 .seq) ∧
    exec .cHint s = .next (s.complete 1 .seq) ∧
    (sc = .core ∨ sc = .panel ∨ sc = .die → exec (.fenceAcq sc) s = .next (s.complete 2 .seq)) ∧
    (sc = .mod ∨ sc = .sys →
      exec (.fenceAcq sc) s = .next ({ s with core := { s.core with early := besides s.core } }.complete 2 .seq))

/-- R260, R62, R53: in kernel mode HALT takes the core out of service; WFI goes on once there is work and waits where there is
none, a task on its way to a neighbour being none (R57; log entry 30); ERET clears STATUS.NEST and gives the core back to its scheduler. -/
def Sys2Proof.Claims.KernelEnds : Prop :=
  ∀ (s : State), s.core.csr.km = true → Plain s →
    (∃ u : State, exec .halt s = .next u ∧ u.core.out = true ∧ u.core.csr.instret = s.core.csr.instret + 1 ∧ u.mem = s.mem) ∧
    (s.core.kwork ≠ [] → exec .wfi s = .next (s.complete 2 .seq)) ∧
    (∀ (q : Fin 4) (x : QItem), x ∈ s.core.queues[q] → ¬ leaving s.core x.what → exec .wfi s = .next (s.complete 2 .seq)) ∧
    (s.core.kwork = [] → (∀ (q : Fin 4) (x : QItem), x ∈ s.core.queues[q] → leaving s.core x.what) →
      exec .wfi s = .next { s with waiting := true, core := { s.core with stalled := true, turn := .body } }) ∧
    (s.core.svc = none → ∃ u : State, exec .eret s = .next u ∧ u.core.csr.nest = false ∧ u.core.csr.km = false ∧
      u.core.task = none ∧ u.core.csr.instret = s.core.csr.instret + 1 ∧ u.core.regs = s.core.regs ∧
      u.core.kregs = s.core.kregs ∧ u.core.binds = [])

/-- R260, R19, R324: in kernel mode CLINV releases every line that the core holds and no other; XLINV removes the partition's
entries for a page, or all of them, from the panel's translation cache and no other entry. -/
def Sys2Proof.Claims.KernelCaches : Prop :=
  ∀ (s t : State) (a : Reg) (v : Val), s.core.csr.km = true → Plain s →
    (SingleHolder s → ∃ u : State, exec .clinv s = .next (u.complete 2 .seq) ∧ u.lines = s.lines.filter (fun l => l.holder != s.focus) ∧
      u.core = s.core) ∧
    (readReg a s = .ok (v, t) → v.poison = false → ∀ p, t.partOf t.focus = some p →
      exec (.xlinv a) s = .next ({ t with ptcs := t.ptcs.map fun (c : Nat × List PtcEntry) => (c.1, c.2.filter fun e =>
          !(c.1 == t.focus / 64 && e.part == p &&
            ((lo v).getLsbD 63 || e.page == ((lo v).extractLsb' 16 32).toNat))) }.complete 2 .seq)) ∧
    (readReg a s = .ok (v, t) → v.poison = true → TrapsWith (.xlinv a) s .poison (a.setWidth 64))

/-- R251, R230, R103: in kernel mode MXWT sets the weight of a core of the seam, 1 where 0 is named, and CHNSET sets CHN to a
usable handle with DEPTH and FLOOR its number of links; an unusable handle traps CHAINDEAD; where the handle's entry lies in a frame
that is scrub-pending, CHNSET waits for the scrub (R332; log entry 85). -/
def Sys2Proof.Claims.KernelSettings : Prop :=
  ∀ (s t : State) (a : Reg) (v : Val), s.core.csr.km = true → Plain s → readReg a s = .ok (v, t) →
    (let n := t.focus / 8 * 8 + ((lo v).extractLsb' 0 3).toNat
     let w : BitVec 4 := (lo v).extractLsb' 8 4
     exec (.mxwt a) s = .next ((t.setCore n { t.getCore n with weight := if w = 0 then 1 else w }).complete 2 .seq)) ∧
    (v.poison = false → ∀ p, t.partOf t.focus = some p →
      (∀ f, t.heldAt p (entryAt t p ((lo v).extractLsb' 0 16).toNat) = some f → AwaitsScrub (.chnset a) s f) ∧
      (t.heldAt p (entryAt t p ((lo v).extractLsb' 0 16).toNat) = none → (∀ links, t.chain p ((lo v).extractLsb' 0 16).toNat = some links →
        exec (.chnset a) s = .next ({ t with core := { t.core with
          chn := BitVec.ofNat 64 (links.length * 2 ^ 20 + links.length * 2 ^ 16 + ((lo v).extractLsb' 0 16).toNat) } }.complete 2 .seq)) ∧
      (t.chain p ((lo v).extractLsb' 0 16).toNat = none →
        TrapsWith (.chnset a) s .chaindead ((lo v).setWidth 16 |>.setWidth 64)))) ∧
    (v.poison = true → TrapsWith (.chnset a) s .poison (a.setWidth 64))

/-- R180, R181, R173, R190, R164, R148, R202: jumps, and the forms that only move on. The readings of log entries 14, 40 and 41 are
the model's. -/
def Obligations.JumpAndHintForms : Prop := JumpForms ∧ NoOperations

/-- R260, R262, R263: the special registers, read, written, set and cleared. The readings of log entries 21 and 22 are the
model's. -/
def Obligations.SpecialRegisters : Prop := SpecialRegisterForms ∧ SpecialRegisterReadBack ∧ SpecialRegisterContents

/-- R260, R62, R53, R19, R324, R251, R230, R103: the forms that the kernel runs. The readings of log entries 18, 19, 21, 30
and 85 are the model's. -/
def Obligations.KernelForms : Prop := KernelEnds ∧ KernelCaches ∧ KernelSettings

namespace Sys2Proof.Claims

open Sys2Proof.Machine

/-! ### Windows, bindings, repetitions, counters, fences -/

/-- The fields of a window descriptor that are held (R24): BASE, FORMAT, ROWS, COLS, STRIDE, SBASE, SSTRIDE. -/
def windowFields : QWord := 0x00000000FFFF7FFF0FFFFFFFFFFF7FFF

/-- The state with a window written. -/
def withWindow (s : State) (w : BitVec 4) (v : QWord) : State :=
  { s with core := { s.core with windows := s.core.windows.setIfInBounds w.toNat v } }

/-- A register that SBIND, QBIND or LBIND may bind now (R203). -/
def Bindable (s : State) (d : Reg) : Prop := 16 ≤ d.toNat ∧ s.core.bound d = false ∧ s.core.binds.length < 4

/-- The state with a register bound: its contents are given up (R203). -/
def withBinding (s : State) (d : Reg) (b : Binding) : State :=
  { s with core := { s.core.setReg d Val.zero with binds := aset d.toNat b s.core.binds } }

/-- Saturation to 32 bits (R225). -/
def saturated (x : Int) : Int := if x < -2147483648 then -2147483648 else if 2147483647 < x then 2147483647 else x

/-- The offset in a core's TCM of an image of 1,024 bytes at an address, where all of it lies in the core's own TCM, by either of the
ranges that name it (R22, R216). -/
def tcmImage (n ea : Nat) : Option Nat :=
  if ea + 1024 ≤ 2 ^ 15 then some ea
  else if n < 1048576 ∧ 2 ^ 40 + n * 2 ^ 16 ≤ ea ∧ ea + 1024 ≤ 2 ^ 40 + n * 2 ^ 16 + 2 ^ 15 then some (ea - (2 ^ 40 + n * 2 ^ 16))
  else none

/-- The FP32 word c of an image. -/
def imageWord (image c : Nat) : BitVec 32 := BitVec.ofNat 32 (image / 2 ^ (32 * c))

/-- The state in which no load of the running stream has performed early: what an acquire leaves (R90). -/
def acquired (s : State) : State := { s with core := { s.core with early := besides s.core } }

/-- The instructions that R211 forbids in a body, by major opcode and SUB, and by OP and X of the 16-bit forms. -/
def bodyRefused (bits : Nat) : Bool :=
  let major := bits / 2 % 64
  let op := bits / 2 % 16
  if bits % 2 = 1 then
    major == 0 || (decide (18 ≤ major) && decide (major ≤ 26)) || (decide (30 ≤ major) && decide (major ≤ 33)) ||
      (major == 35 && bits / 2 ^ 28 % 16 == 5) || (decide (37 ≤ major) && decide (major ≤ 42))
  else op == 9 || op == 10 || op == 11 || (op == 12 && [1, 2, 4].contains (bits / 32 % 32))

/-- The renaming of R154 in the iteration that a repetition is in. -/
def rotated (r : Rep) (n : Reg) : Reg :=
  if r.base.toNat ≤ n.toNat ∧ n.toNat < r.base.toNat + r.size then
    BitVec.ofNat 5 (r.base.toNat + (n.toNat - r.base.toNat + r.iter) % r.size)
  else n

/-- What becomes of a repetition after a body instruction: the next instruction, the next iteration, or its end (R210). -/
def advanced (r : Rep) : Option Rep :=
  if r.pos + 1 < r.body.length then some { r with pos := r.pos + 1 }
  else if r.iter + 1 < r.count.toNat then some { r with pos := 0, iter := r.iter + 1 }
  else none

end Sys2Proof.Claims

/-- R215, R24: WSET writes the fields of a window and traps ILLEGAL for an undefined FORMAT and POISON for a poisoned register;
WGET reads a window as clean untagged data. -/
def Sys2Proof.Claims.WindowForms : Prop :=
  ∀ (s t u : State) (w : BitVec 4) (a d : Reg) (v : Val),
    (readReg a s = .ok (v, t) → v.poison = false → (v.bits.extractLsb' 16 4).toNat < 13 →
      exec (.wset w a) s = .next ((withWindow t w (v.bits &&& windowFields)).complete 2 .seq)) ∧
    (readReg a s = .ok (v, t) → v.poison = false → 13 ≤ (v.bits.extractLsb' 16 4).toNat →
      TrapsWith (.wset w a) s .illegal (lo v)) ∧
    (readReg a s = .ok (v, t) → v.poison = true → TrapsWith (.wset w a) s .poison (a.setWidth 64)) ∧
    (writeReg d ⟨s.core.windows[w.toNat]?.getD 0, false, false⟩ s = .ok ((), u) →
      exec (.wget d w) s = .next (u.complete 2 .seq))

/-- R216, R129: DTLOAD of an aligned image of 1,024 bytes in the core's own TCM gives every entry of the table the E8M10 value of
its FP32 word, raises the flags of the conversions and leaves the other table; an image that does not lie there whole traps NOMAP, and
one that is not aligned ALIGN. -/
def Sys2Proof.Claims.DecodeTableLoad : Prop :=
  ∀ (s t u w x : State) (a : Reg) (cap : Val) (tblB : Bool) (m : Loaded) (o : Nat),
    let acc : Acc := { cap := cap, num := a, ea := lo cap, n := 1024, need := needLd, align := some 16, window := false,
                       noGlob := none, local_ := false }
    readReg a s = .ok (cap, t) → accCap acc t = .ok ((), t) →
    ((lo cap).toNat % 16 = 0 → tcmImage t.focus (lo cap).toNat = some o → accFit acc t = .ok ((), u) →
      awaitMarks o 1024 (lo cap) u = .ok ((), w) →
      loadRuns false a ((List.range 64).map fun k => (tcmBase t.focus + o + 16 * k, 16)) w = .ok (m, x) →
      ∃ y : State, exec (.dtload a tblB) s = .next (y.complete 2 .seq) ∧
        (∀ c, c < 256 → (if tblB then y.core.tblB else y.core.tblA)[c]? = some (fp32ToE8M10 (imageWord m.value c)).1) ∧
        (if tblB then y.core.tblA = x.core.tblA else y.core.tblB = x.core.tblB) ∧
        y.core.csr = { x.core.csr with
          fflags := (List.range 256).foldl (fun f c => f ||| (fp32ToE8M10 (imageWord m.value c)).2) x.core.csr.fflags } ∧
        y.mem = x.mem ∧ y.core.regs = x.core.regs ∧ y.core.kregs = x.core.kregs) ∧
    ((lo cap).toNat % 16 = 0 → tcmImage t.focus (lo cap).toNat = none → TrapsWith (.dtload a tblB) s .nomap (lo cap)) ∧
    ((lo cap).toNat % 16 ≠ 0 → TrapsWith (.dtload a tblB) s .align (lo cap))

/-- R203, R204, R206, R207: SBIND, QBIND and LBIND bind a register that may be bound. -/
def Sys2Proof.Claims.BindingInstructions : Prop :=
  ∀ (s : State) (d a b : Reg) (q : BitVec 2) (pop out fwd : Bool), Plain s → Bindable s d →
    (s.core.bound a = false → s.core.bound b = false → (s.core.reg a).poison = false → (s.core.reg b).poison = false →
      (s.core.reg a).tag = true → otype (s.core.reg a) = 0 →
      let p := lo (s.core.reg b)
      (p.getLsbD 4 = false ∨ (p.extractLsb' 0 3).toNat < 4 ∨ (p.extractLsb' 0 3).toNat = 7) →
      exec (.sbind d a b) s = .next ((withBinding s d
        (.gen (s.core.reg a) (p.extractLsb' 32 32) (p.extractLsb' 8 24) (p.getLsbD 4) (p.getLsbD 3) (p.extractLsb' 0 3) 0)).complete 2 .seq)) ∧
    exec (.qbind d q pop) s = .next ((withBinding s d (.queue q pop)).complete 2 .seq) ∧
    (out = false ∨ fwd = false →
      exec (.lbind d out fwd) s = .next ((withBinding s d (.link out fwd)).complete 2 .seq))

/-- R203: the shared checks of SBIND, QBIND and LBIND trap BIND with EVAL the register number and bind nothing. -/
def Sys2Proof.Claims.BindingTraps : Prop :=
  ∀ (i : Instr) (s : State) (d a b : Reg) (q : BitVec 2) (pop out fwd : Bool), Plain s →
    (i = .sbind d a b ∨ i = .qbind d q pop ∨ i = .lbind d out fwd) →
    (d.toNat < 16 ∨ s.core.bound d = true ∨ 4 ≤ s.core.binds.length → TrapsWith i s .bind (d.setWidth 64)) ∧
    (Bindable s d → i = .sbind d a b → s.core.bound a = true → TrapsWith i s .bind (a.setWidth 64)) ∧
    (Bindable s d → i = .sbind d a b → s.core.bound a = false → s.core.bound b = true → TrapsWith i s .bind (b.setWidth 64)) ∧
    (Bindable s d → i = .lbind d out fwd → out = true → fwd = true → TrapsWith i s .bind (d.setWidth 64))

/-- R208, R209: UNBIND leaves a register that reads zero, untagged and clean, and releases it; BSTAT of g0 gives one bit for
each of g16 to g31 that is bound, and of an unbound register zero. -/
def Sys2Proof.Claims.UnbindAndStatus : Prop :=
  ∀ (s u : State) (d a : Reg), Plain s →
    exec (.unbind d) s = .next ({ s with core := { s.core with binds := aerase d.toNat s.core.binds } }.complete 2 .seq) ∧
    (a ≠ 0 → s.core.bound a = false → writeReg d (clean 0) s = .ok ((), u) →
      exec (.bstat d a) s = .next (u.complete 2 .seq)) ∧
    (∀ n x, a ≠ 0 → alookup a.toNat s.core.binds = some (.queue n x) →
      writeReg d (clean (BitVec.ofNat 64 (2 ^ 63 + 2 ^ 61 + (s.core.aqs[n.toNat]?.getD []).length))) s = .ok ((), u) →
      exec (.bstat d a) s = .next (u.complete 2 .seq)) ∧
    (∀ cap count stride write desc esz x, a ≠ 0 →
      alookup a.toNat s.core.binds = some (.gen cap count stride write desc esz x) →
      writeReg d (clean (BitVec.ofNat 64 (2 ^ 63 + (count.toNat - x)))) s = .ok ((), u) →
      exec (.bstat d a) s = .next (u.complete 2 .seq)) ∧
    (∀ out fwd, a ≠ 0 → alookup a.toNat s.core.binds = some (.link out fwd) →
      let l := if out then s.core.link else (s.getCore (s.focus / 8 * 8 + (s.focus % 8 + 7) % 8)).link
      writeReg d (clean (BitVec.ofNat 64 (2 ^ 63 + 2 ^ 62 + l.length))) s = .ok ((), u) →
      exec (.bstat d a) s = .next (u.complete 2 .seq)) ∧
    (∀ m : List (Nat × Binding), s.core.binds = m → (m.map Prod.fst).Nodup → (∀ x ∈ m, 16 ≤ x.1 ∧ x.1 < 32) →
      ∃ w : DWord, (∀ k, w.getLsbD k = decide (∃ x ∈ m, x.1 = k + 16)) ∧
        ∀ u, writeReg d (clean w) s = .ok ((), u) → exec (.bstat d 0) s = .next (u.complete 2 .seq))

/-- R210, R211, R213, R86: REPB opens a capture; REPE closes it and starts the sequencer, or ends it at once where nothing is to
run, and outside a capture traps ILLEGAL; REPWAIT goes on where no repetition is active, no load that follows having performed before
it (R75), and waits for one that is. -/
def Sys2Proof.Claims.Repetition : Prop :=
  ∀ (s : State) (d a size : Reg) (r : Rep),
    (Plain s → s.core.bound a = false → (s.core.reg a).poison = false →
      exec (.repb d a size) s = .next ({ s with core := { s.core with
        rep := some ⟨d, size.toNat, lo (s.core.reg a), [], true, 0, 0, none⟩ } }.complete 2 .seq)) ∧
    (s.core.rep = some r → r.capturing = true → s.core.stream = .control →
      exec .repe s = .next ({ s with core := { s.core with
        rep := (if r.count ≠ 0 ∧ r.body ≠ [] then some { r with capturing := false } else none) } }.complete 2 .seq)) ∧
    (Plain s → TrapsWith .repe s .illegal (s.core.insn.setWidth 64)) ∧
    (Plain s → exec .repwait s = .next ((acquired s).complete 2 .seq) ∧
      exec .cRepwait s = .next ((acquired s).complete 1 .seq)) ∧
    (s.core.rep = some r → s.core.stream = .control →
      exec .repwait s = .next { s with waiting := true, core := { s.core with stalled := true, turn := .body } } ∧
      exec .cRepwait s = .next { s with waiting := true, core := { s.core with stalled := true, turn := .body } })

/-- R86, R214, R58: a trap of the control stream while an iteration of a body is in progress, an SC operation of its first instruction
counting once it has begun, waits for the iteration to end: the trap is kept, no register of an exception is written, and the body goes on. -/
def Sys2Proof.Claims.TrapWaitsForIteration : Prop :=
  ∀ (s : State) (r : Rep) (c : Nat) (eval : DWord), s.core.stream = .control → s.core.rep = some r → r.capturing = false →
    (r.pos ≠ 0 ∨ ∃ op, s.core.sc = some op ∧ op.stream = .body) →
    let t := takeTrap ⟨c, eval, none, none, none⟩ s
    t.core.rep = some { r with stop := some ⟨c, eval, pcOf s, none, none⟩ } ∧ t.core.turn = .body ∧
      t.core.csr = s.core.csr ∧ t.core.regs = s.core.regs ∧ t.core.task = s.core.task ∧ t.core.sendBuf = s.core.sendBuf ∧
      t.core.binds = s.core.binds ∧ t.mem = s.mem

/-- R210, R211, R162: a step of a core that captures a body. REPE runs; an instruction that R211 forbids, or a seventeenth, traps ILLEGAL
at that instruction with EVAL its bits; any other is kept as the next instruction of the body, not executed, and the pc moves on. -/
def Sys2Proof.Claims.CaptureSteps : Prop :=
  ∀ (s : State) (r : Rep) (bits : Nat), Ready s → s.core.rep = some r → r.capturing = true → ¬ inMessage s →
    imemInsn s = some bits →
    (decodeWord bits = .ok .repe →
      step s = (match exec .repe (fetched s bits) with
        | .next t => .next ((t.tracked .repe (fetched s bits)).ticked s.clock)
        | x => x)) ∧
    (decodeWord bits ≠ .ok .repe → (bodyRefused bits = true ∨ 16 ≤ r.body.length) → s.core.csr.km = false →
      ∃ t, step s = .next t ∧ trappedTask s t 0 (BitVec.ofNat 64 bits) s.core.pc ∧ trapKeeps s t) ∧
    (decodeWord bits ≠ .ok .repe → bodyRefused bits = false → r.body.length < 16 →
      let len := if bits % 2 = 0 then 1 else 2
      let c := (fetched s bits).core
      step s = .next ({ s with core := { c with
        pc := if c.csr.km then c.pc else c.pc + BitVec.ofNat 12 len, kpc := if c.csr.km then c.kpc + BitVec.ofNat 12 len else c.kpc,
        rep := some { r with body := r.body ++ [(⟨pcOf s, BitVec.ofNat 32 bits, len == 2⟩ : BodyInsn)] } } }.ticked s.clock))

/-- R154, R210, R211, R214: a step in which the sequencer issues, the core waiting for no UNPICK and for no SC operation but the body's
(R84, R230): the body instruction runs with its registers renamed for the
iteration; one that decodes to nothing traps ILLEGAL at its own pc. -/
def Sys2Proof.Claims.BodySteps : Prop :=
  ∀ (s : State) (r : Rep) (b : BodyInsn), Ready s → s.core.rep = some r → r.capturing = false →
    (match s.core.sc with
      | some op => op.stream = .body
      | none => s.core.unpick = none ∧ (s.core.turn = .body ∨ r.stop.isSome)) →
    r.body[r.pos]? = some b →
    (∀ i, decodeWord b.bits.toNat = .ok i →
      let u : State := { s with core := { s.core with insn := b.bits, stream := .body, loadAt := 0 } }
      step s = (match exec (renameRegs (rotated r) i) u with
        | .next t => .next ((t.tracked (renameRegs (rotated r) i) u).ticked s.clock)
        | x => x)) ∧
    (∀ e, decodeWord b.bits.toNat = .error e → s.core.csr.km = false →
      ∃ t, step s = .next t ∧ trappedTask s t 0 (b.bits.setWidth 64) b.pc ∧ trapKeeps s t)

/-- R86, R210, R75: the end of a body instruction: it retires, and the next one, the next iteration or the end of the repetition
follows, which no load of the body outlives that has performed early;
where the control stream has left a trap, only the body goes on, and the trap is taken once the iteration has ended. -/
def Sys2Proof.Claims.IterationSteps : Prop :=
  ∀ (s : State) (r : Rep) (len : Nat), s.core.stream = .body → s.core.rep = some r →
    let on (turn : Stream) : State :=
      { s with core := { s.core.retired with
          rep := advanced r, turn := turn, stream := .control
          early := if advanced r = none then s.core.early.filter (fun e => decide (e.stream = .control)) else s.core.early } }
    (r.stop = none → s.complete len .seq = on .control) ∧
    (∀ p, r.stop = some p → r.pos + 1 < r.body.length → s.complete len .seq = on .body) ∧
    (∀ p, r.stop = some p → r.body.length ≤ r.pos + 1 → s.core.csr.km = false →
      trappedTask s (s.complete len .seq) p.cause p.eval p.pc ∧ (s.complete len .seq).core.rep = none)

/-- R161, R212: while a repetition is active a control-stream write of an unbound register of the rotating range waits, whether or
not the body names it. -/
def Sys2Proof.Claims.RotatingRangeWaits : Prop :=
  ∀ (s : State) (r : Rep) (d : Reg) (v : Val), s.core.stream = .control → s.core.rep = some r → s.core.bound d = false →
    r.base.toNat ≤ d.toNat → d.toNat < r.base.toNat + r.size → writeReg d v s = .error (.stall false)

/-- R43, R225: a decrement of a counter. COUNT falls by d, saturating; where it was positive and is not any more, PHASE flips,
RELOAD is added, and with HEN set PEND rises, or OVR is set where PEND is full; nothing else of the entry changes. -/
def Sys2Proof.Claims.CounterDecrement : Prop :=
  ∀ (e : Counter) (d : Nat),
    let after := saturated (e.count.toInt - d)
    let r := e.dec d
    (r.2 = true ↔ 0 < e.count.toInt ∧ after ≤ 0) ∧
    r.1.count.toInt = (if 0 < e.count.toInt ∧ after ≤ 0 then saturated (after + e.reload.toNat) else after) ∧
    r.1.phase = (if 0 < e.count.toInt ∧ after ≤ 0 then !e.phase else e.phase) ∧
    r.1.pend = (if 0 < e.count.toInt ∧ after ≤ 0 ∧ e.hen = true ∧ e.pend ≠ 65535 then e.pend + 1 else e.pend) ∧
    r.1.ovr = (if 0 < e.count.toInt ∧ after ≤ 0 ∧ e.hen = true ∧ e.pend = 65535 then true else e.ovr) ∧
    r.1 = { e with count := r.1.count, phase := r.1.phase, pend := r.1.pend, ovr := r.1.ovr }

/-- R225, R227, R45: the counter instructions on clean operands. CTRDEC and a negative CTRADD decrement; a positive CTRADD adds
without a crossing; CTRGET reads the entry; ARRIVE drains the stores and sends a decrement inside the panel, and elsewhere traps
SEND; CTRCLR leaves the entry at its reset values. -/
def Sys2Proof.Claims.CounterInstructions : Prop :=
  ∀ (s t u : State) (k : BitVec 6) (a b d : Reg) (v w : Val),
    (readReg a s = .ok (v, t) → v.poison = false →
      exec (.ctrdec k a) s = .next ((t.decrement t.focus k.toNat ((lo v).extractLsb' 0 32).toNat).complete 2 .seq)) ∧
    (readReg a s = .ok (v, t) → v.poison = false → ((lo v).extractLsb' 0 32).toInt < 0 →
      exec (.ctradd k a) s = .next ((t.decrement t.focus k.toNat (-((lo v).extractLsb' 0 32).toInt).toNat).complete 2 .seq)) ∧
    (readReg a s = .ok (v, t) → v.poison = false → 0 ≤ ((lo v).extractLsb' 0 32).toInt →
      ∃ y : State, exec (.ctradd k a) s = .next (y.complete 2 .seq) ∧
        (y.core.counter k.toNat).count.toInt = saturated ((t.core.counter k.toNat).count.toInt + ((lo v).extractLsb' 0 32).toInt) ∧
        (y.core.counter k.toNat).phase = (t.core.counter k.toNat).phase ∧
        (y.core.counter k.toNat).pend = (t.core.counter k.toNat).pend ∧
        (∀ j, j ≠ k.toNat → y.core.counter j = t.core.counter j) ∧ y.core.regs = t.core.regs ∧ y.mem = t.mem) ∧
    (readReg a s = .ok (v, t) → v.poison = true →
      TrapsWith (.ctrdec k a) s .poison (a.setWidth 64) ∧ TrapsWith (.ctradd k a) s .poison (a.setWidth 64) ∧
        TrapsWith (.barlink k a) s .poison (a.setWidth 64)) ∧
    (let e := s.core.counter k.toNat
     writeReg d (clean ((e.pend ++ (0 : BitVec 14) ++ BitVec.ofBool e.ovr ++ BitVec.ofBool e.phase ++ e.count : BitVec 64)))
        (acquired s) = .ok ((), u) →
      exec (.ctrget k d) s = .next (u.complete 2 .seq)) ∧
    (readReg a s = .ok (v, t) → readReg b t = .ok (w, u) → v.poison = false → w.poison = false →
      (((lo v).extractLsb' 0 20).toNat / 64 = u.focus / 64 →
        ∃ y : State, exec (.arrive k a b) s = .next (y.complete 2 .seq) ∧ y.core.stores = [] ∧
          y.decs = u.decs ++ [⟨((lo v).extractLsb' 0 20).toNat, k.toNat, ((lo w).extractLsb' 0 32).toNat, u.core.ltag⟩] ∧
          y.core.regs = u.core.regs ∧ y.core.counters = u.core.counters) ∧
      (((lo v).extractLsb' 0 20).toNat / 64 ≠ u.focus / 64 → TrapsWith (.arrive k a b) s .send (lo v))) ∧
    (∃ y : State, exec (.ctrclr k) s = .next (y.complete 2 .seq) ∧ y.core.counter k.toNat = Counter.zero ∧
      y.core.regs = s.core.regs ∧ y.core.kregs = s.core.kregs ∧ y.mem = s.mem ∧
      ∀ q : Fin 4, ∀ x ∈ y.core.queues[q], x.what ≠ .counter k.toNat)

/-- R227, R45: BARLINK registers a counter under a parent of its panel that does not lie below it, and names it in PEN, PCORE and
PCTR; any other parent traps SEND. -/
def Sys2Proof.Claims.BarrierLink : Prop :=
  ∀ (s t : State) (k : BitVec 6) (a : Reg) (v : Val), readReg a s = .ok (v, t) → v.poison = false →
    let core : BitVec 20 := (lo v).extractLsb' 0 20
    let ctr : BitVec 6 := (lo v).extractLsb' 20 6
    ((core.toNat / 64 = t.focus / 64 ∧ t.reachesUp (t.focus, k.toNat) 4096 (core.toNat, ctr.toNat) = false) →
      let e := { t.core.counter k.toNat with pen := true, pcore := core, pctr := ctr, parent := some (core.toNat, ctr.toNat) }
      exec (.barlink k a) s = .next ({ t with core := t.core.setCounter k.toNat e }.complete 2 .seq)) ∧
    ((core.toNat / 64 ≠ t.focus / 64 ∨ (core.toNat, ctr.toNat) = (t.focus, k.toNat)) →
      TrapsWith (.barlink k a) s .send (lo v))

/-- R226, R42: CTRSET of an image that R226 allows writes the RW fields of the entry, clears OVR where the image has it, keeps
PHASE and PEND and makes no crossing. -/
def Sys2Proof.Claims.CounterSet : Prop :=
  ∀ (s t u x : State) (k : BitVec 6) (a : Reg) (cap : Val) (p : Place) (m : Loaded),
    let acc : Acc := { cap := cap, num := a, ea := lo cap, n := 40, need := needLd, align := some 8, window := true,
                       noGlob := none, local_ := false }
    readReg a s = .ok (cap, t) → access acc t = .ok (p, u) → loadPlace p.cut true a u = .ok (m, x) →
    let word (j : Nat) : DWord := BitVec.ofNat 64 (m.value / 2 ^ (64 * j))
    let tag : BitVec 16 := (word 4).extractLsb' 0 16
    let e := x.core.counter k.toNat
    (x.core.csr.km = true ∨
      (((word 1).extractLsb' 16 16).toNat = x.core.handle ∧ (tag = 0 ∨ tag = x.core.ltag) ∧
        ((word 1).getLsbD 62 = false ∨ ∃ q, x.partOf x.focus = some q ∧
          x.inSet q (((word 1).extractLsb' 33 20).toNat / 64) = true))) →
    ∃ y : State, exec (.ctrset k a) s = .next (y.complete 2 .seq) ∧
      (let f := y.core.counter k.toNat
       f.reload = (word 0).extractLsb' 32 32 ∧ f.count = (word 0).extractLsb' 0 32 ∧ f.hen = (word 1).getLsbD 63 ∧
       f.pen = (word 1).getLsbD 62 ∧ f.prio = (word 1).extractLsb' 59 2 ∧ f.pctr = (word 1).extractLsb' 53 6 ∧
       f.pcore = (word 1).extractLsb' 33 20 ∧ f.chain = (word 1).extractLsb' 16 16 ∧ f.pc = (word 1).extractLsb' 0 12 ∧
       f.arg = word 2 ∧ f.work = word 3 ∧ f.ovr = (e.ovr && !(word 1).getLsbD 32) ∧ f.phase = e.phase ∧ f.pend = e.pend ∧
       f.ltag = (if x.core.csr.km = false ∧ tag = 0 then x.core.ltag else tag)) ∧
      (∀ j, j ≠ k.toNat → y.core.counter j = x.core.counter j) ∧ y.mem = x.mem ∧ y.core.regs = x.core.regs

/-- R202, R83, R85, R89: FENCE.SL empties the store buffer in order, and no load of its stream that follows has performed before it;
FENCE.REL at MODULE and SYSTEM scope leaves the next store or atomic of its stream the release, that of the other stream staying, the wider scope of two standing, and
at a narrower scope only goes on; FENCE.AR does both; FENCE.ENG waits for the core's matrix commands and acquires. The reading of log
entry 41 is the model's. -/
def Obligations.FenceForms : Prop :=
  ∀ (s : State),
    let owes (c : Core) (scope : Scope) : Core :=
      if c.stream = .body then { c with bodyRel := if c.bodyRel = some .sys then some .sys else some scope }
      else { c with pendRel := if c.pendRel = some .sys then some .sys else some scope }
    (∃ y : State, exec .fenceSl s = .next (y.complete 2 .seq) ∧ y.core = { s.core with stores := [], early := besides s.core } ∧
      (LocalStores s → y.mem = s.core.stores.foldl Memory.perform s.mem)) ∧
    (∀ c, c = Scope.mod ∨ c = Scope.sys →
      exec (.fenceRel c) s = .next ({ s with core := owes s.core c }.complete 2 .seq) ∧
      ∃ y : State, exec (.fenceAr c) s = .next (y.complete 2 .seq) ∧
        y.core = owes { s.core with stores := [], early := besides s.core } c ∧
        (LocalStores s → y.mem = s.core.stores.foldl Memory.perform s.mem)) ∧
    (∀ c, c = Scope.core ∨ c = Scope.panel ∨ c = Scope.die →
      exec (.fenceRel c) s = .next (s.complete 2 .seq) ∧
      ∃ y : State, exec (.fenceAr c) s = .next (y.complete 2 .seq) ∧
        y.core = { s.core with stores := [], early := besides s.core } ∧
        (LocalStores s → y.mem = s.core.stores.foldl Memory.perform s.mem)) ∧
    (s.core.mxq = [] → exec .fenceEng s = .next ((acquired s).complete 2 .seq)) ∧
    (s.core.mxq ≠ [] → Plain s → exec .fenceEng s = .next { s with waiting := true, core := { s.core with stalled := true, turn := .body } })

/-- R215, R24, R216, R129: the window registers and the decode tables. The reading of log entry 38 is the model's. -/
def Obligations.WindowAndTableForms : Prop := WindowForms ∧ DecodeTableLoad

/-- R203, R208, R209: binding a register, the checks of a binding, unbinding and BSTAT. The readings of log entries 35 and 37
are the model's. -/
def Obligations.BindingForms : Prop := BindingInstructions ∧ BindingTraps ∧ UnbindAndStatus

/-- R86, R154, R161, R210 to R214: repetition: the capture of a body, its iterations, and what waits for them. The readings of log
entries 16, 18 and 40 are the model's. -/
def Obligations.RepetitionForms : Prop :=
  Repetition ∧ TrapWaitsForIteration ∧ CaptureSteps ∧ BodySteps ∧ IterationSteps ∧ RotatingRangeWaits

/-- R42, R43, R45, R225 to R227: counters. The readings of log entries 64 and 124 are the model's. -/
def Obligations.CounterForms : Prop := CounterDecrement ∧ CounterInstructions ∧ BarrierLink ∧ CounterSet

namespace Sys2Proof.Claims

open Sys2Proof.Machine

/-! ### Loads, stores and atomics -/

/-- The bytes of a size code, and whether it extends the sign (R195). -/
def szInfo (sz : BitVec 3) : Nat × Bool :=
  match sz.toNat with
  | 0 => (1, false) | 1 => (2, false) | 2 => (4, false) | 3 => (8, false)
  | 4 => (1, true) | 5 => (2, true) | 6 => (4, true) | _ => (16, false)

/-- A load or a store (R195, R196, R190): its length, its data register, its capability register, its size code, its
displacement, whether the line it touches is allocated, and whether it stores. -/
structure MemForm where
  len   : Nat
  data  : Reg
  cap   : Reg
  sz    : BitVec 3
  disp  : DWord
  alloc : Bool
  store : Bool

def memForm : Instr → Option MemForm
  | .ld d a sz imm => some ⟨2, d, a, sz, imm.signExtend 64, true, false⟩
  | .ldna d a sz imm => some ⟨2, d, a, sz, imm.signExtend 64, false, false⟩
  | .cLdd x off => some ⟨1, x, 10, 3, off.setWidth 64 * 8, true, false⟩
  | .st b a sz imm => some ⟨2, b, a, sz, imm.signExtend 64, true, true⟩
  | .stna b a sz imm => some ⟨2, b, a, sz, imm.signExtend 64, false, true⟩
  | .cStd x off => some ⟨1, x, 10, 3, off.setWidth 64 * 8, true, true⟩
  | _ => none

/-- The effective address of a form under a capability (R195). -/
def MemForm.ea (f : MemForm) (cap : Val) : DWord := lo cap + f.disp

/-- Whether a load of a quadword moves the tag (R194): the capability is tagged and has LDC. -/
def movesTag (sz : BitVec 3) (cap : Val) : Bool := sz == 7 && cap.tag && cap.bits.getLsbD 125

/-- The access that a load checks (R192, R194, R195). -/
def loadAcc (f : MemForm) (cap : Val) : Acc :=
  { cap := cap, num := f.cap, ea := f.ea cap, n := (szInfo f.sz).1, need := ⟨true, false, movesTag f.sz cap, false⟩,
    align := none, window := true, noGlob := none, local_ := false }

/-- The access that a store checks (R192, R194, R196). -/
def storeAcc (f : MemForm) (cap v : Val) : Acc :=
  { cap := cap, num := f.cap, ea := f.ea cap, n := (szInfo f.sz).1, need := ⟨false, true, false, f.sz == 7 && v.tag⟩,
    align := none, window := true,
    noGlob := if f.sz == 7 && v.tag && !v.bits.getLsbD 121 then some f.data else none, local_ := false }

/-- What a load of a size code makes of the bytes it has read (R63, R194, R195). -/
def loadedVal (sz : BitVec 3) (cap : Val) (bytes : Nat) (poison tag : Bool) : Val :=
  if sz = 7 then ⟨BitVec.ofNat 128 bytes, movesTag sz cap && tag, poison⟩
  else
    let w := 8 * (szInfo sz).1
    let x : DWord := if (szInfo sz).2 then (BitVec.ofNat w bytes).signExtend 64 else BitVec.ofNat 64 bytes
    ⟨x.setWidth 128, false, poison⟩

/-- The price of an access of the global region (R116). -/
def paid (ea : DWord) (s : State) : State :=
  if 2 ^ 48 ≤ ea.toNat ∧ ea.toNat < 2 ^ 49 then
    { s with core := { s.core with csr := s.core.csr.charge (s.core.csr.price0.extractLsb' 16 16).toNat } }
  else s

/-- Whether two runs of bytes meet. -/
def meet (a n b m : Nat) : Bool := decide (a < b + m) && decide (b < a + n)

/-- The state in which no load of the running stream of a byte of [a, a + n) has performed ahead of its instruction (R67, R70). -/
def fresh (a n : Nat) (s : State) : State :=
  { s with core := { s.core with early := s.core.early.filter fun e => !(decide (e.stream = s.core.stream) && meet a n e.loc e.bytes) } }

/-- What a load of [a, a + n) by the running core that has performed in step `k` leaves: of the loads of its stream that have performed
early, by then, none of its bytes (R67), and where it is die-local no die-local one (R80). -/
def loadMade (k a n : Nat) (s : State) : State :=
  let near (b : Nat) : Bool := localDie b == some (dieOfCore s.focus)
  { s with core := { s.core with
      loadAt := Max.max s.core.loadAt k
      early := s.core.early.filter fun e =>
        !(decide (e.stream = s.core.stream) && decide (e.tick ≤ k) && (meet a n e.loc e.bytes || (near a && near e.loc))) } }

/-- A load of [a, a + n) that has performed early and that the running stream's load through register `r` takes (R88): no earlier than
the loads that its address was formed from. -/
def Ahead (s : State) (r : Reg) (a n : Nat) (alloc : Bool) (e : Early) : Prop :=
  e.stream = s.core.stream ∧ e.loc = a ∧ e.bytes = n ∧ e.alloc = alloc ∧
    (if s.core.bound r then s.tick else s.core.deps[r.toNat]) ≤ e.tick

/-- The release that a FENCE.REL of the running stream has left to its next store or atomic (R89). -/
def owing (c : Core) : Option Scope := if c.stream = .body then c.bodyRel else c.pendRel

/-- The core without that release. -/
def redeemed (c : Core) : Core := if c.stream = .body then { c with bodyRel := none } else { c with pendRel := none }

/-- The state with a store at the end of the running core's buffer; where eight wait, the oldest has left it (R197). The store is the
release of a FENCE.REL of its stream that still owes one (R89). -/
def buffered (e : StoreEntry) (s : State) : State :=
  let t := if s.core.stores.length < 8 then s else s.leave s.focus
  fresh e.loc e.bytes { t with core := { redeemed t.core with stores := t.core.stores ++ [{ e with rel := owing t.core }] } }

/-- Where a register of the physical function stands among the locations of a flint (R343). -/
def registerLoc (n off : Nat) : Nat := 2 ^ 60 + (n - 1048576) * 2 ^ 32 + off

/-- The walk that a fitting check under a region tag makes, with whether the check passes (R110, R111): in task mode, where the fitting
cache has no entry for the chain and the region tag. -/
def walkIn (s : State) (region : Nat) (passes : Bool) : Option (Nat × Bool) :=
  if s.core.csr.km = true ∨ ∃ e ∈ s.core.fit, e.handle.toNat = s.core.handle ∧ e.region.toNat = region then none
  else some (region, passes)

/-- The walk of an access that has passed its fitting check. -/
def walkOf (a : Acc) (s : State) : Option (Nat × Bool) := walkIn s (rtag a.cap).toNat true

/-- The region tag of the running task's routine (R36). -/
def routineTag (s : State) : Nat := match s.core.task with
  | some k => (rtag k.rgn).toNat
  | none => 0

/-- A trap past the fitting check: what a walk of that check has found stays (R111). -/
def lateTrap (c : Cause) (a : Acc) (s : State) : Stop := .trap ⟨c.code, a.ea, none, none, walkOf a s⟩

/-- What the watermarks of the core's channels do to an access of [off, off + n) of its TCM (R97, R99): it waits where the first whose
undelivered part it meets is armed, and traps ENGFAULT where that one has been stopped. -/
def marked (s : State) (off n : Nat) (trap : Stop) : Option Stop :=
  (s.core.wms.toList.find? fun w =>
    let lo := w.base.toNat + w.w
    let hi := w.base.toNat + w.len.toNat
    decide (lo < hi) && decide (off < hi) && decide (lo < off + n)).map fun w =>
      if w.stopped then trap else .marks

/-- Whether a location lies in the running core's own TCM, which alone has watermarks. -/
def OwnTcm (s : State) (l : Nat) : Prop := 2 ^ 48 + 65536 * s.focus ≤ l ∧ l < 2 ^ 48 + 65536 * s.focus + 2 ^ 15

/-- What the running stream's access leaves once no watermark holds it back: having waited it acquires (R97). -/
def markSeen (s : State) : State :=
  if s.core.stream ∈ s.core.marked then
    { s with core := { s.core with early := besides s.core, marked := s.core.marked.filter fun st => decide (st ≠ s.core.stream) } }
  else s

/-- A result unless something stops it. -/
def stopOr {α : Type} (x : Option Stop) (r : Except Stop α) : Except Stop α :=
  match x with
  | some e => .error e
  | none => r

/-- The fitting check of step 7, which the kernel bank does not make (R110, R193). -/
def Fitted (a : Acc) (s t : State) : Prop :=
  if s.core.csr.km then t = s else s.fitting (rtag a.cap).toNat a.need = .ok t

/-- The translation of a page of the global region for the running core (R323, R324). -/
def pageOf (a : Acc) (p off : Nat) (t : State) : Except XFault PtcEntry × State :=
  t.translateVia (panelOf t.focus) p off a.need.ld a.need.st

/-- A location is die-local to the running core (R79). -/
def Near (s : State) (loc : Nat) : Prop := localDie loc = some (dieOfCore s.focus)

/-- The first of steps 0 to 6 of R192 that fails, as ECAUSE and EVAL: poison, and then, unless the kernel accesses through an
untagged register (R193), tag, seal, permissions, the GLOBAL rule of R194 and bounds; alignment; the range. -/
def firstFault (a : Acc) (s : State) : Option (Nat × DWord) :=
  let num : DWord := a.num.setWidth 64
  let b := capBounds a.cap.bits
  let aligned :=
    if a.window && decide (2 ^ 32 ≤ a.ea.toNat) && decide (a.ea.toNat < 2 ^ 32 + 2 ^ 26) then a.n == 4 && a.ea.toNat % 4 == 0
    else a.ea.toNat % (a.align.getD a.n) == 0
  let raw := s.core.csr.km && !a.cap.tag
  if a.cap.poison then some (9, num)
  else if !raw && !a.cap.tag then some (1, num)
  else if !raw && otype a.cap != 0 then some (4, num)
  else if !raw && !a.need.within (a.cap.bits.extractLsb' 124 4) then some (3, num)
  else if !raw && a.noGlob.isSome && !isOwnTcm s.focus a.ea.toNat then some (3, (a.noGlob.getD 0).setWidth 64)
  else if !raw && !(decide (b.1 ≤ (a.ea.toNat : Int)) && decide ((a.ea.toNat : Int) + a.n ≤ b.2)) then some (2, a.ea)
  else if !aligned then some (8, a.ea)
  else if (accRange a s).isNone then some (25, a.ea)
  else none

/-- What an AMO of m bits writes, from the old value, the operand and the comparand, all below 2^m (R198). -/
structure AmoForm where
  d     : Reg
  a     : Reg
  b     : Reg
  scope : Scope
  order : AmoOrder
  dw    : Bool
  cas   : Bool
  op    : Nat → Nat → Nat → Option Nat

/-- A number below 2^m as a signed one. -/
def signedOf (dw : Bool) (x : Nat) : Int :=
  let m := if dw then 64 else 32
  if x < 2 ^ (m - 1) then x else (x : Int) - 2 ^ m

def amoForm : Instr → Option AmoForm
  | .amoadd d a b sc o w => some ⟨d, a, b, sc, o, w, false, fun x y _ => some (x + y)⟩
  | .amoand d a b sc o w => some ⟨d, a, b, sc, o, w, false, fun x y _ => some (x &&& y)⟩
  | .amoor d a b sc o w => some ⟨d, a, b, sc, o, w, false, fun x y _ => some (x ||| y)⟩
  | .amoxor d a b sc o w => some ⟨d, a, b, sc, o, w, false, fun x y _ => some (x ^^^ y)⟩
  | .amomin d a b sc o w => some ⟨d, a, b, sc, o, w, false, fun x y _ => some (if signedOf w x < signedOf w y then x else y)⟩
  | .amomax d a b sc o w => some ⟨d, a, b, sc, o, w, false, fun x y _ => some (if signedOf w x < signedOf w y then y else x)⟩
  | .amominu d a b sc o w => some ⟨d, a, b, sc, o, w, false, fun x y _ => some (Min.min x y)⟩
  | .amomaxu d a b sc o w => some ⟨d, a, b, sc, o, w, false, fun x y _ => some (Max.max x y)⟩
  | .amoswp d a b sc o w => some ⟨d, a, b, sc, o, w, false, fun _ y _ => some y⟩
  | .amocas d a b sc o w => some ⟨d, a, b, sc, o, w, true, fun x y z => if x = z then some y else none⟩
  | _ => none

/-- The access that an AMO or an SC operation checks (R198, R201). -/
def amoAcc (cap : Val) (a : Reg) (n : Nat) (loc : Bool) : Acc :=
  { cap := cap, num := a, ea := lo cap, n := n, need := ⟨true, true, false, false⟩, align := none, window := false, noGlob := none,
    local_ := loc }

/-- SC operations: the function, the destination, the address register and the operand (R201). -/
structure ScForm where
  fn : Nat
  d  : Reg
  a  : Reg
  b  : Option Reg

def scForm : Instr → Option ScForm
  | .scld d a => some ⟨0, d, a, none⟩
  | .scst a b => some ⟨1, 0, a, some b⟩
  | .scswp d a b => some ⟨2, d, a, some b⟩
  | .scadd d a b => some ⟨3, d, a, some b⟩
  | _ => none

/-- What an SC operation writes (R201). -/
def scWrites (fn : Nat) (old v : DWord) : Option DWord :=
  match fn with
  | 0 => none
  | 1 => some v
  | 2 => some v
  | _ => some (old + v)

end Sys2Proof.Claims

/-- R195, R190, R63, R194, R26: a load whose access is granted completes: a plain location gives its bytes as the running core
sees them, extended as the size code says, with their poison and, for a quadword under LDC, its tag; where the load has performed
ahead of its instruction (R88), it gives what was read then; an element of an alias window gives its value decoded; a register of the
physical function gives a flint what it holds, once the flint's own register writes have been made (R343). The readings of log entries
40 and 104 are the model's. -/
def Obligations.LoadForms : Prop :=
  ∀ (i : Instr) (f : MemForm) (s t u w : State) (cap : Val), memForm i = some f → f.store = false →
    readReg f.cap s = .ok (cap, t) →
    (∀ loc n, access (loadAcc f cap) t = .ok (.runs [(loc, n)], u) →
      (∀ e ∈ u.core.early, ¬ Ahead u f.cap loc n f.alloc e) →
      let v := (u.touchLine u.focus loc f.alloc).view loc n
      writeReg f.data (loadedVal f.sz cap (v.1.read loc n) (v.1.anyPoison loc n) (n == 16 && v.1.tagged loc))
        (paid (f.ea cap) (loadMade v.2.tick loc n v.2)) = .ok ((), w) →
      exec i s = .next (w.complete f.len .seq)) ∧
    (∀ loc n e before after, access (loadAcc f cap) t = .ok (.runs [(loc, n)], u) → u.core.early = before ++ e :: after →
      (∀ x ∈ before, ¬ Ahead u f.cap loc n f.alloc x) → Ahead u f.cap loc n f.alloc e →
      let taken : State := { u with core := { u.core with early := before ++ after } }
      writeReg f.data (loadedVal f.sz cap e.value e.poison e.tag) (paid (f.ea cap) (loadMade e.tick loc n taken)) = .ok ((), w) →
      exec i s = .next (w.complete f.len .seq)) ∧
    (∀ off n, access (loadAcc f cap) t = .ok (.reg off n, u) →
      (∀ x ∈ u.posted, x.1 ≠ u.focus - 1048576) → (∀ e ∈ u.core.stores, e.loc < 2 ^ 60) →
      writeReg f.data (loadedVal f.sz cap
        ((u.registerRead (.flint (u.focus - 1048576)) (off / 8 * 8)).toNat / 2 ^ (8 * (off % 8)) % 2 ^ (8 * n)) false false)
        (paid (f.ea cap) u) = .ok ((), w) →
      exec i s = .next (w.complete f.len .seq)) ∧
    (∀ fmt off sc, access (loadAcc f cap) t = .ok (.elem fmt off sc, u) →
      let tcm := 2 ^ 48 + 65536 * u.focus
      (∀ e ∈ u.core.early, ¬ Ahead u f.cap (tcm + off) (esize fmt) false e ∧ ∀ k, sc = some k → ¬ Ahead u f.cap (tcm + k) 1 false e) →
      let v := u.view (tcm + off) (esize fmt)
      let one := loadMade v.2.tick (tcm + off) (esize fmt) v.2
      let g : Nat × Bool × State := match sc with
        | none => (0, false, one)
        | some k =>
          let y := one.view (tcm + k) 1
          (y.1.read (tcm + k) 1, y.1.anyPoison (tcm + k) 1, loadMade y.2.tick (tcm + k) 1 y.2)
      let x := aliasValue u.core.tblA u.core.tblB fmt (v.1.read (tcm + off) (esize fmt)) g.1
      writeReg f.data (loadedVal f.sz cap x.1.toNat (v.1.anyPoison (tcm + off) (esize fmt) || g.2.1) false)
        (paid (f.ea cap) (flagged g.2.2 (if x.2 then 32 else 0))) = .ok ((), w) →
      exec i s = .next (w.complete f.len .seq))

/-- R196, R197, R190, R70: a store whose access is granted completes: its low bytes, its poison and, for a tagged quadword, its
tag go into the store buffer behind the stores that wait there, as the release of a FENCE.REL that owes one (R89). A flint's write of a
register of the physical function goes there too (R343; log entry 104 is the model's). -/
def Obligations.StoreForms : Prop :=
  ∀ (i : Instr) (f : MemForm) (s t u w : State) (v cap : Val), memForm i = some f → f.store = true →
    readReg f.data s = .ok (v, t) → readReg f.cap t = .ok (cap, u) →
    let low : QWord := BitVec.ofNat 128 (v.bits.toNat % 2 ^ (8 * (szInfo f.sz).1))
    (∀ loc n, access (storeAcc f cap v) u = .ok (.runs [(loc, n)], w) →
      exec i s = .next ((paid (f.ea cap) (buffered ⟨loc, n, low, v.poison, f.sz == 7 && v.tag, f.alloc, none⟩ w)).complete f.len .seq)) ∧
    (∀ fmt off sc, access (storeAcc f cap v) u = .ok (.elem fmt off sc, w) →
      exec i s = .next ((paid (f.ea cap) (buffered ⟨2 ^ 48 + 65536 * w.focus + off, 4, low, v.poison, false, false, none⟩ w)).complete
        f.len .seq)) ∧
    (∀ off n, access (storeAcc f cap v) u = .ok (.reg off n, w) →
      exec i s = .next ((paid (f.ea cap) (buffered ⟨registerLoc w.focus off, 8, low, false, false, false, none⟩ w)).complete
        f.len .seq))

/-- R4, R63, R194: a store that performs writes its bytes little-endian and no other byte; it marks every doubleword it touches
when its value is poisoned and clears the marks of those it writes whole when it is clean; it clears the tag of every
quadword it touches unless it moves one. -/
def Sys2Proof.Claims.StoresPerform : Prop :=
  ∀ (m : Memory) (e : StoreEntry), m.wf = true →
    let r := m.perform e
    r.wf = true ∧
    (∀ a, (r.byte a).toNat = if e.loc ≤ a ∧ a < e.loc + e.bytes then e.value.toNat / 256 ^ (a - e.loc) % 256 else (m.byte a).toNat) ∧
    (∀ d, d % 8 = 0 → r.poisoned d =
      if unmarked e.loc then m.poisoned d
      else if d < e.loc + e.bytes ∧ e.loc < d + 8 ∧ e.poison then true
      else if e.loc ≤ d ∧ d + 8 ≤ e.loc + e.bytes then false
      else m.poisoned d) ∧
    (∀ q, q % 16 = 0 → r.tagged q =
      if e.tag ∧ unmarked e.loc = false ∧ q = e.loc / 16 * 16 then true
      else if q < e.loc + e.bytes ∧ e.loc < q + 16 then false
      else m.tagged q)

/-- R70: the next load of the bytes of a store that the same core has just buffered reads that store's value. -/
def Sys2Proof.Claims.StoreThenLoad : Prop :=
  ∀ (s : State) (e : StoreEntry), s.mem.wf = true →
    ((buffered e s).view e.loc e.bytes).1.read e.loc e.bytes = e.value.toNat % 2 ^ (8 * e.bytes)

/-- R192 steps 0 to 7: an access traps with the cause and EVAL of the first check that fails, and then as the fitting check of task
mode says, or waits for the scrub of a frame that its walk has come to (R332). -/
def Sys2Proof.Claims.FirstChecks : Prop :=
  ∀ (a : Acc) (s : State),
    (∀ f, firstFault a s = some f → access a s = .error (.trap ⟨f.1, f.2, none, none, none⟩)) ∧
    (∀ r p c, firstFault a s = none → accRange a s = some (r, p) → s.core.csr.km = false →
      s.fitting (rtag a.cap).toNat a.need = .error c → access a s = .error (match c with
        | .fails x walk => .trap ⟨x.code, a.ea, none, none, walk.map fun g => (g, false)⟩
        | .waits f => .scrub f))

/-- R192 step 9, R84, R26, R97, R99: past the fitting check an access outside the global region is granted where its bytes lie; one that
must be die-local traps NOMAP elsewhere and in an alias window; a watermark over bytes of the core's own TCM holds it back, and an access
that has been held back acquires. -/
def Sys2Proof.Claims.LocalGrants : Prop :=
  ∀ (a : Acc) (s t : State) (r : Range), firstFault a s = none → Fitted a s t →
    (∀ l n, accRange a s = some (r, some (.runs [(l, n)])) →
      (a.local_ = true → ¬ Near s l → access a s = .error (lateTrap .nomap a s)) ∧
      (a.local_ = false ∨ Near s l →
        (OwnTcm t l → access a s =
          stopOr (marked t (l - (2 ^ 48 + 65536 * t.focus)) n (lateTrap .engfault a s)) (.ok (.runs [(l, n)], markSeen t))) ∧
        (¬ OwnTcm t l → access a s = .ok (.runs [(l, n)], t)))) ∧
    (∀ fmt off sc, accRange a s = some (r, some (.elem fmt off sc)) →
      (a.local_ = true → access a s = .error (lateTrap .nomap a s)) ∧
      (a.local_ = false → access a s =
        stopOr ((marked t off (esize fmt) (lateTrap .engfault a s)).or (sc.bind fun k => marked t k 1 (lateTrap .engfault a s)))
          (.ok (.elem fmt off sc, markSeen t))))

/-- R192 steps 8 and 9, R323, R325, R28, R332: in the global region an access within a page is translated. A page that lacks a
translation or a permission raises a page request and traps XLAT, or waits where no request tag is to be had; a location without a
home, or one that is not die-local where it must be, traps NOMAP; a frame that is scrub-pending makes the access wait; any other is
granted at its frame. Of an access that crosses a page the pages are translated in order, and their homes looked for behind that. A walk
that comes to a scrub-pending stage-1 table waits for it (`walkHold`). What the walk of the fitting check has found stays (R111). -/
def Sys2Proof.Claims.GlobalGrants : Prop :=
  ∀ (a : Acc) (s t : State) (off : Nat), firstFault a s = none → accRange a s = some (.global off, none) → Fitted a s t →
    t.focus < 1048576 → 0 < a.n →
    (t.partOf t.focus = none → access a s = .error (lateTrap .nomap a s)) ∧
    ∀ p, t.partOf t.focus = some p →
      (∀ x u, pageOf a p off t = (.error x, u) →
        let m : PageMiss := { part := p, off := off, wr := a.need.st, fault := x, src := t.focus, ltag := t.core.ltag,
                              chain := t.core.chn.extractLsb' 0 16, asker := .core t.focus }
        access a s = .error (if ((t.pageMiss m).tagFor p (off % 2 ^ 48 / 2 ^ 16) a.need.st).isSome
          then .trap ⟨Cause.xlat.code, a.ea, some m, none, walkOf a s⟩ else .hold m)) ∧
      (∀ e u, pageOf a p off t = (.ok e, u) →
        let l := e.frame + off % 2 ^ 16
        (u.homeOf l = none → off % 2 ^ 16 + a.n ≤ 2 ^ 16 → access a s = .error (lateTrap .nomap a s)) ∧
        (u.homeOf l ≠ none → off % 2 ^ 16 + a.n ≤ 2 ^ 16 →
          (a.local_ = true → ¬ Near s l → (e.scrub = false ∨ u.walkHold p off = none) → access a s = .error (lateTrap .nomap a s)) ∧
          (a.local_ = false ∨ Near s l ∨ (e.scrub = true ∧ u.walkHold p off ≠ none) →
            (e.scrub = true → access a s = .error (.scrub e.frame)) ∧
            (e.scrub = false → access a s = .ok (.runs [(l, a.n)], u)))) ∧
        (2 ^ 16 < off % 2 ^ 16 + a.n → off % 2 ^ 16 + a.n ≤ 2 * 2 ^ 16 → u.partOf u.focus = some p →
          let here := 2 ^ 16 - off % 2 ^ 16
          (∀ x v, pageOf a p (off + here) u = (.error x, v) →
            let m : PageMiss := { part := p, off := off + here, wr := a.need.st, fault := x, src := u.focus, ltag := u.core.ltag,
                                  chain := u.core.chn.extractLsb' 0 16, asker := .core u.focus }
            access a s = .error (if ((v.pageMiss m).tagFor p ((off + here) % 2 ^ 48 / 2 ^ 16) a.need.st).isSome
              then .trap ⟨Cause.xlat.code, a.ea, some m, none, walkOf a s⟩ else .hold m)) ∧
          (∀ x v, pageOf a p (off + here) u = (.ok x, v) →
            ((v.homeOf l = none ∨ v.homeOf x.frame = none) → access a s = .error (lateTrap .nomap a s)) ∧
            (v.homeOf l ≠ none → v.homeOf x.frame ≠ none → a.local_ = false →
              (e.scrub = true → access a s = .error (.scrub e.frame)) ∧
              (e.scrub = false → x.scrub = true → access a s = .error (.scrub x.frame)) ∧
              (e.scrub = false → x.scrub = false →
                access a s = .ok (.runs [(l, here), (x.frame, a.n - here)], v))))))

/-- R343, R28: a flint reaches the addresses of the global region without translation: a register of the physical function as a whole or
in part, and any other location that has a home. The window of the registers is the model's (log entry 104). -/
def Sys2Proof.Claims.FlintGrants : Prop :=
  ∀ (a : Acc) (s t : State) (off : Nat), firstFault a s = none → accRange a s = some (.global off, none) → Fitted a s t →
    1048576 ≤ t.focus → 0 < a.n → a.local_ = false → off % 2 ^ 16 + a.n ≤ 2 ^ 16 →
    (∀ o, flintReg off = some o → access a s =
      (if a.window = true ∧ (if a.need.st then a.n = 8 else a.n ≤ 8) then .ok (.reg o a.n, t) else .error (lateTrap .nomap a s))) ∧
    (flintReg off = none → access a s =
      (if t.homeOf off = none then .error (lateTrap .nomap a s) else .ok (.runs [(off, a.n)], t)))

/-- R192 to R194, R22, R26, R28, R79, R84, R97, R323, R325, R343: the checks of an access in their order, the traps and the waits, and
where a granted access lies. That an access waits where the walker has no free request tag is log entry 17, and that a walk waits for a
scrub-pending stage-1 table is log entry 85; these, and the readings of log entries 42 and 104, are the model's. -/
def Obligations.AccessChecks : Prop := FirstChecks ∧ LocalGrants ∧ GlobalGrants ∧ FlintGrants

/-- R198, R173, R82, R89, R200: an AMO whose access is granted reads the old value and writes the new one, with nothing between them;
the write waits for what its releases wait for: elsewhere than at a die-local location that of its own order, and that of an earlier
FENCE.REL of its stream; a failed CAS writes nothing and waits for nothing. The destination takes the old value, zero-extended; where the
AMO acquires, no load of its stream that follows has performed before it. The readings of log entries 39 and 40 are the model's. -/
def Obligations.AtomicForms : Prop :=
  ∀ (i : Instr) (f : AmoForm) (s s1 t u w y : State) (z cap v : Val) (loc n : Nat), amoForm i = some f →
    (if f.cas then s.core.bound f.d = false ∧ readReg f.d s = .ok (z, s1) else z = ⟨0, false, false⟩ ∧ s1 = s) →
    readReg f.a s1 = .ok (cap, t) → readReg f.b t = .ok (v, u) →
    access (amoAcc cap f.a (if f.dw then 8 else 4) false) u = .ok (.runs [(loc, n)], w) →
    let m := if f.dw then 64 else 32
    let near := localDie loc == some (dieOfCore w.focus)
    let wide := f.scope == .mod || f.scope == .sys
    let scopes := (if (f.order == .rel || f.order == .acqrel) && !near then [f.scope] else []) ++ (owing w.core).toList
    let q := w.settleFor loc (m / 8)
    let old := q.mem.read loc (m / 8)
    let bad := q.mem.anyPoison loc (m / 8) || v.poison
    let r := match f.op old ((lo v).toNat % 2 ^ m) ((lo z).toNat % 2 ^ m) with
      | none => q
      | some x =>
        let q := scopes.foldl (fun (z : State) c => z.releaseFor z.focus c) q
        { q with mem := q.mem.store loc (m / 8) (x % 2 ^ m) bad false }.written (q.partOf q.focus) loc
    let r := loadMade r.tick loc (m / 8) { r with core := redeemed r.core }
    let r := if near || ((f.order == .acq || f.order == .acqrel) && wide) then acquired r else r
    writeReg f.d ⟨BitVec.ofNat 128 old, false, bad⟩ (paid (lo cap) r) = .ok ((), y) →
    exec i s = .next (y.complete 2 .seq)

/-- The window in which an SC operation of a core of a die waits to be applied (R84). -/
def Sys2Proof.Claims.scWindow (s : State) (die n : Nat) : Option Nat :=
  if dieOfCore n = die then
    match (s.getCore n).sc with
    | some o => if o.result = none then o.window else none
    | none => none
  else none

/-- The application of a core's SC operation (R84, R201, R63, R199): the old value is the result; what the function writes is poisoned
by the operand and, where it depends on the doubleword, by that. -/
def Sys2Proof.Claims.scApplyOne (s : State) (n : Nat) : State :=
  match (s.getCore n).sc with
  | none => s
  | some o =>
    let old := BitVec.ofNat 64 (s.mem.read o.loc 8)
    let bad := s.mem.poisoned o.loc
    let t := match scWrites o.fn old o.val with
      | none => s
      | some x => { s with mem := s.mem.store o.loc 8 x.toNat (if o.fn = 1 then o.poison else bad || o.poison) false }.written
          (s.partOf n) o.loc
    t.setCore n { t.getCore n with
      sc := some { o with result := some ⟨old.setWidth 128, false, if o.fn = 0 then bad else bad || o.poison⟩ } }

/-- R84, R201: an SC operation checks its access, empties the store buffer and waits, and the core's other stream waits with it, be it for
an SC operation of its own; presented, it joins the window of cycles in
which it stands; once it has its result the instruction completes with the value read. -/
def Sys2Proof.Claims.SequentialSteps : Prop :=
  ∀ (i : Instr) (f : ScForm) (s : State), scForm i = some f →
    (∀ t u w y cap v loc n, s.core.sc = none → readReg f.a s = .ok (cap, t) →
      (match f.b with
        | none => v = ⟨0, false, false⟩ ∧ u = t
        | some b => readReg b t = .ok (v, u)) →
      access (amoAcc cap f.a 8 true) u = .ok (.runs [(loc, n)], w) →
      (f.fn = 1 ∨ writeReg f.d ⟨0, false, false⟩ w = .ok ((), y)) →
      let q := paid (lo cap) (w.settleFor loc 8)
      exec i s = .next ({ q with core := { q.core with
        sc := some ⟨q.core.stream, f.fn, loc, lo v, v.poison, none, none⟩, early := besides q.core } }.complete 2 .wait)) ∧
    (∀ o, s.core.sc = some o → o.stream ≠ s.core.stream → exec i s = .next (s.stalledOn false)) ∧
    (∀ o, s.core.sc = some o → o.stream = s.core.stream → o.result = none → exec i s = .next (s.complete 2 .wait)) ∧
    (∀ o v t, s.core.sc = some o → o.stream = s.core.stream → o.result = some v →
      (let u : State := { s with core := { s.core with sc := none, loadAt := s.tick } }
       if f.fn = 1 then t = u else writeReg f.d v u = .ok ((), t)) →
      exec i s = .next (t.complete 2 .seq)) ∧
    (∀ c o, (s.getCore c).sc = some o → o.window = none →
      exec (.scPresent c) s = .next (s.setCore c { s.getCore c with sc := some { o with window := some ((s.clock - s.epoch) / 16) } }))

/-- R84, R201, R63: the windows of a die are applied in order: window w at cycle 16 (w + 8) of the die, once no operation of an
earlier one waits, and its operations in increasing order of core number, each reading its doubleword and writing what its function
says. -/
def Sys2Proof.Claims.SequentialOrder : Prop :=
  ∀ (s : State) (die w : Nat) (cores : List Nat), (s.others.map Prod.fst).Pairwise (· < ·) →
    ((∃ n ∈ s.coreNos, ∃ v, scWindow s die n = some v ∧ v < w) → exec (.scApply die w) s = .next s) ∧
    ((∀ n ∈ s.coreNos, ∀ v, scWindow s die n = some v → w ≤ v) → cores ≠ [] → cores.Pairwise (· < ·) →
      (∀ n, n ∈ cores ↔ n ∈ s.coreNos ∧ scWindow s die n = some w) →
      exec (.scApply die w) s = .next (cores.foldl scApplyOne { s with clock := Max.max s.clock (s.epoch + 16 * (w + 8)) }))

/-- R84, R201, R63: the SC operations, from their checks to their results, and the order in which they are applied. The readings of
log entries 34 and 40 are the model's. -/
def Obligations.SequentialForms : Prop := SequentialSteps ∧ SequentialOrder

/-- Whether a store of a core performs as it leaves the buffer (R80, R18): at a die-local location or in a line that the core holds. -/
def Sys2Proof.Claims.AtOnce (s : State) (e : StoreEntry) : Prop :=
  Near s e.loc ∨ (isMpa e.loc = true ∧ ∃ l, s.lines.find? (fun x => x.line == e.loc / 32 * 32) = some l ∧ l.holder = s.focus)

/-- Whether a store in flight must perform before a younger one of its core (R67, R89, R90): they share a byte, or the younger is a
release at SYSTEM scope, or at MODULE scope of a store that the module serves. -/
def Sys2Proof.Claims.mustPrecede (s : State) (older younger : StoreEntry) : Bool :=
  (decide (younger.loc < older.loc + older.bytes) && decide (older.loc < younger.loc + younger.bytes)) ||
    (match younger.rel with
     | some .sys => true
     | some .mod => !(decide (2 ^ 47 ≤ older.loc) && decide (older.loc < 2 ^ 48)) || older.alloc ||
         s.lines.any (fun l => l.line == older.loc / 32 * 32)
     | _ => false)

/-- R17 to R20, R67, R80, R88, R91, R222, R261, R343: the agents of the memory system: the oldest store of a buffer leaves it and
performs, travels, or goes to the register windows; a store in flight performs, at its line's holder where there is one; a directory
slice fills a line that nothing holds; a line leaves its cache, written back when it is dirty, by eviction or by CLFL; a host access
reads or writes at its location; the answer to an RREAD reaches its core, a failure with a cause of R222 (R60). The readings of log entries 40, 43, 45, 46 and 104 are the
model's. -/
def Obligations.MemoryAgents : Prop :=
  ∀ (s : State),
    let gone (s : State) (l : Line) : State :=
      let t := { s with lines := s.lines.filter fun x => !(x.line == l.line) }
      if l.dirty then t.homeWrite (s.partOf l.holder) l.line else t
    let held (s : State) (k : Nat) (l : Line) : Prop :=
      l.line = k / 32 * 32 ∧ s.lines.find? (fun x => x.line == k / 32 * 32) = some l
    (∀ e r, s.core.stores = e :: r → isMpa e.loc = false → Near s e.loc →
      (∀ f ∈ s.flight, f.core = s.focus → mustPrecede s f.store e = false) →
      exec (.storeBufferDrain (.leave s.focus)) s =
        .next { s with core := { s.core with stores := r }, mem := s.mem.perform e }) ∧
    (∀ e r l, s.core.stores = e :: r → held s e.loc l → isMpa e.loc = true → l.holder = s.focus → s.flight = [] →
      ∃ t : State, exec (.storeBufferDrain (.leave s.focus)) s = .next t ∧ t.core.stores = r ∧ t.flight = [] ∧
        t.mem = s.mem.perform e ∧ { l with dirty := true } ∈ t.lines) ∧
    (∀ e r, s.core.stores = e :: r → e.loc < 2 ^ 60 → ¬ AtOnce s e →
      exec (.storeBufferDrain (.leave s.focus)) s =
        .next { s with core := { s.core with stores := r }, flight := s.flight ++ [⟨s.focus, e⟩] }) ∧
    (∀ e r d off, s.core.stores = e :: r → e.loc = 2 ^ 60 + d * 2 ^ 32 + off → off < 2 ^ 32 →
      exec (.storeBufferDrain (.leave s.focus)) s =
        .next { s with core := { s.core with stores := r }, posted := s.posted ++ [(d, off, e.value.setWidth 64)] }) ∧
    (∀ f r, s.flight = f :: r → isMpa f.store.loc = false →
      exec (.storeBufferDrain (.perform 0)) s = .next { s with flight := r, mem := s.mem.perform f.store }) ∧
    (∀ f r l, s.flight = f :: r → isMpa f.store.loc = true → held s f.store.loc l →
      ∃ t : State, exec (.remoteWordAccess 0) s = .next t ∧ t.flight = r ∧ t.mem = s.mem.perform f.store ∧
        { l with dirty := true } ∈ t.lines) ∧
    (∀ n k fill, (s.homeOf (k / 32 * 32)).isSome → s.lines.all (fun l => l.line != k / 32 * 32) →
      ∃ t : State, exec (.directoryRequest n k fill) s = .next t ∧
        (if fill then ⟨k / 32 * 32, n, false⟩ ∈ t.lines else t.lines = s.lines)) ∧
    (∀ k l, held s k l → exec (.lineEviction l.holder k) s = .next (gone s l)) ∧
    (∀ a cap t u m n, ¬ inMessage s → readReg a s = .ok (cap, t) →
      access { loadAcc ⟨2, 0, a, 0, 0, true, false⟩ cap with ea := lo cap } t = .ok (.runs [(m, n)], u) →
      (∀ l, isMpa m = true → held u m l → l.holder = u.focus →
        exec (.clfl a) s = .next ((paid (lo cap) (gone u l)).complete 2 .seq)) ∧
      ((isMpa m = false ∨ ∀ l ∈ u.lines, l.line = m / 32 * 32 → l.holder ≠ u.focus) →
        exec (.clfl a) s = .next ((paid (lo cap) u).complete 2 .seq))) ∧
    (∀ fn mpa n, (s.homeOf mpa).isSome → mpa % n = 0 →
      exec (.hostAccess fn mpa n .read) s =
        .next { s with hostIn := some ⟨BitVec.ofNat 128 (s.mem.read mpa n), false, s.mem.anyPoison mpa n⟩ }) ∧
    (∀ fn mpa n v, (s.homeOf mpa).isSome → mpa % n = 0 →
      exec (.hostAccess fn mpa n (.write v)) s =
        .next ({ s with mem := s.mem.store mpa n (v.toNat % 2 ^ (8 * n)) false false }.written none mpa)) ∧
    (∀ n w a, (s.getCore n).rread = some w → w.answer = none → w.mod ∈ s.reach →
      (∀ c, a = .fails c → c ∈ [5, 6, 7, 25]) →
      exec (.rreadServe (.answer n a)) s = .next (s.setCore n { s.getCore n with rread := some { w with answer := some a } })) ∧
    (∀ n c, c ∉ [5, 6, 7, 25] → exec (.rreadServe (.answer n (.fails c))) s = .next s)

/-- R80, R197: the stores of a buffer leave it in program order: whatever a core's buffer holds, a drain step takes the oldest and
leaves the others as they stand. -/
def Sys2Proof.Claims.StoresLeaveInOrder : Prop :=
  ∀ (s : State) (n : Nat) (e : StoreEntry) (r : List StoreEntry), (s.getCore n).stores = e :: r →
    ∃ t : State, exec (.storeBufferDrain (.leave n)) s = .next t ∧ (t.getCore n).stores = r ∧
      ∀ m, m ≠ n → (t.getCore m).stores = (s.getCore m).stores

/-- R67, R88 to R90: a store in flight performs when its agent places it, ahead of older ones or not; but the older stores of its
core that it must follow, those of its own bytes and those that it releases, have performed before it, in their order. -/
def Sys2Proof.Claims.FlightOrder : Prop :=
  ∀ (s : State) (k : Nat) (f : Flight), s.flight[k]? = some f →
    ∃ (t : State) (gone : List Flight), exec (.storeBufferDrain (.perform k)) s = .next t ∧
      gone.Sublist (s.flight.take (k + 1)) ∧ gone.getLast? = some f ∧
      ((s.flight.take k).filter fun g => g.core == f.core && mustPrecede s g.store f.store).Sublist gone ∧
      t.flight.Sublist s.flight ∧ t.flight.length + gone.length = s.flight.length ∧
      t.mem = gone.foldl (fun m g => m.perform g.store) s.mem

/-- R4, R63, R67, R70, R80, R88 to R90, R194, R197: what a store writes when it performs, that a core's stores leave in program order
and keep the order of one location and of a release, and that a load sees the core's own. The reading of log entry 40 is the
model's. -/
def Obligations.StoreOrder : Prop := StoresPerform ∧ StoresLeaveInOrder ∧ FlightOrder ∧ StoreThenLoad

namespace Sys2Proof.Claims

open Sys2Proof.Machine

/-! ### Messages, END and ABORT -/

/-- Fields of a header (R33). -/
def hCore (h : DWord) : BitVec 20 := h.extractLsb' 0 20
def hMod (h : DWord) : BitVec 12 := h.extractLsb' 20 12
def hKind (h : DWord) : BitVec 3 := h.extractLsb' 32 3
def hLen (h : DWord) : Nat := (h.extractLsb' 43 3).toNat
def hCap (h : DWord) : Bool := h.getLsbD 46

/-- A send form whose words come from registers (R219): gA, gB, gD where it reads one, the kinds that it allows, whether it
carries a capability, whether its header names the destination. -/
structure SendSpec where
  a     : Reg
  b     : Reg
  d     : Option Reg
  kinds : List (BitVec 3)
  cap   : Bool
  dest  : Bool

def sendSpec : Instr → Option SendSpec
  | .send a b => some ⟨a, b, none, [0, 1, 2, 3, 7], false, true⟩
  | .sendc d a b => some ⟨a, b, some d, [0, 3, 7], true, true⟩
  | .post d a b => some ⟨a, b, some d, [0], false, false⟩
  | .mcast d a b => some ⟨a, b, some d, [0, 1, 3], false, true⟩
  | .sende a b => some ⟨a, b, none, [4], false, true⟩
  | _ => none

/-- The registers of the payload (R218). -/
def payload (f : SendSpec) (h : DWord) : List Reg :=
  ((List.range (hLen h)).filter fun k => f.b.toNat + k < 32).map fun k => BitVec.ofNat 5 (f.b.toNat + k)

/-- The first shared check of R218 that fails, for a form that reads registers, `n` words among them from gB up. -/
def firstSendFault (f : SendSpec) (regs : List Reg) (n : Nat) (s : State) : Option (Cause × DWord) :=
  let h := lo (s.core.reg f.a)
  match regs.find? s.core.bound, regs.find? fun r => (s.core.reg r).poison with
  | some r, _ => some (.bind, r.setWidth 64)
  | none, some r => some (.poison, r.setWidth 64)
  | none, none =>
    if !(f.kinds.contains (hKind h)) || (f.cap && !hCap h) then some (.send, h)
    else if hKind h == 7 && !s.core.csr.km then some (.priv, 0)
    else if 32 < f.b.toNat + n then some (.send, h)
    else if hCap h && (!f.cap || hLen h == 7) then some (.send, h)
    else if f.dest && hMod h != s.modnum && !s.reach.contains (hMod h) then some (.send, h)
    else none

/-- The same for a form whose words come from registers. -/
def sendFault (f : SendSpec) (s : State) : Option (Cause × DWord) :=
  let h := lo (s.core.reg f.a)
  firstSendFault f (f.a :: payload f h ++ f.d.toList) (hLen h) s

/-- What a send places: the header of its message, the capability, its destinations. -/
structure Sent where
  hdr   : DWord
  cap   : Option QWord
  dests : List (BitVec 12 × BitVec 20)

/-- What each form adds (R219, R220, R233): the trap of its own checks, or what it places. -/
def sendOwn (i : Instr) (s : State) (h : DWord) (words : List DWord) : Except (Cause × DWord) Sent :=
  match i with
  | .sendc d _ _ =>
    let v := s.core.reg d
    if !v.tag then .error (.captag, d.setWidth 64)
    else if !v.bits.getLsbD 121 then .error (.capperm, d.setWidth 64)
    else .ok ⟨h, some v.bits, [(hMod h, hCore h)]⟩
  | .post d _ _ =>
    let x := lo (s.core.reg d)
    match (s.partOf s.focus).bind fun p => s.owner p x.toNat with
    | none => .error (.nomap, x)
    | some n => .ok ⟨h.extractLsb' 32 32 ++ s.modnum ++ BitVec.ofNat 20 n, none, [(s.modnum, BitVec.ofNat 20 n)]⟩
  | .mcast d _ _ =>
    let x := lo (s.core.reg d)
    if x = 0 ∨ hMod h ≠ s.modnum then .error (.send, h)
    else .ok ⟨h, none, ((List.range 64).filter fun c => x.getLsbD c).map fun c =>
      (s.modnum, BitVec.ofNat 20 ((hCore h).toNat / 64 * 64 + c))⟩
  | .sende _ _ =>
    match s.core.lt.outs.toList.find? fun o => o.valid && o.mod == hMod h && o.core == hCore h, words with
    | some o, stamp :: _ =>
      if !s.core.lt.on then .error (.send, h)
      else if stamp.toNat < s.core.lt.promise.toNat + o.la.toNat then .error (.lookahead, stamp)
      else .ok ⟨h, none, [(hMod h, hCore h)]⟩
    | _, _ => .error (.send, h)
  | _ => .ok ⟨h, none, [(hMod h, hCore h)]⟩

/-- The frame for whose scrub a send to another module waits before it takes the links of its chain (R104, R332). -/
def sendWaits (s : State) (h : DWord) : Option Nat :=
  if hMod h = s.modnum then none
  else (s.partOf s.focus).bind fun p => s.heldAt p (entryAt s p (s.core.chn.extractLsb' 0 16).toNat)

/-- An entry of the send buffer for a message of the running task, its ignored header bit zero (R5, R33), with its trailer as it stands at
the send (R34, R104). -/
def sendEntry (s : State) (words : List DWord) (poison : Bool) (x : Sent) : SendEntry :=
  let p := (s.partOf s.focus).getD 0
  { order := s.core.orders, released := false, back := none,
    copies := x.dests.map fun d => ⟨d.1, d.2, 0, .ready⟩,
    body := .msg
      { hdr := x.hdr &&& 0xFFFF7FFFFFFFFFFF, words := words, cap := x.cap, poison := poison, waited := 0, free := false,
        env := (0 : BitVec 8) ++ BitVec.ofNat 8 p ++ s.core.chn.extractLsb' 0 16 ++ s.modnum ++ BitVec.ofNat 20 s.focus,
        work := match s.core.task with
          | some k => k.work
          | none => 0
        launch := match s.core.task with
          | some k => k.ltag.setWidth 64
          | none => 0
        links := if hMod x.hdr = s.modnum then [] else (s.chain p (s.core.chn.extractLsb' 0 16).toNat).getD [] } }

/-- The end of a send (R38, R116, R218): the seventeenth of a task traps, a full buffer waits, else the entry is placed and
priced. -/
def Places (i : Instr) (s t : State) (h : DWord) (e : SendEntry) : Prop :=
  let held := t.core.sendBuf.countP fun x => !x.released
  if 16 ≤ held then TrapsWith i s .send h
  else if 16 ≤ t.core.sendBuf.length then
    exec i s = .next { s with waiting := true, core := { s.core with stalled := true, turn := .body } }
  else
    let x := t.core.csr.charge (t.core.csr.price0.extractLsb' 32 16).toNat
    exec i s = .next ({ t with core := { t.core with
      sendBuf := t.core.sendBuf ++ [e], orders := t.core.orders + 1, csr := x } }.complete 2 .seq)

/-- A held send as END sends it: a CLOCK goes to every output channel that is then valid (R232), and a launch request stands under the
sender's chain of that moment (R221). -/
def addressed (s : State) (e : SendEntry) : SendEntry :=
  match e.body with
  | .msg m =>
    if hKind m.hdr = 5 then
      { e with copies := (s.core.lt.outs.toList.filter fun o => o.valid).map fun o => ⟨o.mod, o.core, 0, .ready⟩ }
    else e
  | .launch die tag (w :: ws) =>
    let first := (w &&& 0xFFFF0000FFFFFFFF) ||| ((s.core.chn.extractLsb' 0 16).setWidth 64 <<< 32)
    { e with body := .launch die tag (first :: ws) }
  | _ => e

/-- The sends that END releases, in program order (R38). -/
def heldSends (s : State) : List SendEntry := (s.core.sendBuf.filter fun e => !e.released).map (addressed s)

/-- How far a send carries END's release (R85, R89, R95): 1 within the die, 2 within the module, 3 beyond it and toward an engine. -/
def reachOf (s : State) (e : SendEntry) : Nat :=
  match e.body with
  | .engine _ => 3
  | .launch die _ _ => if die = dieOfCore s.focus then 1 else 2
  | .msg _ => (e.copies.map fun c =>
      if c.dmod ≠ s.modnum then 3 else if dieOfCore c.dcore.toNat ≠ dieOfCore s.focus then 2 else 1).foldl Max.max 0

/-- How far END's release reaches. -/
def endReach (s : State) : Nat := ((heldSends s).map (reachOf s)).foldl Max.max 0

/-- The send buffer after the sends that it holds have been released from an order and a send number on (R33, R38): every message but a
COUNT takes the next send number, one without a destination is gone at once, and an engine command has gone to its streamer. -/
def releasedFrom : List SendEntry → Nat → BitVec 16 → List SendEntry
  | [], _, _ => []
  | e :: r, n, seq =>
    if e.released then e :: releasedFrom r n seq
    else
      match e.body with
      | .msg m =>
        let rest := releasedFrom r (n + 1) (if hKind m.hdr = 1 then seq else seq + 1)
        if e.copies = [] then rest
        else { e with order := n, released := true,
                      body := .msg { m with hdr := if hKind m.hdr = 1 then m.hdr else seq ++ m.hdr.extractLsb' 0 48 } } :: rest
      | .engine _ => releasedFrom r (n + 1) seq
      | .launch .. => { e with order := n, released := true } :: releasedFrom r (n + 1) seq

/-- The engine commands among sends. -/
def engineCmds (l : List SendEntry) : List EngCmd := l.filterMap fun e => match e.body with
  | .engine c => some c
  | _ => none

/-- The messages that take a send number among sends. -/
def numberedSends (l : List SendEntry) : Nat := l.countP fun e => match e.body with
  | .msg m => hKind m.hdr != 1
  | _ => false

/-- The split of a charge of a partition along the chain of a handle (R118): the floors of the shares, the last link taking the
remainder, each added to its principal's account; where the handle is not usable, all of it to the account of principal 1. -/
def splitOf (s : State) (p h m : Nat) : State :=
  let bill (t : State) (q amount : Nat) : State :=
    let a := (t.part p).acbase.toNat + 8 * q
    if amount = 0 then t else t.setGuestWord p a (t.guestWord p a + BitVec.ofNat 64 amount)
  match s.chain p h with
  | none => bill s 1 m
  | some ls =>
    let floors := ls.map fun l => m * l.2 / 65536
    (List.range ls.length).foldl (fun t k =>
      let f := floors[k]?.getD 0
      bill t ((ls[k]?.map Prod.fst).getD 0) (if k + 1 = ls.length then f + (m - floors.sum) else f)) s

/-- Doublewords of bytes, little-endian. -/
def dwords (v n : Nat) : List DWord := (List.range n).map fun k => BitVec.ofNat 64 (v / 2 ^ (64 * k))

end Sys2Proof.Claims

/-- R38, R218 to R220, R233, R34: SEND, SENDC, POST, MCAST and SENDE make their checks in order, trap with the first that fails,
and place one entry with the message, its trailer and its destinations; to another module the send waits while its chain's entry lies in a
frame that is scrub-pending. The readings of log entries 65, 85 and 115 are the model's. -/
def Obligations.MessageForms : Prop :=
  ∀ (i : Instr) (f : SendSpec) (s : State), sendSpec i = some f → Plain s →
    let h := lo (s.core.reg f.a)
    let words := (payload f h).map fun r => lo (s.core.reg r)
    match sendFault f s with
    | some x => TrapsWith i s x.1 x.2
    | none =>
      match sendOwn i s h words with
      | .error x => TrapsWith i s x.1 x.2
      | .ok x => match sendWaits s x.hdr with
        | some f => AwaitsScrub i s f
        | none => Places i s s h (sendEntry s words false x)

/-- R218, R219, R221, R222: SENDD places words that it loads at issue, and SENDK a launch request under the sender's chain;
RREAD of the own module loads as LDNA.D does, and of another waits and then completes with the value, or traps with the cause
that came back. The readings of log entries 46, 64, 85, 124 and 125 are the model's. -/
def Obligations.MemoryMessageForms : Prop :=
  ∀ (s : State) (a b d : Reg), Plain s →
    let h := lo (s.core.reg a)
    let cap := s.core.reg b
    let acc (n al : Nat) : Acc := { cap := cap, num := b, ea := lo cap, n := n, need := ⟨true, false, false, false⟩, align := some al,
                                    window := true, noGlob := none, local_ := false }
    let sendd : SendSpec := ⟨a, b, none, [0, 1, 2, 3, 7], false, true⟩
    (∀ x, firstSendFault sendd [a, b] 0 s = some x → TrapsWith (.sendd a b) s x.1 x.2) ∧
    (firstSendFault sendd [a, b] 0 s = none →
      (hLen h = 0 → match sendWaits s h with
        | some f => AwaitsScrub (.sendd a b) s f
        | none => Places (.sendd a b) s s h (sendEntry s [] false ⟨h, none, [(hMod h, hCore h)]⟩)) ∧
      (∀ p t u x, hLen h ≠ 0 → access (acc (8 * hLen h) 8) s = .ok (p, t) → loadPlace p.cut true b t = .ok (x, u) →
        match sendWaits (paid (lo cap) u) h with
        | some f => AwaitsScrub (.sendd a b) s f
        | none => Places (.sendd a b) s (paid (lo cap) u) h
            (sendEntry (paid (lo cap) u) (dwords x.value (hLen h)) x.poison ⟨h, none, [(hMod h, hCore h)]⟩))) ∧
    (s.core.bound a = false → s.core.bound b = false → (s.core.reg a).poison = false → cap.poison = false →
      ∀ p t u x, access (acc 64 16) s = .ok (p, t) → loadPlace p.cut true b t = .ok (x, u) →
        let w0 := BitVec.ofNat 64 x.value
        (x.value % 16 = 2 ∨ x.value % 16 = 3 → Places (.sendk a b) s (paid (lo cap) u) h
          { order := (paid (lo cap) u).core.orders, released := false, copies := [], back := none,
            body := .launch (h.toNat % 4) (match s.core.task with
              | some k => k.ltag
              | none => 0) (dwords x.value 8) }) ∧
        (x.value % 16 ≠ 2 → x.value % 16 ≠ 3 → TrapsWith (.sendk a b) s .send w0)) ∧
    (∀ w v p t, s.core.rread = some w → w.answer = some (.value v p) →
      let x := s.core.csr.charge (s.core.csr.price0.extractLsb' 16 16).toNat
      writeReg d ⟨v.setWidth 128, false, p⟩ { s with core := { s.core with rread := none, loadAt := s.tick, csr := x } } = .ok ((), t) →
      exec (.rread d a b) s = .next (t.complete 2 .seq)) ∧
    (∀ w c, s.core.rread = some w → w.answer = some (.fails c) →
      exec (.rread d a b) s = .next (takeTrap ⟨c, w.addr, none, none, none⟩ s)) ∧
    (∀ w, s.core.rread = some w → w.answer = none → exec (.rread d a b) s = .next (s.complete 2 .wait)) ∧
    (∀ t u v, s.core.rread = none → s.core.bound a = false → s.core.bound b = false → (s.core.reg a).poison = false →
      firstFault { acc 8 8 with align := none } s = none → 2 ^ 48 ≤ (lo cap).toNat → (lo cap).toNat < 2 ^ 49 →
      h.extractLsb' 0 12 = s.modnum →
      loadVal cap b (lo cap) 3 false s = .ok (v, t) → writeReg d v t = .ok ((), u) →
      exec (.rread d a b) s = .next (u.complete 2 .seq)) ∧
    (s.core.rread = none → s.core.bound a = false → s.core.bound b = false → s.core.bound d = false →
      (s.core.reg a).poison = false →
      firstFault { acc 8 8 with align := none } s = none → 2 ^ 48 ≤ (lo cap).toNat → (lo cap).toNat < 2 ^ 49 →
      h.extractLsb' 0 12 ≠ s.modnum →
      exec (.rread d a b) s =
        .next ({ s with core := { s.core with rread := some ⟨h.extractLsb' 0 12, lo cap, none⟩ } }.complete 2 .wait))

/-- R118: a charge settled along a handle is the split of it. -/
def Sys2Proof.Claims.MeterSplit : Prop :=
  ∀ (s : State) (p h m : Nat), s.settle (some p) h m = splitOf s p h m

/-- What END and ABORT leave of the running task (R223, R224, R116). -/
def Sys2Proof.Claims.coreGivenBack (s t : State) : Prop :=
  t.core.task = none ∧ t.core.csr.km = false ∧ t.core.binds = [] ∧ t.core.rep = none ∧
    t.core.aqs = Vector.replicate 4 [] ∧ t.core.regs = s.core.regs ∧ t.core.kregs = s.core.kregs ∧
    t.core.csr.instret = s.core.csr.instret + 1 ∧ t.core.mxFault = none ∧
    (∀ k n, s.core.task = some k → k.trigger = .slot n → t.core.inbox = s.core.inbox.setIfInBounds n none) ∧
    (∀ k n, s.core.task = some k → k.trigger = .event n → t.core.evq = s.core.evq.setIfInBounds n none)

/-- R223, R224, R38, R33, R78, R85, R89, R95, R118, R247: END performs its releases as far as its sends reach, releases the task's
sends in program order, each message but a COUNT with the next send number, gives engine commands to streamers in that order, splits
the meter, lets go of the bindings, frees the trigger and gives the core back. An announcement without a destination uses up a send
number too (log entry 122). ABORT discards the sends that it finds and keeps the stores. END with a pending matrix failure traps MXFAULT.
The readings of log entries 18 and 61 are the model's. -/
def Sys2Proof.Claims.EndAndAbort : Prop :=
  ∀ (s : State) (i : Instr), i = .endTask ∨ i = .cEnd ∨ i = .abort → Plain s → s.core.csr.km = false →
    let meter := (s.core.csr.meter + BitVec.ofNat 64 ((s.core.csr.price0.extractLsb' 0 16).toNat)).toNat
    let split (u : State) : State := match u.partOf u.focus with
      | none => u
      | some p => splitOf u p (s.core.chn.extractLsb' 0 16).toNat meter
    (∀ e, i ≠ .abort → s.core.mxFault = some e → TrapsWith i s .mxfault e) ∧
    (i = .abort → ∃ t : State, exec i s = .next t ∧ coreGivenBack s t ∧
      t.core.sendBuf = s.core.sendBuf.filter (fun e => e.released) ∧ t.core.stores = s.core.stores ∧
      t.core.sendNo = s.core.sendNo ∧ t = { split s with core := t.core }) ∧
    (i ≠ .abort → s.core.mxFault = none → ∃ t u : State, exec i s = .next t ∧ coreGivenBack s t ∧
      t.core.sendBuf = releasedFrom (s.core.sendBuf.map fun e => if e.released then e else addressed s e) s.core.orders s.core.sendNo ∧
      t.core.sendNo = s.core.sendNo + BitVec.ofNat 16 (numberedSends (heldSends s)) ∧
      t.core.orders = s.core.orders + (heldSends s).length ∧
      t.jobs.take s.jobs.length = s.jobs ∧ (t.jobs.drop s.jobs.length).map (fun j => j.cmd) = engineCmds (heldSends s) ∧
      (endReach s = 0 → t.core.stores = s.core.stores ∧ t.flight = s.flight ∧ u.mem = s.mem) ∧
      (1 ≤ endReach s → t.core.stores = []) ∧
      (endReach s = 2 → ∀ f ∈ t.flight, f.core = s.focus → 2 ^ 47 ≤ f.store.loc ∧ f.store.loc < 2 ^ 48) ∧
      (endReach s = 3 → ∀ f ∈ t.flight, f.core ≠ s.focus) ∧
      (1 ≤ endReach s → LocalStores s → (∀ f ∈ s.flight, f.core ≠ s.focus) →
        t.flight = s.flight ∧ u.mem = s.core.stores.foldl Memory.perform s.mem) ∧
      t = { split u with core := t.core })

/-- R223, R224, R38, R33, R78, R85, R89, R95, R118, R247: END and ABORT: releases, sends, the split of the meter, and what becomes of
the core. The readings of log entries 18, 61 and 122 are the model's. -/
def Obligations.TaskEnds : Prop := MeterSplit ∧ EndAndAbort

namespace Sys2Proof.Claims

open Sys2Proof.Machine

/-! ### Accumulator records and the matrix engine -/

/-- A record with an integer and a status added (R136): VAL modulo 2^640, RANGE where the exact sum leaves the range. -/
def withTerm (r : Record) (k : Int) (st : BitVec 4) : Record :=
  let x := r.val.toInt + k
  ⟨BitVec.ofInt 640 x, r.status ||| st ||| (if -(2 ^ 639 : Int) ≤ x ∧ x < 2 ^ 639 then 0 else 8)⟩

/-- The terms of an operand's lanes (R254). -/
def addends (fmt : AccFmt) (n : Nat) (v : Val) : List Term := (lanesOf (accFmtW fmt) n v.bits).map fun x => termOf (accFmtVal fmt x)

/-- A form that adds terms to records one behind the other (R254): its registers in the order of R153 with the place of the
position among them, its terms and whether a poisoned register makes them so. -/
structure AddForm where
  w      : BitVec 4
  srcs   : List Reg
  pos    : Nat
  terms  : List Val → List Term
  poison : List Val → Bool

def addForm : Instr → Option AddForm
  | .accadd w a b fmt => some ⟨w, [a, b], 0, fun vs => addends fmt 1 (vs[1]?.getD Val.zero), fun vs => (vs[1]?.getD Val.zero).poison⟩
  | .accaddv w a b fmt => some ⟨w, [a, b], 0, fun vs => addends fmt (128 / accFmtW fmt) (vs[1]?.getD Val.zero),
      fun vs => (vs[1]?.getD Val.zero).poison⟩
  | .accfma w d a b => some ⟨w, [d, a, b], 1,
      fun vs => (lanesOf 16 8 (vs[2]?.getD Val.zero).bits).map fun y =>
        termMul (fp32.val ((vs[0]?.getD Val.zero).bits.toNat % 2 ^ 32)) (bf16.val y),
      fun vs => (vs[0]?.getD Val.zero).poison || (vs[2]?.getD Val.zero).poison⟩
  | _ => none

/-- Records updated in turn, their position in a register: each is read and written as its parts (R253). -/
def updated (num : Reg) : List (Nat × Term) → Bool → Ex Unit
  | [], _ => pure ()
  | (o, t) :: r, poison => do
    let x ← readRecord o num
    writeRecord o (withTerm x.1 t.int t.status) (poison || x.2) x.2
    updated num r poison

/-- The offset of a record from a position in a window (R253). -/
def recordAt (s : State) (w : BitVec 4) (pos : DWord) (i j : Nat) : Nat :=
  let d := s.core.windows[w.toNat]?.getD 0
  (d.extractLsb' 0 15).toNat + ((pos.extractLsb' 0 16).toNat + i) * (d.extractLsb' 44 16).toNat +
    96 * ((pos.extractLsb' 16 16).toNat + j)

/-- The single-copy atomic pieces of a place (R66). -/
def pieces (p : Place) : List (Nat × Nat) :=
  match p.cut with
  | .runs l => l
  | _ => []

/-- The completion specification and offsets of an MMA checked at issue (R248): the REASON of the first check that fails but
for the fitting. -/
def mmaReason (s : State) (wa wc : BitVec 4) (offs : DWord) (k : Nat) : Option Nat :=
  let a := s.core.windows[wa.toNat]?.getD 0
  let c := s.core.windows[wc.toNat]?.getD 0
  let f (n : Nat) : Nat := (offs.extractLsb' n 16).toNat
  if !operandFmt (winFmt a) then some 1
  else if winFmt c ≠ 12 then some 2
  else if winRows a ≤ f 0 + 7 ∨ winCols a ≤ f 16 + k - 1 then some 3
  else if winRows c ≤ f 32 + 7 ∨ winCols c ≤ f 48 + 7 then some 4
  else if (blockBytes a (f 0) 8 (f 16) k).any (fun e => decide (0x8000 < e.1 + e.2)) ||
      (blockRecords c (f 32) 8 (f 48) 8).any (fun o => o % 16 != 0 || decide (0x8000 < o + 96)) then some 5
  else none

/-- EVAL of a matrix failure (R246). -/
def mxWord (reason : Nat) (addr : BitVec 32) (cpc : BitVec 12) (sub : BitVec 4) : DWord :=
  addr ++ (0 : BitVec 4) ++ cpc ++ (0 : BitVec 4) ++ sub ++ BitVec.ofNat 8 reason

/-- A matrix command of the running core (R245). -/
def mxCmd (s : State) (op : MxOp) (sub : BitVec 4) : MxCmd :=
  { op := op, chain := s.core.chn.extractLsb' 0 16, cpc := pcOf s, sub := sub,
    task := match s.core.task with
      | some k => k.number
      | none => 0
    ltag := match s.core.task with
      | some k => k.ltag
      | none => 0 }

/-- The engine of a core's seam (R251, R252); before it has served any, the model's choice stands (log entry 116). -/
def engineOf (s : State) (n : Nat) : Seam := (alookup (n / 8) s.seams).getD ⟨7, 0, 0⟩

/-- The state with a command at the end of the running core's queue; a BROT that comes to the head notes the cycle, and the cycles of
trap service counted by then (R252). -/
def queued (s : State) (op : MxOp) (sub : BitVec 4) : State :=
  let l := s.core.mxq ++ [mxCmd s op sub]
  let plain : State := { s with core := { s.core with mxq := l } }
  match l with
  | [] => plain
  | q :: r =>
    match q.op with
    | .brot none sent =>
      let e := engineOf s s.focus
      { s with seams := aset (s.focus / 8) e s.seams,
               core := { s.core with mxq := { q with op := .brot (some (s.clock, e.service)) sent } :: r } }
    | _ => plain

/-- The state in which the core's buffered stores to its own TCM, where there are any, have left (R76). -/
def seen (s : State) : State :=
  if s.core.stores.any (fun e => decide (2 ^ 48 ≤ e.loc) && decide (e.loc < 2 ^ 52) && (e.loc - 2 ^ 48) / 65536 == s.focus) then
    s.drain s.focus
  else s

/-- Row and column of operand element x = 64 t + 8 i + k of an MMA, k of step t (R248). -/
def elemRow (m : Mma) (x : Nat) : Nat := (m.offs.extractLsb' 0 16).toNat + x % 64 / 8
def elemCol (m : Mma) (x : Nat) : Nat := (m.offs.extractLsb' 16 16).toNat + 8 * (x / 64) + x % 8

/-- The elements that have not been read. -/
def elemsLeft (m : Mma) : List Nat := (List.range (64 * (m.ks + 1))).filter fun x => !(m.got.any fun g => g.1 == x)

/-- The watermark that holds back an operand element, with the offset (R97). -/
def heldBack (c : Core) (m : Mma) (x : Nat) : Option (Nat × Watermark) := c.blockedBy (blockBytes m.wa (elemRow m x) 1 (elemCol m x) 1)

/-- Whether a core's head command has a step that may issue (R251). -/
def stepWaits (c : Core) : Bool :=
  match c.mxq.head?.map MxCmd.op with
  | some (.mma m) => decide (m.step ≤ m.ks) && (elemsLeft m).any fun x => (heldBack c m x).isNone
  | _ => false

/-- What the arbiter serves next (R251): the visited core while its visit lasts and it has a step ready; else, from the core after it in
ring order, the first with a step ready, for as many steps as its weight says. -/
def served (s : State) (n : Nat) : Option (Nat × Nat) :=
  let e := engineOf s n
  let ready (k : Nat) : Bool := stepWaits (s.getCore (n / 8 * 8 + k % 8))
  if 0 < e.left ∧ ready e.served then some (e.served, e.left - 1)
  else (((List.range 8).map fun k => (e.served + 1 + k) % 8).find? ready).map fun k =>
    (k, (s.getCore (n / 8 * 8 + k % 8)).weight.toNat - 1)

/-- What the reading of operand element x makes of an MMA at the head of the queue (R248, R77, R129): its value is kept; with the last one
every record's terms are summed. -/
def elementRead (s : State) (q : MxCmd) (r : List MxCmd) (m : Mma) (x : Nat) (t : State) : Prop :=
  let u := seen s
  let v := u.element s.focus m.wa (elemRow m x) (elemCol m x)
  let got := (x, v.1) :: m.got
  let m' := { m with got := got, range := m.range || v.2,
                     poison := m.poison || u.blockPoison s.focus m.wa (elemRow m x) 1 (elemCol m x) 1 }
  let latch := s.core.latch
  t.mem = u.mem ∧
  (m.got.length + 1 < 64 * (m.ks + 1) → t.core.mxq = { q with op := .mma { m' with step := (m.got.length + 1) / 64 } } :: r) ∧
  (64 * (m.ks + 1) ≤ m.got.length + 1 → ∃ sums : List Partial,
    let ks := List.range (8 * (m.ks + 1))
    let term (i j k : Nat) : Term := termMul (valE8M10 ((alookup (64 * (k / 8) + 8 * i + k % 8) got).getD 0))
      (valE8M10 (latch.vals[8 * k + j]?.getD 0))
    t.core.mxq = { q with op := .mma { m' with
      got := [], step := m.ks + 1, sums := sums, poison := m'.poison || ks.any fun k => latch.poison.getLsbD k } } :: r ∧
    sums.length = 64 ∧
    ∀ i j, i < 8 → j < 8 → sums[8 * i + j]? = some
      ⟨(ks.map fun k => (term i j k).int).sum, ks.foldl (fun st k => st ||| (term i j k).status) 0⟩)

/-- The location of record k of an MMA: (i, j) at 8 i + j (R248, R136). -/
def recordPlace (n : Nat) (m : Mma) (k : Nat) : Nat :=
  2 ^ 48 + 65536 * n + ((m.wc.extractLsb' 0 15).toNat + ((m.offs.extractLsb' 32 16).toNat + k / 8) *
    (m.wc.extractLsb' 44 16).toNat + 96 * ((m.offs.extractLsb' 48 16).toNat + k % 8))

/-- Memory with the six parts of a record written (R253). -/
def withRecord (mem : Memory) (a : Nat) (r : Record) (bad : Bool) : Memory :=
  (List.range 6).foldl (fun mem h =>
    mem.store (a + 16 * h) 16 (BitVec.ofNat 128 ((r.val.toNat + 2 ^ 640 * r.status.toNat) / 2 ^ (128 * h))).toNat bad false) mem

/-- Memory with the sums of an MMA added to its records, one record after the other (R136, R138, R248). -/
def sumsAdded (n : Nat) (m : Mma) (mem : Memory) : Memory :=
  (List.range m.sums.length).foldl (fun mem k =>
    let a := recordPlace n m k
    let p := m.sums[k]?.getD ⟨0, 0⟩
    let old : Record := ⟨BitVec.ofNat 640 (mem.read a 96), BitVec.ofNat 4 (mem.read a 96 / 2 ^ 640)⟩
    withRecord mem a (withTerm old p.sum (p.status ||| (if m.range then 8 else 0))) (m.poison || mem.anyPoison a 96)) mem

/-- The price of an MMA's steps (R116, R248). -/
def stepPrice (n : Nat) (s : State) : State :=
  { s with core := { s.core with csr := s.core.csr.charge (n * (s.core.csr.price0.extractLsb' 48 16).toNat) } }

end Sys2Proof.Claims

/-- R253, R254, R135 to R137: past the checks of R253 the accumulator instructions read, change and write records: ACCADD,
ACCADDV and ACCFMA add terms, ACCCLR clears, ACCCMB adds one record into another or doubles one (R143), ACCRND rounds one, ACCST
copies one. -/
def Sys2Proof.Claims.AccumulatorInstructions : Prop :=
  (∀ (i : Instr) (f : AddForm) (s t u x : State) (vs : List Val) (p : Val),
    addForm i = some f → readAll f.srcs s = .ok (vs, t) → vs[f.pos]? = some p → p.poison = false →
    accRecords f.w [⟨f.srcs[f.pos]?.getD 0, lo p, (List.range (f.terms vs).length).map fun l => (0, l), ⟨true, true, false, false⟩⟩] t =
      .ok ((), u) →
    updated (f.srcs[f.pos]?.getD 0) (((List.range (f.terms vs).length).map fun l => recordAt u f.w (lo p) 0 l).zip (f.terms vs)) (f.poison vs) u = .ok ((), x) →
    exec i s = .next (x.complete 2 .seq)) ∧
  (∀ (w : BitVec 4) (a b : Reg) (s t u : State) (p q : Val), readAll [a, b] s = .ok ([p, q], t) → p.poison = false →
    let m := Max.max 1 ((lo q).extractLsb' 0 8).toNat
    let n := Max.max 1 ((lo q).extractLsb' 8 8).toNat
    let grid := (List.range m).flatMap fun i => (List.range n).map fun j => (i, j)
    (∀ x, accRecords w [⟨a, lo p, grid, ⟨true, true, false, false⟩⟩] t = .ok ((), u) →
      (grid.forM fun g => writeRecord (recordAt u w (lo p) g.1 g.2) ⟨0, 0⟩ false false) u = .ok ((), x) →
      exec (.accclr w a b) s = .next (x.complete 2 .seq)) ∧
    (∀ x y z v, q.poison = false →
      accRecords w [⟨a, lo p, [(0, 0)], ⟨true, true, false, false⟩⟩, ⟨b, lo q, [(0, 0)], ⟨true, false, false, false⟩⟩] t = .ok ((), u) →
      readRecord (recordAt u w (lo p) 0 0) a u = .ok (v, x) → ∀ r, readRecord (recordAt u w (lo q) 0 0) b x = .ok (r, y) →
      writeRecord (recordAt u w (lo p) 0 0)
        (if recordAt u w (lo q) 0 0 = recordAt u w (lo p) 0 0 then ⟨BitVec.ofInt 640 (2 * v.1.val.toInt), v.1.status⟩
          else withTerm v.1 r.1.val.toInt r.1.status) (v.2 || r.2) (v.2 || r.2) y = .ok ((), z) →
      exec (.acccmb w a b) s = .next (z.complete 2 .seq)) ∧
    (∀ x l y, q.poison = false → accRecords w [⟨a, lo p, [(0, 0)], ⟨true, false, false, false⟩⟩] t = .ok ((), u) →
      access { cap := q, num := b, ea := lo q, n := 96, need := ⟨false, true, false, false⟩, align := some 16, window := true,
               noGlob := none, local_ := false } u = .ok (.runs l, x) →
      (pieces (.runs l)).length = 6 →
      ((((List.range 6).map fun k => 2 ^ 48 + 65536 * x.focus + recordAt x w (lo p) 0 0 + 16 * k).zip (pieces (.runs l))).forM fun c => do
        let v ← loadRun c.1 16 false a
        storeRuns v.value v.poison false true [c.2]) x = .ok ((), y) →
      exec (.accst w a b) s = .next ((paid (lo q) y).complete 2 .seq))) ∧
  (∀ (d b : Reg) (w : BitVec 4) (fmt : AccTarget) (md : RMode) (s t u x y : State) (p : Val) (v : Record × Bool),
    readReg b s = .ok (p, t) → p.poison = false → accRecords w [⟨b, lo p, [(0, 0)], ⟨true, false, false, false⟩⟩] t = .ok ((), u) →
    readRecord (recordAt u w (lo p) 0 0) b u = .ok (v, x) →
    let r := accRound u.core.tblA u.core.tblB v.1 fmt md
    writeReg d ⟨r.1.setWidth 128, false, v.2⟩ (flagged x r.2) = .ok ((), y) →
    exec (.accrnd d w b fmt md) s = .next (y.complete 2 .seq))

/-- R253: what is read of a record and what is written: its 96 bytes in the core's own TCM, as six stores of 16 bytes of which
five carry VAL and one the status; and the checks in their order. -/
def Sys2Proof.Claims.RecordParts : Prop :=
  (∀ (s t : State) (o : Nat) (r : Record) (v st : Bool), s.core.stores = [] → s.flight = [] → owing s.core = none →
    writeRecord o r v st s = .ok ((), t) →
    let base := 2 ^ 48 + 65536 * s.focus + o
    t.core.stores = ((List.range 6).map fun k =>
      (⟨base + 16 * k, 16, BitVec.ofNat 128 ((r.val.toNat + 2 ^ 640 * r.status.toNat) / 2 ^ (128 * k)), if k = 5 then st else v, false,
        false, none⟩ : StoreEntry)) ∧
    t.mem = s.mem) ∧
  (∀ (s : State) (o : Nat) (num : Reg), s.core.stores = [] → s.flight = [] → s.core.early = [] →
    let base := 2 ^ 48 + 65536 * s.focus + o
    readRecord o num s = .ok ((⟨BitVec.ofNat 640 (s.mem.read base 96), BitVec.ofNat 4 (s.mem.read base 96 / 2 ^ 640)⟩,
      s.mem.anyPoison base 96), { s with core := { s.core with loadAt := Max.max s.core.loadAt s.tick } })) ∧
  (∀ (s : State) (w : BitVec 4) (a : Reg) (pos : DWord) (i j : Nat) (n : Need),
    let d := s.core.windows[w.toNat]?.getD 0
    let o := recordAt s w pos i j
    let f (c : Cause) (e : DWord) : Prop := accRecords w [⟨a, pos, [(i, j)], n⟩] s = .error (.trap ⟨c.code, e, none, none, none⟩)
    if winFmt d ≠ 12 then f .nomap (w.setWidth 64)
    else if winRows d ≤ (pos.extractLsb' 0 16).toNat + i ∨ winCols d ≤ (pos.extractLsb' 16 16).toNat + j then f .nomap pos
    else if o % 16 ≠ 0 then f .align (BitVec.ofNat 64 o)
    else if 0x8000 < o + 96 then f .nomap (BitVec.ofNat 64 o)
    else s.core.csr.km = true → (∀ m ∈ s.core.wms.toList, m.len = 0) → s.core.stream ∉ s.core.marked →
      accRecords w [⟨a, pos, [(i, j)], n⟩] s = .ok ((), s))

/-- R245 to R251: MMA makes its checks, enters its command with its descriptors, offsets and completion specification or records
the failure, and is priced either way; BROT and MXSPILL enter; a full queue makes them wait, a pending fault keeps them out;
BLOAD fills the latch or traps, an element that it has read ahead keeping what it read (R77, R129); MXWAIT and C.MXWAIT wait for the queue,
acquire, and then trap a pending fault. The readings of log entries 52, 55, 85 and 120 are the model's. -/
def Obligations.MatrixForms : Prop :=
  ∀ (s : State), Plain s →
    let full := 4 ≤ s.core.mxq.length
    let waits (i : Instr) : Prop :=
      exec i s = .next { s with waiting := true, core := { s.core with stalled := true, turn := .body } }
    (∀ i op sub, (i = .brot ∧ op = MxOp.brot none false ∧ sub = (2 : BitVec 4)) ∨ (i = .mxspill ∧ op = .spill ∧ sub = 4) →
      (full → waits i) ∧
      (¬ full → exec i s = .next ((if s.core.mxFault.isSome then s else queued s op sub).complete 2 .seq))) ∧
    (∀ i len, (i = .mxwait ∧ len = 2) ∨ (i = .cMxwait ∧ len = 1) →
      (s.core.mxq ≠ [] → waits i) ∧
      (s.core.mxq = [] → s.core.mxFault = none → exec i s = .next ((acquired s).complete len .seq)) ∧
      (∀ e, s.core.mxq = [] → s.core.mxFault = some e → TrapsWith i s .mxfault e)) ∧
    (∀ d a wa wc ks, s.core.bound d = false → s.core.bound a = false →
      let x := s.core.reg d
      let y := s.core.reg a
      let n := ks.toNat + 1
      let i := Instr.mma d wa wc a ks
      let done (t : State) : Prop := exec i s = .next ((stepPrice n t).complete 2 .seq)
      let fails (e : DWord) : State := { s with core := { s.core with mxFault := some e } }
      (x.poison = true → TrapsWith i s .poison (d.setWidth 64)) ∧
      (x.poison = false → y.poison = true → TrapsWith i s .poison (a.setWidth 64)) ∧
      (x.poison = false → y.poison = false →
        (full → waits i) ∧
        (¬ full → s.core.mxFault.isSome → done s) ∧
        (¬ full → s.core.mxFault = none →
          (∀ r, mmaReason s wa wc (lo y) (8 * n) = some r → r ≠ 5 → done (fails (mxWord r 0 (pcOf s) 0))) ∧
          (mmaReason s wa wc (lo y) (8 * n) = some 5 → ∃ addr, done (fails (mxWord 5 addr (pcOf s) 0))) ∧
          (∀ t, mmaReason s wa wc (lo y) (8 * n) = none → mxFit ⟨true, true, false, false⟩ s = .ok (0, t) →
            let m : Mma :=
              { wa := s.core.windows[wa.toNat]?.getD 0, wc := s.core.windows[wc.toNat]?.getD 0, offs := lo y, spec := lo x, ks := ks.toNat,
                step := 0, got := [], sums := [], range := false, poison := false, parts := none }
            done (queued t (.mma m) 0)) ∧
          (∀ r t, mmaReason s wa wc (lo y) (8 * n) = none → mxFit ⟨true, true, false, false⟩ s = .ok (r, t) → r ≠ 0 →
            done { t with core := { t.core with mxFault := some (mxWord r 0 (pcOf s) 0) } }) ∧
          (∀ f, mmaReason s wa wc (lo y) (8 * n) = none → mxFit ⟨true, true, false, false⟩ s = .error (.scrub f) →
            AwaitsScrub i s f)))) ∧
    (∀ wa a ks, s.core.bound a = false →
      let y := s.core.reg a
      let i := Instr.bload wa a ks
      let k := 8 * (ks.toNat + 1)
      let w := s.core.windows[wa.toNat]?.getD 0
      let r0 := ((lo y).extractLsb' 0 16).toNat
      let c0 := ((lo y).extractLsb' 16 16).toNat
      let block := blockBytes w r0 k c0 8
      (y.poison = true → TrapsWith i s .poison (a.setWidth 64)) ∧
      (y.poison = false → full → waits i) ∧
      (y.poison = false → ¬ full → s.core.mxFault.isSome → exec i s = .next (s.complete 2 .seq)) ∧
      (y.poison = false → ¬ full → s.core.mxFault = none →
        (operandFmt (winFmt w) = false → TrapsWith i s .mxfault (mxWord 1 0 (pcOf s) 1)) ∧
        (operandFmt (winFmt w) = true → (winRows w ≤ r0 + k - 1 ∨ winCols w ≤ c0 + 7) →
          TrapsWith i s .mxfault (mxWord 3 0 (pcOf s) 1)) ∧
        (operandFmt (winFmt w) = true → r0 + k - 1 < winRows w → c0 + 7 < winCols w →
          ((∃ e ∈ block, 0x8000 < e.1 + e.2) → ∃ addr, TrapsWith i s .mxfault (mxWord 5 addr (pcOf s) 1)) ∧
          ((∀ e ∈ block, e.1 + e.2 ≤ 0x8000) → ∀ f, mxFit ⟨true, false, false, false⟩ s = .error (.scrub f) → AwaitsScrub i s f) ∧
          ((∀ e ∈ block, e.1 + e.2 ≤ 0x8000) → ∀ r t, mxFit ⟨true, false, false, false⟩ s = .ok (r, t) →
            let traps (w : DWord) : Prop :=
              exec i s = .next (takeTrap ⟨Cause.mxfault.code, w, none, none, walkIn s (routineTag s) (r == 0)⟩ s)
            (r ≠ 0 → traps (mxWord r 0 (pcOf s) 1)) ∧
            (r = 0 → s.core.latchFree = false → waits i) ∧
            (∀ b, r = 0 → s.core.latchFree = true → s.core.blockedBy block = some b →
              if b.2.stopped then traps (mxWord 8 (BitVec.ofNat 32 b.1) (pcOf s) 1) else waits i) ∧
            (r = 0 → s.core.latchFree = true → s.core.blockedBy block = none →
              let u := seen t
              let got := match s.core.loading with
                | some g => if g.stream = s.core.stream ∧ g.win = w ∧ g.row = r0 ∧ g.col = c0 ∧ g.k = k then g.got else []
                | none => []
              let elem (r c : Nat) : BitVec 19 × Bool × Bool :=
                (alookup (8 * r + c) got).getD ((u.element u.focus w (r0 + r) (c0 + c)).1, (u.element u.focus w (r0 + r) (c0 + c)).2,
                  u.blockPoison u.focus w (r0 + r) 1 (c0 + c) 1)
              ∃ l : Latch,
                (∀ r c, r < 64 → c < 8 → l.vals[8 * r + c]? = some (if r < k then (elem r c).1 else 0)) ∧
                (∀ r, r < 64 → l.poison.getLsbD r = (decide (r < k) && (List.range 8).any fun c => (elem r c).2.2)) ∧
                exec i s = .next ((flagged { u with core := { u.core with latch := l, loading := none } }
                  (if (List.range k).any (fun r => (List.range 8).any fun c => (elem r c).2.1) then 32 else 0)).complete 2 .seq))))))

/-- R248, R251, R77, R97, R129: an MMA reads its operands element by element, in any order. The arbiter lets the core it serves begin a
step, a step being as many reads as it has elements; a step that has begun reads on; an element that a watermark holds back waits, and a stopped watermark cancels the command and the later ones of
its task with REASON 8. -/
def Sys2Proof.Claims.OperandReads : Prop :=
  ∀ (s : State) (q : MxCmd) (r : List MxCmd) (m : Mma), s.core.mxq = q :: r → q.op = .mma m → m.step ≤ m.ks →
    let n := s.focus
    ((∃ x ∈ elemsLeft m, ∃ b, heldBack s.core m x = some b ∧ b.2.stopped = true) →
      ∃ (t : State) (addr : BitVec 32), exec (.matrixEngineStep n) s = .next t ∧ (∀ c ∈ t.core.mxq, c.task ≠ q.task) ∧
        (s.core.mxFault = none → (∃ k, s.core.task = some k ∧ k.number = q.task) →
          t.core.mxFault = some (mxWord 8 addr q.cpc q.sub))) ∧
    ((∀ x ∈ elemsLeft m, ∀ b, heldBack s.core m x = some b → b.2.stopped = false) →
      ((∀ x ∈ elemsLeft m, (heldBack s.core m x).isSome) → exec (.matrixEngineStep n) s = .next s) ∧
      (m.got.length % 64 = 0 → (∀ e, served s n = some e → e.1 ≠ n % 8) → exec (.matrixEngineStep n) s = .next s) ∧
      ((∃ x ∈ elemsLeft m, heldBack s.core m x = none) →
        (m.got.length % 64 ≠ 0 → ∃ (x : Nat) (t : State), x ∈ elemsLeft m ∧ heldBack s.core m x = none ∧
          exec (.matrixEngineStep n) s = .next t ∧ elementRead s q r m x t ∧ engineOf t n = engineOf s n) ∧
        (∀ e, m.got.length % 64 = 0 → served s n = some e → e.1 = n % 8 → ∃ (x : Nat) (t : State), x ∈ elemsLeft m ∧
          heldBack s.core m x = none ∧ exec (.matrixEngineStep n) s = .next t ∧ elementRead s q r m x t ∧
          engineOf t n = { engineOf s n with served := e.1, left := e.2 })))

/-- R248, R138, R63, R66, R76, R77: an MMA that has read all its operands adds its sums to its records, one record after the other, so that
one that two sums fall into takes both; it writes their parts one by one in any order, and then decrements the counter of its completion specification and delivers its completion. -/
def Sys2Proof.Claims.RecordWrites : Prop :=
  ∀ (s : State) (q : MxCmd) (r : List MxCmd) (m : Mma), s.core.mxq = q :: r → q.op = .mma m → m.ks < m.step →
    let n := s.focus
    (m.parts = none → ∃ (t : State) (l : List (Nat × QWord × Bool)), exec (.matrixEngineStep n) s = .next t ∧ t.mem = (seen s).mem ∧
      t.core.mxq = { q with op := .mma { m with parts := some l } } :: r ∧ (l.map fun x => x.1).Nodup ∧
      (∀ a, (∃ x ∈ l, x.1 = a) ↔ ∃ k h, k < m.sums.length ∧ h < 6 ∧ a = recordPlace n m k + 16 * h) ∧
      (∀ x ∈ l, x.2.1 = BitVec.ofNat 128 ((sumsAdded n m (seen s).mem).read x.1 16) ∧
        x.2.2 = (sumsAdded n m (seen s).mem).anyPoison x.1 16)) ∧
    (∀ l, m.parts = some l → l ≠ [] → ∃ x ∈ l, exec (.matrixEngineStep n) s = .next { s with
      mem := s.mem.store x.1 16 x.2.1.toNat x.2.2 false,
      core := { s.core with mxq := { q with op := .mma { m with parts := some (l.erase x) } } :: r } }) ∧
    (m.parts = some [] → ∃ t : State, exec (.matrixEngineStep n) s = .next t ∧ t.core.mxq.length = r.length ∧ t.mem = s.mem ∧
      (m.spec.getLsbD 63 = true → ∀ c, c = (m.spec.extractLsb' 0 6).toNat →
        (t.core.counter c).count = ((s.core.counter c).dec (m.spec.extractLsb' 6 16).toNat).1.count) ∧
      (m.spec.getLsbD 63 = false → t.core.counters = s.core.counters))

/-- R250, R251, R252, R247: an MXSPILL frees the core's tile slots; a BROT's image goes to its successor's empty inbound buffer and then
the core's own image becomes its latch, each waiting for its buffer; the group watchdog cancels a BROT that has waited 2^20 cycles, those
of trap service not counted, with the later commands of its task. -/
def Sys2Proof.Claims.LatchRing : Prop :=
  ∀ (s : State) (q : MxCmd) (r : List MxCmd), s.core.mxq = q :: r →
    let n := s.focus
    let next := n / 8 * 8 + (n % 8 + 1) % 8
    (q.op = .spill → ∃ t : State, exec (.matrixEngineStep n) s = .next t ∧ t.core.mxq.length = r.length ∧ t.core.latch = s.core.latch ∧
      t.mem = s.mem ∧ t.core.slots = []) ∧
    (∀ h, q.op = .brot h false → (s.getCore next).inbound = none →
      ∃ t : State, exec (.brotRotate n) s = .next t ∧ (t.getCore next).inbound = some s.core.latch ∧
        t.core.latch = s.core.latch ∧ t.core.mxq = { q with op := .brot h true } :: r) ∧
    (∀ h l, q.op = .brot h false → (s.getCore next).inbound = some l → exec (.brotRotate n) s = .next s) ∧
    (∀ h, q.op = .brot h true → s.core.inbound = none → exec (.brotRotate n) s = .next s) ∧
    (∀ h l, q.op = .brot h true → s.core.inbound = some l →
      ∃ t : State, exec (.brotRotate n) s = .next t ∧ t.core.latch = l ∧ t.core.inbound = none ∧ t.core.mxq.length = r.length) ∧
    (∀ c b, q.op = .brot (some c) b →
      ((∃ k, k < 8 ∧ (s.getCore (n / 8 * 8 + k)).svc.isSome) → exec (.groupWatchdog n) s = .next s) ∧
      ((∀ k, k < 8 → (s.getCore (n / 8 * 8 + k)).svc = none) →
        ∃ t : State, exec (.groupWatchdog n) s = .next t ∧ c.1 + ((engineOf s n).service - c.2) + 2 ^ 20 ≤ t.clock ∧
          t.core.latch = s.core.latch ∧ (∀ x ∈ t.core.mxq, x.task ≠ q.task) ∧
          (s.core.mxFault = none → (∃ k, s.core.task = some k ∧ k.number = q.task) →
            t.core.mxFault = some (mxWord 9 0 q.cpc q.sub))))

/-- R63, R66, R76, R77, R97, R129, R247, R248, R250 to R252: what the matrix engine does with the head of a core's queue: the elements it
reads, the records it writes, the completion it delivers, the rotation of latches, the arbiter and the watchdog. The readings of log
entries 52 to 56 and 116 are the model's. -/
def Obligations.MatrixEngine : Prop := OperandReads ∧ RecordWrites ∧ LatchRing

/-- R135 to R137, R253, R254: accumulation. That the six parts of a record are read and written in the order of their addresses, in one
step, is log entry 113; it and the reading of log entry 50 are the model's. -/
def Obligations.AccumulatorForms : Prop := AccumulatorInstructions ∧ RecordParts

namespace Sys2Proof.Claims

open Sys2Proof.Machine

/-! ### Engine commands -/

/-- What CPY and FILL take from their control word (R255). -/
def copyPlan (fill : Bool) (w : DWord) : EngSpec :=
  let len := (w.extractLsb' 0 32).toNat
  { kind := if fill then .fill else .cpy, rows := 1, rowLen := len, idxOff := 0, sStep := 0, dStep := 0, remote := none,
    word := w, remWord := w, wmen := w.getLsbD 59, cen := w.getLsbD 58, cctr := w.extractLsb' 52 6, ccore := w.extractLsb' 32 20,
    mbox := none, srcLen := if fill then 16 else len, dstLen := len, lists := [] }

/-- What GATHER and SCATTER take from their descriptor at an address (R256): the local ranges to check are those of the rows that no
index selects, the base of the others, the index list and the mailbox (log entry 57). -/
def rowsPlan (scatter : Bool) (base w0 w1 w2 w3 : DWord) : EngSpec :=
  let n := (w0.extractLsb' 0 32).toNat
  let span (step : Nat) : Nat := if n = 0 then 0 else (n - 1) * step + (w0.extractLsb' 32 16).toNat
  let mbox := base + (w3.extractLsb' 32 32).setWidth 64
  { kind := if scatter then .scatter else .gather, rows := (w0.extractLsb' 0 32).toNat, rowLen := (w0.extractLsb' 32 16).toNat,
    idxOff := w1, sStep := (w2.extractLsb' 0 32).toNat, dStep := (w2.extractLsb' 32 32).toNat,
    remote := if w0.getLsbD 60 then some (w0.extractLsb' 48 12) else none, word := w3, remWord := w0, wmen := w3.getLsbD 27,
    cen := w3.getLsbD 26, cctr := w3.extractLsb' 20 6, ccore := w3.extractLsb' 0 20,
    mbox := if w3.getLsbD 28 then some mbox.toNat else none,
    srcLen := if scatter then span (w2.extractLsb' 0 32).toNat else 1,
    dstLen := if scatter then 1 else span (w2.extractLsb' 32 32).toNat,
    lists := (if n = 0 then [] else [(base + w1, 4 * n)]) ++ (if w3.getLsbD 28 then [(mbox, 8)] else []) }

/-- Orders 1 and 2 of R257: the first failure over gA, gB and gD. -/
def engineFault (rows : Bool) (a b d : Reg) (s : State) : Option (Cause × DWord) :=
  let bad (r : Reg) (perm : Nat) : Option (Cause × DWord) :=
    let v := s.core.reg r
    if !v.tag then some (.captag, r.setWidth 64)
    else if otype v ≠ 0 then some (.capseal, r.setWidth 64)
    else if !(v.bits.getLsbD perm && v.bits.getLsbD 120) then some (.capperm, r.setWidth 64)
    else none
  match [a, b, d].find? s.core.bound, [a, b, d].find? fun r => (s.core.reg r).poison with
  | some r, _ => some (.bind, r.setWidth 64)
  | none, some r => some (.poison, r.setWidth 64)
  | none, none =>
    match bad a 127, bad b 126 with
    | some x, _ => some x
    | none, some x => some x
    | none, none => if rows then bad d 127 else none

/-- Whether [a, a + n) lies within an operand's bounds. -/
def within (v : Val) (n : Nat) : Bool :=
  decide ((capBounds v.bits).1 ≤ ((lo v).toNat : Int)) && decide (((lo v).toNat : Int) + n ≤ (capBounds v.bits).2)

/-- Orders 5 to 7 of R257. -/
def placeFault (e : EngSpec) (src dst : DWord) (s : State) : Option (Cause × DWord) :=
  let farSrc := e.remote.isSome && e.kind == .gather
  let farDst := e.remote.isSome && e.kind == .scatter
  let tcm := decide (dst.toNat < 2 ^ 15) ||
    (decide (2 ^ 40 ≤ dst.toNat) && decide (dst.toNat < 2 ^ 40 + 2 ^ 36) && decide (dst.toNat % 2 ^ 16 < 2 ^ 15))
  if !farSrc && !s.engRange s.focus src.toNat (Max.max 1 e.srcLen) then some (.nomap, src)
  else if !farDst && !s.engRange s.focus dst.toNat (Max.max 1 e.dstLen) then some (.nomap, dst)
  else if e.lists.any (fun r => !s.engRange s.focus r.1.toNat r.2) then
    some (.nomap, ((e.lists.find? fun r => !s.engRange s.focus r.1.toNat r.2).map Prod.fst).getD 0)
  else if e.wmen && !(tcm && !farDst) then some (.send, e.word)
  else if e.cen && !(match s.partOf s.focus with
      | some p => s.inSet p (e.ccore.toNat / 64)
      | none => false) then some (.send, e.word)
  else if (match e.remote with
      | some m => m != s.modnum && !s.reach.contains m
      | none => false) then some (.send, e.remWord)
  else if !s.hasStreamer s.focus src.toNat then some (.engfault, src)
  else none

/-- The entry of an engine command (R95, R119). -/
def engineEntry (e : EngSpec) (ch : BitVec 2) (src dst desc : QWord) (s : State) : SendEntry :=
  let c : EngCmd :=
    { kind := e.kind, core := s.focus, part := (s.partOf s.focus).getD 0, chain := s.core.chn.extractLsb' 0 16, ltag := s.core.ltag,
      work := s.core.work, eng64 := s.core.csr.price1.extractLsb' 0 16, src := src, dst := dst, desc := desc, rows := e.rows,
      rowLen := e.rowLen, idxOff := e.idxOff, sStep := e.sStep, dStep := e.dStep, remote := e.remote, wmen := e.wmen, chan := ch,
      cen := e.cen, cctr := e.cctr, ccore := e.ccore, mbox := e.mbox }
  { order := s.core.orders, released := false, body := .engine c, copies := [], back := none }

end Sys2Proof.Claims

/-- R255 to R257, R38: CPY, FILL, GATHER and SCATTER make their checks in order and place one command. -/
def Sys2Proof.Claims.EngineCommands : Prop :=
  ∀ (s : State) (d a b : Reg) (ch : BitVec 2), Plain s →
    let src := s.core.reg a
    let dst := s.core.reg b
    let cw := s.core.reg d
    (∀ (fill : Bool), let i := if fill then Instr.fill d a b ch else Instr.cpy d a b ch
      let e := copyPlan fill (lo cw)
      match engineFault false a b d s with
      | some x => TrapsWith i s x.1 x.2
      | none =>
        if !within src e.srcLen then TrapsWith i s .capbound (lo src)
        else if fill && (lo src).toNat % 16 != 0 then TrapsWith i s .align (lo src)
        else if !within dst e.dstLen then TrapsWith i s .capbound (lo dst)
        else
          match placeFault e (lo src) (lo dst) s with
          | some x => TrapsWith i s x.1 x.2
          | none => Places i s s e.word (engineEntry e ch src.bits dst.bits 0 s)) ∧
    (∀ (scatter : Bool), let i := if scatter then Instr.scatter d a b ch else Instr.gather d a b ch
      (∀ x, engineFault true a b d s = some x → TrapsWith i s x.1 x.2) ∧
      (∀ p t v u, engineFault true a b d s = none →
        access { cap := cw, num := d, ea := lo cw, n := 32, need := ⟨true, false, false, false⟩, align := some 32, window := true,
                 noGlob := none, local_ := false } s = .ok (p, t) →
        loadPlace p.cut true d t = .ok (v, u) →
        let w (k : Nat) : DWord := BitVec.ofNat 64 (v.value / 2 ^ (64 * k))
        let e := rowsPlan scatter (lo cw) (w 0) (w 1) (w 2) (w 3)
        if (w 3).getLsbD 28 && !cw.bits.getLsbD 126 then TrapsWith i s .capperm (d.setWidth 64)
        else if e.rowLen = 0 then TrapsWith i s .send (w 0)
        else
          match placeFault e (lo src) (lo dst) u with
          | some x => TrapsWith i s x.1 x.2
          | none => Places i s (paid (lo cw) u) e.word (engineEntry e ch src.bits dst.bits cw.bits u)))

/-- R259, R97: WMSET arms a channel over whole units below 0x8000, with its watermark at 0, no load of the channel's bytes that follows
having performed before it, and WMGET reports it. -/
def Sys2Proof.Claims.WatermarkForms : Prop :=
  (∀ (s t : State) (ch : BitVec 2) (a b : Reg) (x y : Val), readAll [a, b] s = .ok ([x, y], t) →
    let i := Instr.wmset ch a b
    let base := (lo x).extractLsb' 0 15
    let len := (lo y).extractLsb' 0 16
    if x.poison then TrapsWith i s .poison (a.setWidth 64)
    else if y.poison then TrapsWith i s .poison (b.setWidth 64)
    else if base.toNat % 256 ≠ 0 then TrapsWith i s .align (base.setWidth 64)
    else if len.toNat % 256 ≠ 0 then TrapsWith i s .align (len.setWidth 64)
    else if 0x8000 < base.toNat + len.toNat then TrapsWith i s .nomap (lo x)
    else exec i s = .next ({ t with core := { t.core with
        wms := t.core.wms.setIfInBounds ch.toNat ⟨base, len, 0, [], false⟩
        early := t.core.early.filter fun e => !meet (2 ^ 48 + 65536 * t.focus + base.toNat) len.toNat e.loc e.bytes } }.complete
      2 .seq)) ∧
  (∀ (s t : State) (d : Reg) (ch : BitVec 2) (w : Watermark), s.core.wms[ch.toNat]? = some w →
    writeReg d (clean ((0 : BitVec 1) ++ w.base ++ w.len ++ (if w.stopped then (1 : BitVec 16) else 0) ++ BitVec.ofNat 16 w.w)) s =
      .ok ((), t) →
    exec (.wmget d ch) s = .next (t.complete 2 .seq))

/-- R97: what a delivery does to a watermark channel: the bytes that lie in its range are noted, and W rises through every whole unit of
256 bytes that has been delivered without a gap; a stopped channel takes no note (R99). -/
def Sys2Proof.Claims.WatermarkAdvance : Prop :=
  ∀ (w : Watermark) (off n : Nat),
    let first := Max.max off w.base.toNat
    let last := Min.min (off + n) (w.base.toNat + w.len.toNat)
    let r := w.deliver off n
    (w.stopped = true ∨ last ≤ first → r = w) ∧
    (w.stopped = false → first < last →
      r = { w with got := addRange (first - w.base.toNat) (last - w.base.toNat) w.got, w := r.w } ∧
      ∃ k, k ≤ 128 ∧ r.w = w.w + 256 * k ∧
        (∀ i, i < k → w.w + 256 * i < w.len.toNat ∧ rangeHolds (w.w + 256 * i) (w.w + 256 * i + 256) r.got = true) ∧
        (k < 128 → ¬ (r.w < w.len.toNat ∧ rangeHolds r.w (r.w + 256) r.got = true)))

/-- The channel that a write of a command delivers to (R97, R255). -/
def Sys2Proof.Claims.channelAt (s : State) (e : EngCmd) (loc : Nat) : Option (Nat × Watermark) :=
  if e.wmen = true ∧ 2 ^ 48 ≤ loc ∧ loc < 2 ^ 52 then
    ((s.getCore ((loc - 2 ^ 48) / 65536)).wms[e.chan.toNat]?).map fun w => ((loc - 2 ^ 48) / 65536, w)
  else none

/-- Whether a write lies beyond the reorder bitmap of a running channel (R97). -/
def Sys2Proof.Claims.outOfReach (s : State) (e : EngCmd) (loc n : Nat) : Bool :=
  match channelAt s e loc with
  | none => false
  | some (m, w) =>
    let off := loc - (2 ^ 48 + 65536 * m)
    !w.stopped && decide (0 < w.len.toNat) && decide (w.base.toNat + w.w + 65 * 256 < off + n) && decide (off < w.base.toNat + w.len.toNat)

/-- What a piece that has performed leaves of its command (R96, R97, R258): it is in flight no more and its bytes are done, the channel of
its destination takes note of them, and the counter's decrement by its bytes is on its way. -/
def Sys2Proof.Claims.pieceDone (s : State) (j : Nat) (job : EngJob) (p : HeldPiece) : State :=
  let e := job.cmd
  let t := { s with jobs := s.jobs.set j { job with held := job.held.erase p, done := addRange p.start (p.start + p.len) job.done },
                    decs := if e.cen then s.decs ++ [⟨e.ccore.toNat, e.cctr.toNat, p.len, e.ltag⟩] else s.decs }
  match p.loc.bind fun l => (channelAt s e l).map fun c => (l, c) with
  | some (l, m, w) => t.setCore m { t.getCore m with
      wms := (t.getCore m).wms.setIfInBounds e.chan.toNat (w.deliver (l - (2 ^ 48 + 65536 * m)) p.len) }
  | none => t

/-- A command that runs: it has begun, and it has neither finished nor failed. -/
def Sys2Proof.Claims.running (s : State) (j : Nat) (job : EngJob) : Prop :=
  s.jobs[j]? = some job ∧ job.begun = true ∧ job.finished = false ∧ job.failed = none

/-- A byte of a piece that is in flight. -/
def Sys2Proof.Claims.holdsByte (p : HeldPiece) (b : Nat) : Bool := decide (p.start ≤ b) && decide (b < p.start + p.len)

/-- A command whose bytes are not all there, that runs and may read the piece that holds byte b (R258). -/
def Sys2Proof.Claims.mayMove (s : State) (j : Nat) (job : EngJob) (b : Nat) : Prop :=
  running s j job ∧ rangeSum job.done < job.cmd.total ∧ b < job.cmd.total ∧ (∀ p ∈ job.held, holdsByte p b = false) ∧
    inRanges b job.done = false ∧ s.setAside j job b = false

/-- What becomes of a piece that is not read (R258): a failing check makes the command FAILED with its cause, which ends it once nothing of
it is in flight; a page that is not there raises a request and sets the piece aside; a frame that is scrub-pending is scrubbed first;
otherwise it waits. -/
def Sys2Proof.Claims.pieceHalts (s : State) (j : Nat) (job : EngJob) (b : Nat) (x : PieceStop) : Prop :=
  match x with
  | .fail c u =>
    let t : State := { u with jobs := u.jobs.set j { job with failed := some c } }
    (job.held ≠ [] → exec (.streamerPiece j b) s = .next t) ∧
    (job.held = [] → exec (.streamerPiece j b) s = exec (.streamerPiece j 0) t)
  | .aside m => exec (.streamerPiece j b) s = .next (s.pageMiss m)
  | .scrub f => exec (.streamerPiece j b) s = .next (s.demanded f)
  | .wait => exec (.streamerPiece j b) s = .next s

/-- R94, R255, R256, R258: a piece of a command lies within a row, has 1, 2, 4, 8 or 16 bytes, naturally aligned at both ends (a FILL at
its destination), and holds the byte that was asked for; a GATHER takes its source row, a SCATTER its destination row, from the index
list, read under the descriptor's capability. -/
def Sys2Proof.Claims.PieceShape : Prop :=
  ∀ (s t : State) (j b : Nat) (job : EngJob) (p : Piece), b < job.cmd.total → s.pieceAt j job b = .ok (p, t) →
    let e := job.cmd
    let r := b / e.rowLen
    ∃ x : Nat,
      (if e.kind = .gather ∨ e.kind = .scatter then
        ∃ loc, s.engReach j job b (e.desc.setWidth 64 + e.idxOff + BitVec.ofNat 64 (4 * r) : DWord).toNat
            (e.desc.extractLsb' 104 10).toNat ⟨true, false, false, false⟩ = .ok (loc, t) ∧ x = t.mem.read loc 4
      else x = r ∧ t = s) ∧
      p.start ≤ b ∧ b < p.start + p.len ∧ r * e.rowLen ≤ p.start ∧ p.start + p.len ≤ (r + 1) * e.rowLen ∧
      p.len ∈ [1, 2, 4, 8, 16] ∧ p.dst.toNat % p.len = 0 ∧ (e.kind ≠ .fill → p.src.toNat % p.len = 0) ∧
      p.dst = e.dst.setWidth 64 + BitVec.ofNat 64 ((if e.kind = .scatter then x else r) * e.dStep) +
        BitVec.ofNat 64 (p.start - r * e.rowLen) ∧
      p.src = e.src.setWidth 64 + BitVec.ofNat 64 ((if e.kind = .gather then x else r) * e.sStep) +
        BitVec.ofNat 64 (if e.kind = .fill then 0 else p.start - r * e.rowLen)

/-- R94: the commands of a core to a streamer begin in the order in which they were released. -/
def Sys2Proof.Claims.CommandBegins : Prop :=
  ∀ (s : State) (j b : Nat) (job : EngJob), s.jobs[j]? = some job → job.finished = false → job.begun = false →
    let waits := (s.jobs.take j).any fun k => !k.begun && !k.finished && k.streamer == job.streamer && k.cmd.core == job.cmd.core
    (waits = true → exec (.streamerPiece j b) s = .next s) ∧
    (waits = false → exec (.streamerPiece j b) s = exec (.streamerPiece j b) { s with jobs := s.jobs.set j { job with begun := true } })

/-- R94 to R97, R255, R256, R258: a streamer reads one piece of a CPY, a GATHER, a SCATTER or a FILL, its destination checked: the bytes
of the source, or of the 16-byte pattern, are in flight with their poison. An end in another module answers from outside: its bytes, its
mark and its failures are free (log entry 58). -/
def Sys2Proof.Claims.StreamerReads : Prop :=
  ∀ (s t : State) (j b : Nat) (job : EngJob) (p : Piece), mayMove s j job b →
    let e := job.cmd
    let far (k : EngKind) : Prop := e.kind = k ∧ e.remote.isSome ∧ e.remote ≠ some s.modnum
    let src (t : State) := t.engReach j job b p.src.toNat (e.src.extractLsb' 104 10).toNat ⟨true, false, false, false⟩
    let dst (t : State) := t.engReach j job b p.dst.toNat (e.dst.extractLsb' 104 10).toNat ⟨false, true, false, false⟩
    let read (u : State) (v : Nat) (poison : Bool) (loc : Option Nat) : Prop :=
      exec (.streamerPiece j b) s =
        .next { u with jobs := u.jobs.set j { job with held := job.held ++ [⟨p.start, p.len, v, poison, loc⟩] } }
    let goes (v : Nat) (poison : Bool) (u : State) : Prop :=
      (∀ x, dst u = .error x → pieceHalts s j job b x) ∧ (∀ l w, dst u = .ok (l, w) → read w v poison (some l))
    let answer := Config.remotePiece t.tick
    (∀ x, s.pieceAt j job b = .error x → pieceHalts s j job b x) ∧
    (s.pieceAt j job b = .ok (p, t) →
      (¬ far .gather → ¬ far .scatter →
        (∀ x, src t = .error x → pieceHalts s j job b x) ∧
        (∀ l u, src t = .ok (l, u) → e.kind ≠ .fill →
          goes (u.mem.read l p.len) (u.mem.anyPoison l p.len) (u.mscTouch (some e.part) l false)) ∧
        (∀ l u, src t = .ok (l, u) → e.kind = .fill →
          goes ((List.range p.len).map fun i => u.mem.read l 16 / 256 ^ ((p.start + i) % 16) % 256 * 256 ^ i).sum
            (u.mem.anyPoison l 16) u)) ∧
      (far .gather →
        ((p.src.toNat < 2 ^ 48 ∨ 2 ^ 49 ≤ p.src.toNat) → pieceHalts s j job b (.fail 25 t)) ∧
        (2 ^ 48 ≤ p.src.toNat → p.src.toNat < 2 ^ 49 →
          (answer.1 = 0 → goes (answer.2.1 % 2 ^ (8 * p.len)) answer.2.2 t) ∧
          (answer.1 ≠ 0 → pieceHalts s j job b (.fail answer.1 t)))) ∧
      (far .scatter →
        (∀ x, src t = .error x → pieceHalts s j job b x) ∧
        (∀ l x, src t = .ok (l, x) →
          let u := x.mscTouch (some e.part) l false
          ((p.dst.toNat < 2 ^ 48 ∨ 2 ^ 49 ≤ p.dst.toNat) → pieceHalts s j job b (.fail 25 u)) ∧
          (2 ^ 48 ≤ p.dst.toNat → p.dst.toNat < 2 ^ 49 →
            (answer.1 = 0 → read u (x.mem.read l p.len) (x.mem.anyPoison l p.len) none) ∧
            (answer.1 ≠ 0 → pieceHalts s j job b (.fail answer.1 u))))))

/-- R94 to R97, R258: a streamer writes a piece that it has read, in a step of its own, between which and the reading other agents may
act: the bytes reach the destination with their poison; what lies beyond the reorder bitmap of a channel waits. A command whose bytes are
all there, or that has failed, ends with its last piece. -/
def Sys2Proof.Claims.StreamerWrites : Prop :=
  ∀ (s : State) (j b : Nat) (job : EngJob), s.jobs[j]? = some job → job.begun = true → job.finished = false →
    (∀ p, job.held.find? (fun x => holdsByte x b) = some p →
      let t : State := match p.loc with
        | some l => pieceDone ({ s with mem := s.mem.store l p.len p.value p.poison false }.written (some job.cmd.part) l) j job p
        | none => pieceDone s j job p
      let beyond := p.loc.any fun l => outOfReach s job.cmd l p.len
      let spent := job.failed.isSome || decide (job.cmd.total ≤ rangeSum (addRange p.start (p.start + p.len) job.done))
      (beyond = true → exec (.streamerPiece j b) s = .next s) ∧
      (beyond = false → (job.held.erase p ≠ [] ∨ spent = false) → exec (.streamerPiece j b) s = .next t) ∧
      (beyond = false → job.held.erase p = [] → spent = true → exec (.streamerPiece j b) s = exec (.streamerPiece j 0) t)) ∧
    (job.held ≠ [] → (∀ p ∈ job.held, holdsByte p b = false) → (job.failed.isSome ∨ job.cmd.total ≤ rangeSum job.done) →
      exec (.streamerPiece j b) s = .next s)

/-- A command closed (R119, R258): it is finished, with the cause of its failure, and its bytes are charged along its chain. -/
def Sys2Proof.Claims.closed (s : State) (j : Nat) (job : EngJob) (cause : Option Nat) : State :=
  splitOf { s with jobs := s.jobs.set j { job with failed := cause, finished := true } } job.cmd.part job.cmd.chain.toNat
    ((rangeSum job.done + 63) / 64 * job.cmd.eng64.toNat)

/-- R96, R99, R119, R256, R258: a command whose bytes are all there, one that has none and one that has failed end: the mailbox is
written last, with the number of bytes and DONE, or the cause and FAILED, checked under the descriptor's capability and the command's
chain; a failing check of it fails the command. A finished command is charged; a failed one stops its watermark channel and is reported
to its launch too. -/
def Sys2Proof.Claims.CommandEnds : Prop :=
  ∀ (s : State) (j b : Nat) (job : EngJob), s.jobs[j]? = some job → job.begun = true → job.finished = false → job.held = [] →
    (job.failed.isSome ∨ job.cmd.total ≤ rangeSum job.done) → s.setAside j job job.cmd.total = false →
    let e := job.cmd
    let ends (u : State) (cause : Option Nat) : Prop :=
      match cause with
      | none => (∀ k n p, e.kind ≠ .ckpt k n p) → exec (.streamerPiece j b) s = .next (closed u j job none)
      | some c => ∃ t : State, exec (.streamerPiece j b) s = .next t ∧ t.jobs = u.jobs.set j { job with failed := some c, finished := true } ∧
          t.mem = (closed u j job (some c)).mem ∧ t.reports.length = u.reports.length + 1 ∧
          (e.wmen = true → (e.dst.setWidth 64 : DWord).toNat < 2 ^ 15 →
            ∃ x, (t.getCore e.core).wms[e.chan.toNat]? = some x ∧ x.stopped = true) ∧
          (∀ m w, e.wmen = true → e.dst.setWidth 64 = (BitVec.ofNat 64 (2 ^ 40 + 65536 * m) : DWord) + BitVec.ofNat 64 w → m < 1048576 →
            w < 2 ^ 15 → ∃ x, (t.getCore m).wms[e.chan.toNat]? = some x ∧ x.stopped = true)
    let word (cause : Option Nat) : Nat := Min.min (rangeSum job.done) (2 ^ 32 - 1) * 2 ^ 32 + (match cause with
      | some c => c % 256 * 2 ^ 8 + 2
      | none => 1)
    (e.mbox = none → ends s job.failed) ∧
    (∀ a, e.mbox = some a →
      let inside := decide ((capBounds e.desc).1 ≤ (a : Int)) && decide ((a : Int) + 8 ≤ (capBounds e.desc).2)
      (inside = false → ends s (some 2)) ∧
      (inside = true → a % 8 ≠ 0 → ends s (some 8)) ∧
      (inside = true → a % 8 = 0 →
        (∀ l u, s.engReach j job e.total a (e.desc.extractLsb' 104 10).toNat ⟨false, true, false, false⟩ = .ok (l, u) →
          ends ({ u with mem := u.mem.store l 8 (word job.failed) false false }.written (some e.part) l) job.failed) ∧
        (∀ c u, s.engReach j job e.total a (e.desc.extractLsb' 104 10).toNat ⟨false, true, false, false⟩ = .error (.fail c u) →
          ends u (some c)) ∧
        (∀ m, s.engReach j job e.total a (e.desc.extractLsb' 104 10).toNat ⟨false, true, false, false⟩ = .error (.aside m) →
          exec (.streamerPiece j b) s = .next (s.pageMiss m)) ∧
        (∀ f, s.engReach j job e.total a (e.desc.extractLsb' 104 10).toNat ⟨false, true, false, false⟩ = .error (.scrub f) →
          exec (.streamerPiece j b) s = .next (s.demanded f))))

/-- R255 to R259, R94 to R97, R99, R38, R119: engine commands, watermark channels, the order in which commands begin, the pieces that streamers
read and write, and the end of a command. The readings of log entries 57 to 61 and 114 are the model's. -/
def Obligations.EngineForms : Prop :=
  EngineCommands ∧ WatermarkForms ∧ WatermarkAdvance ∧ PieceShape ∧ CommandBegins ∧ StreamerReads ∧ StreamerWrites ∧ CommandEnds

namespace Sys2Proof.Claims

open Sys2Proof.Machine

/-! ### Chains -/

/-- The fields of CHN (R103). -/
def chnHandle (c : DWord) : Nat := (c.extractLsb' 0 16).toNat
def chnDepth (c : DWord) : Nat := (c.extractLsb' 16 4).toNat
def chnFloor (c : DWord) : Nat := (c.extractLsb' 20 4).toNat

/-- A chain with its innermost fraction changed. -/
def innermost (f : Nat → Nat) (links : List (Nat × Nat)) : List (Nat × Nat) :=
  match links.reverse with
  | [] => []
  | l :: r => r.reverse ++ [(l.1, f l.2)]

/-- The innermost fraction of a chain. -/
def fraction (links : List (Nat × Nat)) : Nat :=
  match links.reverse with
  | [] => 0
  | l :: _ => l.2

/-- The first of R107's checks of a grant's words against the current chain that fails, before that of the granter's state. -/
def grantFault (s : State) (g : List DWord) (links : List (Nat × Nat)) : Option DWord :=
  let w := g[0]?.getD 0
  let plen := (w.extractLsb' 45 4).toNat
  let maxd := (w.extractLsb' 41 4).toNat
  let es := patternElems (g[1]?.getD 0) (g[2]?.getD 0) (g[3]?.getD 0) (Min.min plen 8)
  let depth := chnDepth s.core.chn
  if plen = 0 ∨ 8 < plen ∨ 0 ∈ es ∨ 2 ≤ es.countP (· == 0xFFFFFE) ∨ maxd = 0 ∨ 8 < maxd then some 7
  else if chainMatch plen es (links.map Prod.fst) = false then some 1
  else if maxd ≤ depth ∨ 8 ≤ depth then some 2
  else if fraction links < (w.extractLsb' 24 17).toNat then some 3
  else none

/-- How an instruction that interns a chain ends (R102): found, it becomes the current one, its handle goes to the destination
and the price is added; a claimed entry, and one whose frame is to be scrubbed (R332), is waited for; a full table traps. -/
def Interns (i : Instr) (d : Reg) (price : Csrs → Nat) (s t : State) (p : Nat) (links : List (Nat × Nat)) : Prop :=
  match t.intern p links with
  | (.found h, u) =>
    let chn : DWord := (0 : BitVec 40) ++ u.core.chn.extractLsb' 20 4 ++ BitVec.ofNat 4 links.length ++ BitVec.ofNat 16 h
    ∀ y, writeReg d (clean (BitVec.ofNat 64 h)) { u with core := { u.core with chn := chn } } = .ok ((), y) →
      exec i s = .next ({ y with core := { y.core with csr := y.core.csr.charge (price y.core.csr) } }.complete 2 .seq)
  | (.claimed, _) => exec i s = .next (s.stalledOn false)
  | (.held f, _) => AwaitsScrub i s f
  | _ => TrapsWith i s .adopt 5

/-- STATE of a principal (R100). -/
def stateOf (s : State) (p q : Nat) : BitVec 2 := (s.guestWord p ((s.part p).ptbase.toNat + 8 * q)).extractLsb' 62 2

/-- Whether a chain of a partition contains a principal. -/
def holds (s : State) (p h q : Nat) : Bool :=
  match s.chain p h with
  | some links => links.any fun l => l.1 == q
  | none => false

/-- Whether a matrix command has operands to read (R113, R247). -/
def readsOn : MxOp → Bool
  | .mma m => decide (m.step ≤ m.ks)
  | .brot _ sent => !sent
  | .spill => false

/-- The fitting check that an instruction makes in task mode through the capability in a register (R110, R192, R229): the register, and
LD, ST, LDC and STC from bit 3 down; FIT needs nothing. -/
def fitOf (s : State) (i : Instr) : Option (Reg × BitVec 4) :=
  match memForm i, amoForm i, scForm i, i with
  | some f, _, _, _ =>
    if f.store then some (f.cap, if f.sz == 7 && (s.core.reg f.data).tag then 5 else 4)
    else some (f.cap, if movesTag f.sz (s.core.reg f.cap) then 10 else 8)
  | _, some f, _, _ => some (f.a, 12)
  | _, _, some f, _ => some (f.a, 12)
  | _, _, _, .fit _ a => some (a, 0)
  | _, _, _, .sendd _ b => some (b, 8)
  | _, _, _, .sendk _ b => some (b, 8)
  | _, _, _, .ctrset _ a => some (a, 8)
  | _, _, _, .clfl a => some (a, 8)
  | _, _, _, _ => none

/-- Whether an unpick of a principal is outstanding (R113). -/
def outstanding (s : State) (p q : Nat) : Bool := s.unpicks.any fun u => u.part == p && u.prin == some q

end Sys2Proof.Claims

/-- R105, R107, R228, R114: ADOPT checks its grant capability and then its grant in order, and interns the chain with FQ taken
from the innermost link and Q appended; R108: SHED gives the fraction back; both wait for the scrub of a frame that holds an entry
they read (R332). -/
def Sys2Proof.Claims.AdoptAndShed : Prop :=
  (∀ (s : State) (d a : Reg), ¬ inMessage s →
    let i := Instr.adopt d a
    (∀ v t, readReg a s = .ok (v, t) →
      (v.poison = true → TrapsWith i s .poison (a.setWidth 64)) ∧
      (v.poison = false → v.tag = false → TrapsWith i s .captag (a.setWidth 64)) ∧
      (v.poison = false → v.tag = true → otype v ≠ 1 → TrapsWith i s .capseal (a.setWidth 64)) ∧
      (v.poison = false → v.tag = true → otype v = 1 → (lo v).toNat % 32 ≠ 0 → TrapsWith i s .align (lo v)) ∧
      (v.poison = false → v.tag = true → otype v = 1 → (lo v).toNat % 32 = 0 → within v 32 = false → TrapsWith i s .capbound (lo v))) ∧
    (∀ g t p, readGrant a s = .ok (g, t) → t.partOf t.focus = some p →
      let w := g[0]?.getD 0
      let q := (w.extractLsb' 0 24).toNat
      match t.heldAt p (entryAt t p (chnHandle t.core.chn)), t.chain p (chnHandle t.core.chn) with
      | some f, _ => AwaitsScrub i s f
      | none, none => TrapsWith i s .chaindead (BitVec.ofNat 64 (chnHandle t.core.chn))
      | none, some links =>
        match grantFault t g links, t.heldAt p ((t.part p).ptbase.toNat + 8 * q) with
        | some e, _ => TrapsWith i s .adopt e
        | none, some f => AwaitsScrub i s f
        | none, none =>
          if t.live p q = false then TrapsWith i s .adopt 4
          else Interns i d (fun c => (c.price1.extractLsb' 16 16).toNat) s t p
            (innermost (· - (w.extractLsb' 24 17).toNat) links ++ [(q, (w.extractLsb' 24 17).toNat)]))) ∧
  (∀ (s : State) (d : Reg),
    let i := Instr.shed d
    (chnDepth s.core.chn ≤ chnFloor s.core.chn → TrapsWith i s .adopt 6) ∧
    (∀ p, chnFloor s.core.chn < chnDepth s.core.chn → s.partOf s.focus = some p →
      match s.heldAt p (entryAt s p (chnHandle s.core.chn)), s.chain p (chnHandle s.core.chn) with
      | some f, _ => AwaitsScrub i s f
      | none, none => TrapsWith i s .chaindead (BitVec.ofNat 64 (chnHandle s.core.chn))
      | none, some links => 2 ≤ links.length →
        Interns i d (fun _ => 0) s s p (innermost (· + fraction links) links.dropLast)))

/-- R229, R230, R111, R113: CHNGET reports a link or CHN; FIT reports the fitting and installs it; CHARGE adds to the meter; UNPICK
answers 2 for what cannot be unpicked, 1 for what is dead already, and else moves the principal to DEAD, waits and answers 0. A frame
that holds an entry they read is scrubbed first (R332), and no access after an UNPICK has performed before it completes. -/
def Sys2Proof.Claims.ChainInstructions : Prop :=
  ∀ (s t u : State) (d a : Reg) (v : Val), readReg a s = .ok (v, t) → v.poison = false →
    (let links := ((t.partOf t.focus).bind fun p => t.chain p (chnHandle t.core.chn)).getD []
      let n := (lo v).toNat
      let x : DWord := if 8 ≤ n then t.core.chn else if chnDepth t.core.chn ≤ n then 0 else
        match links[n]? with
        | some l => BitVec.ofNat 64 (l.2 % 2 ^ 17 * 2 ^ 24 + l.1 % 2 ^ 24)
        | none => 0
      let held := (t.partOf t.focus).bind fun p => t.heldAt p (entryAt t p (chnHandle t.core.chn))
      (∀ f, n < 8 → held = some f → AwaitsScrub (.chnget d a) s f) ∧
      ((n < 8 → held = none) → writeReg d (clean x) t = .ok ((), u) → exec (.chnget d a) s = .next (u.complete 2 .seq))) ∧
    (v.tag = false → TrapsWith (.fit d a) s .captag (a.setWidth 64)) ∧
    (∀ p, v.tag = true → t.partOf t.focus = some p → fitFind (chnHandle t.core.chn) (rtag v).toNat t.core.fit = none →
      let walk := t.fitWalk (t.focus / 64) p (chnHandle t.core.chn) (rtag v).toNat
      let walked := walk.2
      (∀ f, walk.1 = .held f → AwaitsScrub (.fit d a) s f) ∧
      (walk.1 = .dead →
        writeReg d (clean (1 <<< 63)) walked = .ok ((), u) → exec (.fit d a) s = .next (u.complete 2 .seq)) ∧
      (walk.1 = .undecided →
        writeReg d (clean (1 <<< 62)) walked = .ok ((), u) → exec (.fit d a) s = .next (u.complete 2 .seq)) ∧
      (∀ perms prins, walk.1 = .rule perms prins →
        let e : FitEntry := ⟨t.core.chn.extractLsb' 0 16, rtag v, perms, prins.length, prins⟩
        writeReg d (clean (perms.setWidth 64))
          { walked with core := { walked.core with fit := fitTouch e walked.core.fit } } = .ok ((), u) →
        exec (.fit d a) s = .next (u.complete 2 .seq))) ∧
    (∀ e, v.tag = true → fitFind (chnHandle t.core.chn) (rtag v).toNat t.core.fit = some e →
      writeReg d (clean (e.perms.setWidth 64)) { t with core := { t.core with fit := fitTouch e t.core.fit } } = .ok ((), u) →
      exec (.fit d a) s = .next (u.complete 2 .seq)) ∧
    exec (.charge a) s = .next ({ t with core := { t.core with csr := t.core.csr.charge (lo v).toNat } }.complete 2 .seq) ∧
    (∀ p, s.core.unpick = none → ¬ inMessage s → t.partOf t.focus = some p →
      (s.core.csr.km = true ∨ (v.tag = true ∧ otype v = 2 ∧ ((lo v).extractLsb' 24 8).toNat = p)) →
      let q := ((lo v).extractLsb' 0 24).toNat
      let none_ : Prop := q ≤ 1 ∨ (t.part p).ptcount.toNat ≤ q ∨ 0xFFFFFD < q ∨ stateOf t p q = 0
      let held := t.heldAt p ((t.part p).ptbase.toNat + 8 * q)
      let later : State := { t with core := { t.core with early := [] } }
      (∀ f, held = some f → AwaitsScrub (.unpick d a) s f) ∧
      (held = none → none_ → writeReg d (clean 2) later = .ok ((), u) → exec (.unpick d a) s = .next (u.complete 2 .seq)) ∧
      (held = none → ¬ none_ → 2 ≤ (stateOf t p q).toNat → outstanding t p q = false → writeReg d (clean 1) later = .ok ((), u) →
        exec (.unpick d a) s = .next (u.complete 2 .seq)) ∧
      (held = none → ¬ none_ → stateOf t p q = 1 → (t.core.bound d = false ∧ t.core.rep = none) →
        ∃ w x : State, exec (.unpick d a) s = .next (w.complete 2 .wait) ∧ w.core.unpick = some (t.nextId, 0) ∧ w.core.early = [] ∧
          x = t.setGuestWord p ((t.part p).ptbase.toNat + 8 * q)
            ((2 : BitVec 2) ++ (t.guestWord p ((t.part p).ptbase.toNat + 8 * q)).extractLsb' 0 62) ∧
          w.mem = x.mem ∧
          w.unpicks = t.unpicks ++ [⟨t.nextId, p, some q, some t.focus, false, [], if (lo v).getLsbD 32 then
            (List.range (t.part p).peercount.toNat).map fun k => BitVec.ofNat 12 (t.mem.read ((t.part p).peerbase.toNat + 2 * k) 2)
            else []⟩])) ∧
    (∀ p k, s.core.unpick = none → ¬ inMessage s → s.core.csr.km = false → t.partOf t.focus = some p → k = Instr.unpick d a →
      (v.tag = false → TrapsWith k s .captag (a.setWidth 64)) ∧
      (v.tag = true → otype v ≠ 2 → TrapsWith k s .capseal (a.setWidth 64)) ∧
      (v.tag = true → otype v = 2 → ((lo v).extractLsb' 24 8).toNat ≠ p → TrapsWith k s .capperm (a.setWidth 64))) ∧
    (∀ w, s.core.unpick = some w → s.unpickOver w = true →
      writeReg d (clean (w.2.setWidth 64)) { s with core := { s.core with unpick := none } } = .ok ((), u) →
      exec (.unpick d a) s = .next (u.complete 2 .seq)) ∧
    (∀ w, s.core.unpick = some w → s.unpickOver w = false → exec (.unpick d a) s = .next (s.complete 2 .wait))

/-- R112, R113, R328: a book flush and another module's unpick begin, and an announcement is presented while fewer than 64 are. -/
def Sys2Proof.Claims.AnnouncementBegins : Prop :=
  ∀ (s : State),
    (∀ p, ∃ t : State, exec (.bookflush p) s = .next t ∧ (t.part p).bookflush = true ∧
      t.unpicks = s.unpicks ++ [⟨s.nextId, p, none, none, false, [], []⟩] ∧ t.core = s.core ∧ t.mem = s.mem) ∧
    (∀ p q, 2 ≤ q → q < (s.part p).ptcount.toNat → q ≤ 0xFFFFFD → stateOf s p q = 1 →
      ∃ t : State, exec (.domainUnpick p q) s = .next t ∧ t.nextId = s.nextId + 1 ∧
        t.unpicks = s.unpicks ++ [⟨s.nextId, p, some q, none, false, [], []⟩]) ∧
    (∀ i u, s.unpicks[i]? = some u →
      exec (.unpickPresent i) s = .next (if s.unpicks.countP (fun x => x.presented) < 64 then
        { s with unpicks := s.unpicks.set i { u with presented := true } } else s))

/-- R112, R113, R247: a core of the partition that receives an announcement takes the entries that it names out of its fitting cache and
drains its stores. An unpick cancels a load of another module that waits under a chain with the principal, and the matrix commands
under such a chain that have operands to read; a book flush takes the partition's rules out of the panel's pattern cache. -/
def Sys2Proof.Claims.AnnouncementArrives : Prop :=
  ∀ (s : State) (i : Nat) (u : Unpick), s.unpicks[i]? = some u → u.presented = true → s.focus ∉ u.received → s.focus < 1048576 →
    s.partOf s.focus = some u.part →
    ∃ t : State, exec (.unpickReceive i s.focus) s = .next t ∧
      t.unpicks = s.unpicks.set i { u with received := setInsert s.focus u.received } ∧
      t.core.stores = [] ∧ (LocalStores s → t.mem = s.core.stores.foldl Memory.perform s.mem) ∧
      t.core.regs = s.core.regs ∧ t.core.kregs = s.core.kregs ∧
      (∀ q, u.prin = some q →
        t.core.fit = s.core.fit.filter (fun e => !e.prins.contains q) ∧ t.patterns = s.patterns ∧
        (∀ c ∈ t.core.mxq, readsOn c.op = true → holds t u.part c.chain.toNat q = false) ∧
        ((∀ c ∈ s.core.mxq, readsOn c.op = true → holds t u.part c.chain.toNat q = false) → t.core.mxq = s.core.mxq) ∧
        t.core.rread = (match s.core.rread with
          | some w => if w.answer.isNone && holds t u.part (chnHandle s.core.chn) q then
              some { w with answer := some (.fails Cause.chaindead.code) } else some w
          | none => none)) ∧
      (u.prin = none →
        t.core.fit = [] ∧ t.core.mxq = s.core.mxq ∧ t.core.rread = s.core.rread ∧
        t.patterns = s.patterns.map fun c => if c.1 = s.focus / 64 then (c.1, c.2.filter fun b => !(b.part == u.part)) else c)

/-- R112, R113, R328: an announcement is over once every unit of its partition has received it and every module that it was sent to has
acknowledged; until then it stands. A book flush that is over leaves no rule of the partition in a pattern cache. -/
def Sys2Proof.Claims.AnnouncementEnds : Prop :=
  ∀ (s : State) (i : Nat) (u : Unpick), s.unpicks[i]? = some u →
    ((u.presented = false ∨ u.peers ≠ [] ∨ ∃ n ∈ s.unitsOf u.part, n ∉ u.received) → exec (.unpickComplete i) s = .next s) ∧
    (u.presented = true → u.peers = [] → (∀ n ∈ s.unitsOf u.part, n ∈ u.received) →
      (∀ q, u.prin = some q → exec (.unpickComplete i) s = .next { s with unpicks := s.unpicks.eraseIdx i }) ∧
      (u.prin = none → ∃ t : State, exec (.unpickComplete i) s = .next t ∧ t.unpicks = s.unpicks.eraseIdx i ∧
        (∀ c ∈ t.patterns, ∀ b ∈ c.2, b.part ≠ u.part) ∧
        (t.part u.part).bookflush = (if (s.unpicks.eraseIdx i).any fun v => v.part == u.part && v.prin.isNone then
          (s.part u.part).bookflush else false)))

/-- R110, R111, R192: a pattern walker installs what passes for the access or the FIT that the core issues next, and nothing where the
core issues no such instruction or its access fails before its fitting check. -/
def Sys2Proof.Claims.WalkInstalls : Prop :=
  ∀ (s : State) (bits : Nat) (i : Instr) (region : Nat) (need : BitVec 4), s.core.task.isSome → s.core.csr.km = false → ¬ inMessage s →
    s.core.rep = none → imemInsn s = some bits → decodeWord bits = .ok i →
    (fitOf s i = none → exec (.fittingWalk s.focus region need) s = .next s) ∧
    (∀ x, s.accessOf i = some x → s.reachesFitting x = false → exec (.fittingWalk s.focus region need) s = .next s) ∧
    (∀ a p perms prins w, fitOf s i = some (a, need) →
      ((∃ x, s.accessOf i = some x ∧ s.reachesFitting x = true) ∨
        (∃ d, i = .fit d a ∧ s.core.bound a = false ∧ (s.core.reg a).poison = false)) → (s.core.reg a).tag = true → (rtag (s.core.reg a)).toNat = region →
      s.partOf s.focus = some p → fitFind (chnHandle s.core.chn) region s.core.fit = none →
      s.fitWalk (s.focus / 64) p (chnHandle s.core.chn) region = (.rule perms prins, w) → perms &&& need = need →
      ∃ t : State, exec (.fittingWalk s.focus region need) s = .next t ∧ t.mem = s.mem ∧
        t.core.fit.head? = some ⟨s.core.chn.extractLsb' 0 16, BitVec.ofNat 10 region, perms, prins.length, prins⟩)

/-- R110 to R113, R247, R328: book flushes and unpicks begin, reach every unit and end, and walks install what they find. The readings of
log entries 63, 81 and 103 are the model's. -/
def Obligations.Announcements : Prop := AnnouncementBegins ∧ AnnouncementArrives ∧ AnnouncementEnds ∧ WalkInstalls

/-- R105, R107, R108, R111, R113, R114, R228 to R230: the chain group. The readings of log entries 62, 63 and 85 are the model's. -/
def Obligations.ChainForms : Prop := AdoptAndShed ∧ ChainInstructions

namespace Sys2Proof.Claims

open Sys2Proof.Machine

/-! ### Local time, duplex streams, sampling -/

/-- The local-time state of the running core replaced. -/
def withLt (s : State) (l : LocalTime) : State := { s with core := { s.core with lt := l } }

/-- The channel word of LTCHAN (R231). -/
structure ChanWord where
  out   : Bool
  valid : Bool
  ch    : Nat
  la    : BitVec 16
  mod   : BitVec 12
  core  : BitVec 20

def chanWord (w : DWord) : ChanWord :=
  ⟨w.getLsbD 63, w.getLsbD 62, (w.extractLsb' 48 3).toNat, w.extractLsb' 32 16, w.extractLsb' 20 12, w.extractLsb' 0 20⟩

/-- S is the least of what the valid input channels allow, or unbounded (R231). -/
def IsSafe (l : LocalTime) (S : Option Nat) : Prop :=
  match S with
  | none => ∀ c ∈ l.ins.toList, c.valid = false
  | some t => (∃ c ∈ l.ins.toList, c.valid = true ∧ t = c.last.toNat + c.la.toNat) ∧
      ∀ c ∈ l.ins.toList, c.valid = true → t ≤ c.last.toNat + c.la.toNat

/-- The state in which LTANN has placed its CLOCK and priced it (R232, R285). -/
def Announces (i : Instr) (s t : State) : Prop :=
  let held := t.core.sendBuf.countP fun x => !x.released
  let p := (t.partOf t.focus).getD 0
  if 16 ≤ held then TrapsWith i s .send 0
  else if 16 ≤ t.core.sendBuf.length then exec i s = .next (s.stalledOn false)
  else ∃ e m u, exec i s = .next u ∧ e.body = .msg m ∧ m.words = [t.core.lt.promise, 0] ∧ hKind m.hdr = 5 ∧ m.links = (t.chain p 0).getD [] ∧
    e.released = false ∧ e.copies = [] ∧
    u = (let x := t.core.csr.charge (t.core.csr.price0.extractLsb' 32 16).toNat
      ({ t with core := { t.core with
        sendBuf := t.core.sendBuf ++ [e], orders := t.core.orders + 1, csr := x } } : State).complete 2 .seq)

/-- A doubleword of a stream's descriptor at its home (R265). -/
def word (s : State) (m i : Nat) : DWord := BitVec.ofNat 64 (s.mem.read (m + 8 * i) 8)
/-- The same written (R236). -/
def putDsd (s : State) (m i : Nat) (v : DWord) : State :=
  { s with mem := s.mem.store (m + 8 * i) 8 v.toNat false false }.written (s.partOf s.focus) (m + 8 * i)

/-- The state in which an operation at the home is applied (R234, R89): what came before has been released, at the scope of an earlier
FENCE.REL of its stream too, no load of its stream that follows has performed, and the access is priced. -/
def arrived (s : State) : State :=
  let t := s.releaseFor s.focus .mod
  let t := match owing s.core with
    | some c => t.releaseFor t.focus c
    | none => t
  { t with core := { redeemed t.core with
      csr := t.core.csr.charge (t.core.csr.price0.extractLsb' 16 16).toNat, early := besides t.core } }

/-- The lowest position that a hem or a checkpoint may name (R235): G − CKD, or 0. -/
def lowest (s : State) (m : Nat) : Nat := (word s m 1).toNat - ((word s m 6).extractLsb' 32 7).toNat

/-- What an operation at the home answers and leaves (R236). -/
def dpxOf : Instr → Option (Reg × Reg × Reg × (State → Nat → DWord → DWord × State))
  | .playadv d a b => some (d, a, b, fun s m v =>
      let p := BitVec.ofNat 64 (Min.min (Max.max (word s m 2).toNat v.toNat) (word s m 3).toNat)
      (p, putDsd s m 2 p))
  | .genadv d a b => some (d, a, b, fun s m v =>
      if word s m 1 = v then (v, putDsd s m 1 (v + 1)) else (0x8000000000000000 ||| word s m 1, s))
  | .cmtadv d a b => some (d, a, b, fun s m v =>
      let c := BitVec.ofNat 64 (Min.min (Max.max (word s m 3).toNat v.toNat) (word s m 1).toNat)
      (c, putDsd s m 3 c))
  | .dpxget d a b => some (d, a, b, fun s m v => (match v.toNat % 8 with
      | 0 => word s m 1
      | 1 => word s m 2
      | 2 => word s m 3
      | 3 => word s m 4
      | 4 => word s m 5
      | 5 => ((word s m 0).extractLsb' 48 2).setWidth 64
      | 6 => ((word s m 6).extractLsb' 32 7).setWidth 64
      | _ => 0, s))
  | _ => none

/-- A block of the key-value map freed (R268): where its entry is valid, its bit 0 is cleared, and, where the ring has room, the block's
address is written to the free-block ring and FPROD rises. -/
def blockFreed (s : State) (p m entry : Nat) : State :=
  let w := s.guestWord p entry
  if w.getLsbD 0 then
    let t := s.setGuestWord p entry (w &&& 0xFFFFFFFFFFFFFFFE)
    let fprod : BitVec 32 := (word t m 13).extractLsb' 32 32
    let fcap : BitVec 32 := (word t m 13).extractLsb' 0 32
    let fcons : BitVec 32 := (word t m 14).extractLsb' 0 32
    if (fprod - fcons).toNat < fcap.toNat then
      putDsd (t.setGuestWord p ((word t m 12).toNat + 8 * (fprod.toNat % fcap.toNat)) (w &&& 0xFFFFFFFFFFFFFFC0)) m 13 ((fprod + 1) ++ fcap)
    else t
  else s

/-- The blocks freed whose positions all lie at or above t, layer by layer, where the DSD's CHAIN reaches its addresses (R265, R268). -/
def blocksFreed (s : State) (p m t : Nat) (cap : QWord) : State :=
  let first := (t + 15) / 16
  match (s.fitWalk noPanel p ((word s m 0).extractLsb' 32 16).toNat (cap.extractLsb' 104 10).toNat).1 with
  | .rule perms _ =>
    if perms &&& 12 = 12 then
      (List.range ((word s m 11).extractLsb' 0 16).toNat).foldl (fun s l =>
        (List.range (((word s m 11).extractLsb' 16 32).toNat - first)).foldl (fun s k =>
          blockFreed s p m ((word s m 10).toNat + 8 * (l * ((word s m 11).extractLsb' 16 32).toNat + first + k))) s) s
    else s
  | _ => s

/-- The restore that a hem starts (R235, R267, R119): SSIZE bytes from slot t mod 64 to STBASE under the DSD's CHAIN, with the region tag of
the DSD capability; its bytes decrement counter RCTR of core RCORE. -/
def restoreOf (s : State) (p m t : Nat) (cap : QWord) : EngCmd :=
  let size := ((word s m 6).extractLsb' 0 32).toNat
  let on (a : DWord) : QWord := cap.extractLsb' 64 64 ++ a
  { kind := .restore, core := s.focus, part := p, chain := (word s m 0).extractLsb' 32 16, ltag := s.core.ltag, work := s.core.work,
    eng64 := s.core.csr.price1.extractLsb' 0 16, src := on (word s m 8 + BitVec.ofNat 64 (t % 64 * size)), dst := on (word s m 7),
    desc := 0, rows := 1, rowLen := size, idxOff := 0, sStep := 0, dStep := 0, remote := none, wmen := false, chan := 0, cen := true,
    cctr := (word s m 14).extractLsb' 52 6, ccore := (word s m 14).extractLsb' 32 20, mbox := none }

/-- FLUSH sent by the home (R34, R235): an ACTIVE message with t and HEMS to the output channel of the DSD. -/
def flushSent (s : State) (p m t : Nat) (hems : DWord) : State :=
  let w := word s m 15
  let d := s.die (m / 2 ^ 31)
  let msg : Msg :=
    { hdr := d.homeNo ++ (0 : BitVec 2) ++ (2 : BitVec 3) ++ w.extractLsb' 38 2 ++ w.extractLsb' 32 6 ++ (0 : BitVec 3) ++
        w.extractLsb' 20 12 ++ w.extractLsb' 0 20,
      words := [BitVec.ofNat 64 t, hems], cap := none,
      env := (2 : BitVec 8) ++ BitVec.ofNat 8 p ++ s.core.chn.extractLsb' 0 16 ++ s.modnum ++ BitVec.ofNat 20 (m / 2 ^ 31 * 2 ^ 18),
      work := s.core.work, launch := s.core.ltag.setWidth 64, links := (s.chain p (s.core.chn.extractLsb' 0 16).toNat).getD [],
      free := false, waited := 0, poison := false }
  s.modDie (m / 2 ^ 31) fun d =>
    { d with home := d.home ++ [⟨d.orders, true, .msg msg, [⟨w.extractLsb' 20 12, w.extractLsb' 0 20, 0, .ready⟩], none⟩],
             homeNo := d.homeNo + 1, orders := d.orders + 1 }

/-- HemCore(t) past its checks (R235): G becomes t, the blocks at and above t are freed, the restore starts, C and P come down to t,
HEMS rises, FLUSH is sent, and the core waits for no hem any more. -/
def hemmed (s : State) (p m t : Nat) (cap : QWord) (key : Option Nat) : State :=
  let low (i : Nat) : DWord := BitVec.ofNat 64 (Min.min (word s m i).toNat t)
  let hems := word s m 5 + 1
  let g := blocksFreed (putDsd s m 1 (BitVec.ofNat 64 t)) p m t cap
  let g := { g with jobs := g.jobs ++ [⟨restoreOf g p m t cap, key.getD 0, false, [], [],
    if key.isSome then none else some Cause.engfault.code, false⟩] }
  let g := flushSent (putDsd (putDsd (putDsd g m 3 (low 3)) m 2 (low 2)) m 5 hems) p m t hems
  { g with hemWait := s.hemWait.filter fun w => !(w.2 == s.focus) }

/-- A slot that is valid for a position (R267). -/
def slotHolds (s : State) (m t : Nat) : Prop :=
  (word s m 9).getLsbD (t % 64) = true ∧ s.mem.read (m + 128 + 2 * (t % 64)) 2 = t % 2 ^ 16

/-- A released CKPT into a slot that has not ended (R235). -/
def slotFilling (s : State) (m t : Nat) : Bool :=
  s.jobs.any fun j => !j.finished && (match j.cmd.kind with
    | .ckpt d k _ => d == m && k == t % 64
    | _ => false)

/-- The zero-lookahead output channels of a core to cores of its module, with their destinations, by channel index (R287). -/
def zeroOutsOf (l : LocalTime) (modnum : BitVec 12) : List (Nat × Nat) :=
  (List.range 8).filterMap fun k => match l.outs[k]? with
    | some o => if o.valid && o.la == 0 && o.mod == modnum then some (k, o.core.toNat) else none
    | none => none

/-- A path of recorded edges (R287). -/
def edgePath (edges : List (Nat × List Nat)) : Nat → Nat → Nat → Prop
  | 0, a, b => a = b
  | k + 1, a, b => ∃ x ∈ (alookup a edges).getD [], edgePath edges k x b

/-- Whether a channel lies on a cycle of at most 64 recorded edges (R287; log entry 67). -/
def onCycle (edges : List (Nat × List Nat)) (n dest : Nat) : Prop := ∃ k, k ≤ 63 ∧ edgePath edges k dest n

/-- A bound that the next promise of a blocked core must not pass (R286): the stamp of an event that waits, or what a valid input
channel allows. -/
def BoundedBy (c : Core) (x : Nat) : Prop :=
  (∃ (i : Nat) (e : EvEntry), (c.evq[i]?).bind id = some e ∧ e.phase = .waiting ∧ x = (e.msg.words.headD 0).toNat) ∨
    (∃ y ∈ c.lt.ins.toList, y.valid = true ∧ x = y.last.toNat + y.la.toNat)

/-- rank of an FP32 value (R239): a key that orders NaN lowest and then by totalOrder. -/
def IsRank (rank : BitVec 32 → Nat) : Prop :=
  let nan (x : BitVec 32) : Bool := x.extractLsb' 23 8 == 255 && x.extractLsb' 0 23 != 0
  ∀ x y, (nan x = true → nan y = true → rank x = rank y) ∧ (nan x = true → nan y = false → rank x < rank y) ∧
    (nan x = false → nan y = false →
      (rank x < rank y ↔ (if x.getLsbD 31 then (if y.getLsbD 31 then y.toNat < x.toNat else True)
        else (if y.getLsbD 31 then False else x.toNat < y.toNat))))

end Sys2Proof.Claims

/-- R231, R232, R287: LTON starts the mode at a clock where it is not on, records the core's channels without lookahead and traps ZEROLA
with the first of them on a cycle of recorded edges; LTOFF ends the mode and takes the core's edges out, LTCLK reads it, LTCHAN writes a channel, LTANN and LTNULL place an announcement; but for LTON and LTCHAN each traps SEND where ON is
0. The reading of log entry 67 is the model's. -/
def Obligations.LocalTimeForms : Prop :=
  ∀ (s t u : State) (d a : Reg) (v : Val), readReg a s = .ok (v, t) → v.poison = false →
    let l := t.core.lt
    let w := chanWord (lo v)
    let off : LocalTime := { s.core.lt with on := false, blocked := none }
    let begun : State := if l.on then t else withLt t { l with on := true, clock := lo v, promise := lo v }
    (∀ p, t.partOf t.focus = some p →
      let outs := zeroOutsOf l t.modnum
      let edges := aset t.focus (outs.map Prod.snd) (t.part p).zeroMap
      ((∀ o ∈ outs, ¬ onCycle edges t.focus o.2) →
        exec (.lton a) s = .next ({ begun with parts := aset p { t.part p with zeroMap := edges } t.parts }.complete 2 .seq)) ∧
      (∀ before o after, outs = before ++ o :: after → (∀ x ∈ before, ¬ onCycle edges t.focus x.2) → onCycle edges t.focus o.2 →
        TrapsWith (.lton a) s .zerola (BitVec.ofNat 64 o.1))) ∧
    (t.partOf t.focus = none → exec (.lton a) s = .next (begun.complete 2 .seq)) ∧
    (s.core.lt.on = true → s.partOf s.focus = none → exec .ltoff s = .next ((withLt s off).complete 2 .seq)) ∧
    (∀ p, s.core.lt.on = true → s.partOf s.focus = some p → exec .ltoff s = .next (({ withLt s off with
        parts := aset p { s.part p with zeroMap := aerase s.focus (s.part p).zeroMap } s.parts }).complete 2 .seq)) ∧
    (∀ i, s.core.lt.on = false → i ∈ [Instr.ltoff, .ltann] → TrapsWith i s .send 0) ∧
    (∀ i, l.on = false → i ∈ [Instr.ltclk d a, .ltnull a] → TrapsWith i s .send 0) ∧
    (∀ x S, l.on = true → IsSafe l S → (∀ n, S = some n → n < 2 ^ 64) →
      (match (lo v).toNat % 4 with
        | 0 => x = l.clock
        | 1 => x = (match S with
          | none => BitVec.allOnes 64
          | some n => BitVec.ofNat 64 n)
        | 2 => x = l.promise
        | _ => x = BitVec.ofNat 64 (t.core.evq.toList.countP fun e => match e with
          | some y => y.phase == .waiting
          | none => false)) →
      writeReg d (clean x) t = .ok ((), u) → exec (.ltclk d a) s = .next (u.complete 2 .seq)) ∧
    (let taken : Prop := w.valid = true ∧ ∃ k c, k ≠ w.ch ∧ l.outs[k]? = some c ∧ c.valid = true ∧ c.mod = w.mod ∧ c.core = w.core
     w.out = true → (taken → TrapsWith (.ltchan a) s .send (lo v)) ∧
        (¬ taken → exec (.ltchan a) s = .next ((withLt t { l with
          outs := l.outs.setIfInBounds w.ch (if w.valid then ⟨true, w.la, w.mod, w.core⟩ else ⟨false, 0, 0, 0⟩) }).complete 2 .seq))) ∧
    (let taken : Prop := w.valid = true ∧ ∃ k c, k ≠ w.ch ∧ l.ins[k]? = some c ∧ c.valid = true ∧ c.mod = w.mod ∧ c.core = w.core
     w.out = false → (taken → TrapsWith (.ltchan a) s .send (lo v)) ∧
        (¬ taken → ∃ u : State, exec (.ltchan a) s = .next u ∧ u.core.lt.ins =
          l.ins.setIfInBounds w.ch (if w.valid then ⟨true, w.la, w.mod, w.core, 0, 0⟩ else ⟨false, 0, 0, 0, 0, 0⟩) ∧
          u.core.lt.on = l.on ∧ u.core.lt.clock = l.clock ∧ u.core.lt.promise = l.promise ∧ u.core.lt.outs = l.outs)) ∧
    (s.core.lt.on = true → Announces .ltann s s) ∧
    (l.on = true → Announces (.ltnull a) s (withLt t { l with
      promise := if l.promise.toNat < (lo v).toNat then lo v else l.promise }))

/-- R280 to R282, R286, R289: an event whose stamp is below S leaves the event queue in key order for its priority queue; a core
that is blocked announces the lesser of its head's stamp and S; a raised ZEROLA ends the mode at a task boundary. The reading of
log entry 67 is the model's. -/
def Obligations.LocalTimeAgents : Prop :=
  ∀ (s : State),
    let c := s.core
    let ev (i : Nat) : Option EvEntry := (c.evq[i]?).bind id
    (∀ i e, ev i = some e → e.phase = .waiting → c.hasCandidate = false →
      (∀ j f, ev j = some f → f.phase = .waiting → j ≠ i → e.key < f.key) →
      (c.lt.on = false ∨ (∀ x ∈ c.lt.ins.toList, x.valid = true → (e.msg.words.headD 0).toNat < x.last.toNat + x.la.toNat)) →
      ∃ t : State, exec (.eventDispatch s.focus) s = .next t ∧ (t.core.evq[i]?).bind id = some { e with phase := .ready } ∧
        (∀ q, e.msg.prio = q → t.core.queues[q]? = (c.queues[q]?).map fun l => l ++ [⟨.event i, s.clock⟩])) ∧
    (∀ i e, ev i = some e → e.phase = .waiting → (∀ j f, ev j = some f → f.phase = .waiting → e.key ≤ f.key) → c.lt.on = true →
      (∃ x ∈ c.lt.ins.toList, x.valid = true ∧ x.last.toNat + x.la.toNat ≤ (e.msg.words.headD 0).toNat) →
      exec (.eventDispatch s.focus) s = .next s) ∧
    (∀ since x, c.lt.blocked = some since → c.lt.on = true → c.task = none → c.csr.km = false → c.kwork = [] →
      (∀ (q : Fin 4) (y : QItem), y ∈ c.queues[q] → leaving c y.what) → c.lt.stalledAt 2 = false →
      let outs := (c.lt.outs.toList.filter fun o => o.valid).map fun o => (⟨o.mod, o.core, 0, .ready⟩ : Copy)
      let round (promise : DWord) (t : State) : Prop := exec (.automaticRound s.focus) s = .next t ∧ t.core.lt.promise = promise ∧
        t.core.lt.rounds = c.lt.rounds + 1 ∧ since + 256 * (c.lt.rounds + 1) ≤ t.clock ∧ t.mem = s.mem
      ((∀ y, ¬ BoundedBy c y) ∨ (BoundedBy c x ∧ (∀ y, BoundedBy c y → x ≤ y) ∧ x ≤ c.lt.promise.toNat) →
        ∃ t : State, round c.lt.promise t ∧ t.core.ni = c.ni ∧ t.core.sendNo = c.sendNo) ∧
      (BoundedBy c x → (∀ y, BoundedBy c y → x ≤ y) → c.lt.promise.toNat < x → x < 2 ^ 64 →
        ∃ t : State, round (BitVec.ofNat 64 x) t ∧
          (outs = [] → t.core.ni = c.ni) ∧
          (outs ≠ [] → ∃ (e : SendEntry) (m : Msg), t.core.ni = c.ni ++ [e] ∧ e.body = .msg m ∧ e.released = true ∧ e.copies = outs ∧
            m.words = [BitVec.ofNat 64 x, 0] ∧ t.core.sendNo = c.sendNo + 1 ∧
            m.hdr = c.sendNo ++ (0 : BitVec 2) ++ (2 : BitVec 3) ++ (0 : BitVec 2) ++ (0 : BitVec 6) ++ (5 : BitVec 3) ++ (0 : BitVec 32)))) ∧
    (∀ k r, c.task = none → c.csr.km = false → c.out = false → c.kwork = KWork.zerola k :: r → (∀ i, ev i = none) →
      ∃ t : State, exec (.zerolaEntry s.focus) s = .next t ∧ t.core.kwork = r ∧ t.core.lt.on = false ∧
        t.core.csr.ecause = 18 ∧ t.core.csr.eval = BitVec.ofNat 64 k)

/-- R234, R236: PLAYADV, GENADV, CMTADV and DPXGET at the home. -/
def Sys2Proof.Claims.CursorForms : Prop :=
  ∀ (s t u w : State) (x y : Val) (m : Nat) (i : Instr) (d a b : Reg) (op : State → Nat → DWord → DWord × State),
    x.poison = false → y.poison = false → (∀ d, d ≠ s.focus → (m, d) ∉ u.hemWait) → dpxOf i = some (d, a, b, op) →
    readAll [a, b] s = .ok ([x, y], t) → dsdAccess a x t = .ok (m, u) → u.focus = s.focus →
    writeReg d (clean (op (arrived u) m (lo y)).1) (op (arrived u) m (lo y)).2 = .ok ((), w) →
    exec i s = .next (w.complete 2 .seq)

/-- R235, R236, R267, R268: HEM traps HEMRANGE outside [G − CKD, G] and where the slot does not hold the position, waits while a released
CKPT fills the slot or a frame that it reads or writes is to be scrubbed (R332), and else has HemCore's effects and answers HEMS. -/
def Sys2Proof.Claims.HemForm : Prop :=
  ∀ (s t u : State) (x y : Val) (m : Nat) (d a b : Reg),
    x.poison = false → y.poison = false → (∀ d, d ≠ s.focus → (m, d) ∉ u.hemWait) →
    readAll [a, b] s = .ok ([x, y], t) → dsdAccess a x t = .ok (m, u) → u.focus = s.focus →
    let h := arrived u
    let pos := (lo y).toNat
    let inside : Prop := pos ≤ (word h m 1).toNat ∧ lowest h m ≤ pos
    (¬ inside → TrapsWith (.hem d a b) s .hemrange (lo y)) ∧
    (inside → slotFilling h m pos = true → exec (.hem d a b) s =
      .next ({ s with hemWait := (m, s.focus) :: s.hemWait.filter fun w => !(w.2 == s.focus) }.complete 2 .wait)) ∧
    (inside → slotFilling h m pos = false → ¬ slotHolds h m pos → TrapsWith (.hem d a b) s .hemrange (lo y)) ∧
    (∀ p f, inside → slotFilling h m pos = false → slotHolds h m pos → s.partOf s.focus = some p → h.hemHeld p m x.bits = some f →
      AwaitsScrub (.hem d a b) s f) ∧
    (∀ p, inside → slotFilling h m pos = false → slotHolds h m pos → s.partOf s.focus = some p → h.hemHeld p m x.bits = none →
      ∃ key, let g := hemmed h p m pos x.bits key
        ∀ w, writeReg d (clean (word g m 5)) g = .ok ((), w) → exec (.hem d a b) s = .next (w.complete 2 .seq))

/-- R235, R236, R270: FRAME traps LATEFRAME for a sequence number below NEXTSEQ and, with BARGE, for a position outside [G − CKD, G];
with BARGE it hems there, or waits, for a scrub too (R332), or traps HEMRANGE; applied, it moves NEXTSEQ and reserves NTOK positions from G. -/
def Sys2Proof.Claims.FrameForm : Prop :=
  ∀ (s t q w u : State) (x y : Val) (m part : Nat) (d a b : Reg) (p : Place) (v : Loaded) (r0 r1 r2 r3 : DWord),
    x.poison = false → y.poison = false → (∀ d, d ≠ s.focus → (m, d) ∉ u.hemWait) →
    readAll [a, b] s = .ok ([x, y], t) → dsdAccess a x t = .ok (m, q) → u.focus = s.focus →
    access { cap := y, num := b, ea := lo y, n := 32, need := ⟨true, false, false, false⟩, align := some 16, window := true,
             noGlob := none, local_ := false } q = .ok (p, w) → loadPlace p.cut true b w = .ok (v, u) →
    [r0, r1, r2, r3] = (List.range 4).map (fun k => (BitVec.ofNat 64 (v.value / 2 ^ (64 * k)) : DWord)) →
    s.partOf s.focus = some part →
    let h := paid (lo y) (arrived u)
    let pf := (r2.extractLsb' 0 32).toNat
    let traps (c : Nat) (e : DWord) : Prop := exec (.frame d a b) s = .next (takeTrap ⟨c, e, none, some (lo x), none⟩ s)
    let applied (g : State) : Prop := ∀ z, writeReg d (clean (word g m 1))
      (putDsd (putDsd g m 4 (r0 + 1)) m 1 (word g m 1 + (r3.extractLsb' 0 16).setWidth 64)) = .ok ((), z) →
      exec (.frame d a b) s = .next (z.complete 2 .seq)
    let inside : Prop := pf ≤ (word h m 1).toNat ∧ lowest h m ≤ pf
    (r0.toNat < (word h m 4).toNat → traps Cause.lateframe.code r0) ∧
    ((word h m 4).toNat ≤ r0.toNat →
      (r2.getLsbD 63 = false → applied h) ∧
      (r2.getLsbD 63 = true →
        (¬ inside → traps Cause.lateframe.code (BitVec.ofNat 64 pf)) ∧
        (inside → slotFilling h m pf = true → exec (.frame d a b) s =
          .next ({ s with hemWait := (m, s.focus) :: s.hemWait.filter fun w => !(w.2 == s.focus) }.complete 2 .wait)) ∧
        (inside → slotFilling h m pf = false → ¬ slotHolds h m pf → traps Cause.hemrange.code (BitVec.ofNat 64 pf)) ∧
        (∀ f, inside → slotFilling h m pf = false → slotHolds h m pf → h.hemHeld part m x.bits = some f → AwaitsScrub (.frame d a b) s f) ∧
        (inside → slotFilling h m pf = false → slotHolds h m pf → h.hemHeld part m x.bits = none → ∃ key, applied (hemmed h part m pf x.bits key))))

/-- R236, R267: CKPT makes its slot invalid at the home and places the command that fills it, or traps HEMRANGE. -/
def Sys2Proof.Claims.CheckpointForm : Prop :=
  ∀ (s t u : State) (x y z : Val) (m : Nat) (d a b : Reg), x.poison = false → y.poison = false →
    (∀ d, d ≠ s.focus → (m, d) ∉ u.hemWait) → readAll [d, a, b] s = .ok ([z, x, y], t) → z.poison = false →
    dsdAccess a x t = .ok (m, u) → u.focus = s.focus →
    y.tag = true → otype y = 0 → y.bits.getLsbD 127 = true → y.bits.getLsbD 120 = true →
    let h := arrived u
    let slot := (lo z).toNat % 64
    let size := ((word h m 6).extractLsb' 0 32).toNat
    (((word h m 1).toNat < (lo z).toNat ∨ (lo z).toNat < lowest h m) → TrapsWith (.ckpt d a b) s .hemrange (lo z)) ∧
    ((lo z).toNat ≤ (word h m 1).toNat → lowest h m ≤ (lo z).toNat →
      let g := putDsd h m 9 (word h m 9 &&& ~~~((1 : DWord) <<< slot))
      g.core.sendBuf.countP (fun e => !e.released) < 16 → g.core.sendBuf.length < 16 →
      ∃ (w : State) (e : SendEntry) (c : EngCmd), exec (.ckpt d a b) s = .next (w.complete 2 .seq) ∧ w.mem = g.mem ∧
        w.core.sendBuf = g.core.sendBuf ++ [e] ∧ e.body = .engine c ∧ e.released = false ∧
        c.kind = .ckpt m slot ((lo z).extractLsb' 0 16) ∧ c.src = y.bits ∧ c.rowLen = size ∧ c.rows = 1 ∧
        c.dst = x.bits.extractLsb' 64 64 ++ (word h m 8 + BitVec.ofNat 64 (slot * size)) ∧
        c.chain = u.core.chn.extractLsb' 0 16)

/-- R234 to R236, R265, R267, R268, R270: a DPX form whose descriptor is granted and whose home is free is applied at the home: PLAYADV
and CMTADV move a cursor within its limits, GENADV appends or answers STALE, DPXGET reads, FRAME reserves positions or traps
LATEFRAME, CKPT makes its slot invalid and places its command, HEM goes back to a checkpointed position or traps HEMRANGE. The
readings of log entries 68, 85 and 124 are the model's. -/
def Obligations.DuplexForms : Prop := CursorForms ∧ HemForm ∧ FrameForm ∧ CheckpointForm

/-- R237 to R239: SMPARM arms a slot for a tag, SMPINJ places a SAMPLE, SMPGET reports a slot; Better takes the higher rank and
on equal rank the lower index, whatever the order of arrival. SMPGET acquires: no load of its stream that follows has performed (R89). The reading of log entry 69 is the model's. -/
def Obligations.SampleForms : Prop :=
  (∀ (s t : State) (a b : Reg) (x y : Val), readAll [a, b] s = .ok ([x, y], t) → x.poison = false → y.poison = false →
    let i := ((lo x).extractLsb' 32 6).toNat
    let tag : BitVec 32 := (lo x).extractLsb' 0 32
    ((∃ k e, k ≠ i ∧ t.core.samples[k]? = some e ∧ e.armed = true ∧ e.tag = tag) → TrapsWith (.smparm a b) s .send (lo x)) ∧
    (¬ (∃ k e, k ≠ i ∧ t.core.samples[k]? = some e ∧ e.armed = true ∧ e.tag = tag) →
      ∃ u : State, exec (.smparm a b) s = .next (u.complete 2 .seq) ∧
        u.core.samples = t.core.samples.setIfInBounds i
          ⟨(lo y).extractLsb' 0 16 != 0, tag, (lo y).extractLsb' 0 16, (lo y).extractLsb' 16 6, (lo y).extractLsb' 22 2, none, 0, false,
            t.core.chn.extractLsb' 0 16, t.core.ltag, t.core.work⟩ ∧ u.mem = t.mem ∧ u.core.regs = t.core.regs)) ∧
  (∀ (s : State) (a b : Reg), Plain s → s.core.bound a = false → s.core.bound b = false → (s.core.reg a).poison = false →
    (s.core.reg b).poison = false →
    let x := lo (s.core.reg a)
    let n := (x.extractLsb' 0 20).toNat
    let inside := match s.partOf s.focus with
      | some p => s.inSet p (n / 64)
      | none => false
    (inside = false → TrapsWith (.smpinj a b) s .send x) ∧
    (inside = true → Places (.smpinj a b) s s x (sendEntry s [x >>> 32, lo (s.core.reg b), 1] false
      ⟨(0 : BitVec 16) ++ (0 : BitVec 2) ++ (3 : BitVec 3) ++ (0 : BitVec 2) ++ (0 : BitVec 6) ++ (6 : BitVec 3) ++ s.modnum ++
          BitVec.ofNat 20 n, none, [(s.modnum, BitVec.ofNat 20 n)]⟩))) ∧
  (∀ (s t u : State) (d a : Reg) (v : Val) (e : SampleSlot), readReg a s = .ok (v, t) → v.poison = false →
    t.core.samples[((lo v).extractLsb' 0 6).toNat]? = some e →
    let best := e.best.getD (0, 0)
    let bits : QWord := (0 : BitVec 30) ++ BitVec.ofBool true ++ BitVec.ofBool e.complete ++ e.count ++ best.2 ++ best.1
    writeReg d ⟨if e.armed then bits else 0, false, false⟩ (acquired t) = .ok ((), u) → exec (.smpget d a) s = .next (u.complete 2 .seq)) ∧
  IsRank sampleRank ∧
  (∀ x y : BitVec 32 × BitVec 32, better (some x) (some y) =
    some (if sampleRank y.1 < sampleRank x.1 ∨ (sampleRank x.1 = sampleRank y.1 ∧ x.2.toNat ≤ y.2.toNat) then x else y)) ∧
  (∀ x y z, better x (better y z) = better (better x y) z) ∧
  (∀ x y, (∀ p q, x = some p → y = some q → sampleRank p.1 = sampleRank q.1 → p.2 = q.2 → p = q) → better x y = better y x)

namespace Sys2Proof.Claims

open Sys2Proof.Machine

/-! ### The scheduler and the network -/

/-- The core in focus is at a task boundary of partition `p`, in service, with no kernel work before its queues. -/
def Boundary (s : State) (p : Nat) : Prop :=
  s.core.task = none ∧ s.core.csr.km = false ∧ s.core.out = false ∧ s.core.install = [] ∧ s.core.kwork = [] ∧ s.core.hold = none ∧
    s.partOf s.focus = some p ∧ (s.part p).dying = false ∧ s.quiesced s.focus p = false

/-- Whether a queued item is a task on its way to a neighbour (R57). -/
def onItsWay (c : Core) (x : QItem) : Bool :=
  match x.what with
  | .slot i => c.ni.any fun e => e.back == some i
  | _ => false

/-- A core's queued items, the lowest-numbered queue first. -/
def queuedItems (c : Core) : List QItem := c.queues.toList.flatMap fun l => l

/-- The work that a core takes next: the first of its lowest-numbered queue that is not on its way elsewhere (R53, R57). -/
def nextWork (c : Core) : Option Trigger := (((queuedItems c).filter fun x => !onItsWay c x).map QItem.what).head?

/-- How much FREE work waits in a core's queues (R57). -/
def freeWork (c : Core) : Nat := (queuedItems c).countP fun x => !onItsWay c x && (match x.what with
  | .slot i => ((c.inbox[i]?).bind fun m => m).any Msg.free
  | _ => false)

/-- A routine's data capability (R157): LD and ST over its named regions. -/
def regionCap (r : Routine) : Val :=
  if r.rbytes = 0 then ⟨0, false, false⟩
  else ⟨(3 : BitVec 2) ++ (0 : BitVec 12) ++ r.region ++ BitVec.ofNat 24 r.tb ++ BitVec.ofNat 16 r.rbytes ++ BitVec.ofNat 64 r.tb, true, false⟩

/-- The general registers at the start of a task by a message (R32). -/
def startRegs (s : State) (p : Nat) (m : Msg) (r : Option Routine) (j : Nat) : Val :=
  if j = 0 then ⟨0, false, false⟩
  else if j = 7 ∧ m.cap.isSome then ⟨m.cap.getD 0, true, false⟩
  else if j < 8 then (match m.words[j - 1]? with
    | some w => ⟨w.setWidth 128, false, m.poison⟩
    | none => ⟨0, false, false⟩)
  else if j = 8 then clean m.work
  else if j = 9 then clean m.hdr
  else if j = 10 then (match r with
    | some x => regionCap x
    | none => ⟨0, false, false⟩)
  else if j = 11 then (match (s.launchOf (some p) (m.launch.extractLsb' 0 16)).bind Launch.arg with
    | some c => ⟨c, true, false⟩
    | none => ⟨0, false, false⟩)
  else ⟨0, false, false⟩

/-- A core in which a task has just been started at a pc with a routine (R32). -/
def JustStarted (u : State) (t : Trigger) (pc : BitVec 12) (r : Option Routine) : Prop :=
  ∃ k, u.core.task = some k ∧ k.trigger = t ∧ k.started = u.clock ∧ u.core.pc = pc ∧ u.core.csr.km = false ∧ u.core.csr.meter = 0 ∧
    u.core.csr.fflags = 0 ∧ u.core.csr.rmode = 0 ∧ u.core.binds = [] ∧ u.core.rep = none ∧
    (∀ j : Fin 16, u.core.windows[j] = (match r with
      | some x => x.windows[j] &&& windowFields
      | none => 0)) ∧
    (∀ q : Fin 4, ∀ x ∈ u.core.queues[q], x.what = t → ∃ c, t = .counter c)

/-- The instruction of each kind of message (R33). -/
def arrivalOf : BitVec 3 → MsgSrc → Instr
  | 0 => .activeMessage
  | 1 => .countMessage
  | 2 => .codeMessage
  | 3 => .dataMessage
  | 4 => .eventMessage
  | 5 => .clockMessage
  | 6 => .sampleMessage
  | _ => .systemMessage

/-- A copy of a released message that nothing released earlier holds back, for a core of this module (R39). -/
def Arriving (s : State) (u : Sender) (slot i : Nat) (o : Outgoing) : Prop :=
  s.outgoing u slot i = some o ∧ o.copy.phase = .ready ∧ o.copy.dmod = s.modnum ∧ o.behind (s.sendsBeside u) = false ∧ o.entry.back = none

/-- The partition of an envelope (R34). -/
def envPart (m : Msg) : Nat := (m.env.extractLsb' 48 8).toNat

/-- A core takes messages of the partition of the envelope now (R40). -/
def Takes (s : State) (m : Msg) (n : Nat) : Prop :=
  s.inSet (envPart m) (n / 64) = true ∧ (s.part (envPart m)).dying = false ∧ s.occupant (n / 64) = some (envPart m) ∧
    (s.getCore n).out = false ∧ (s.die (dieOfPanel (n / 64))).cmds = []

/-- Whether a message needs an inbox slot (R35). -/
def needs (c : Core) (m : Msg) : Bool := [(0 : BitVec 3), 2, 3, 7].contains (hKind m.hdr) || (hKind m.hdr == 4 && !c.lt.on)

/-- The valid input channel of a message's source (R231). -/
def channelOf (c : Core) (m : Msg) : Option Nat :=
  c.lt.ins.toList.findIdx? fun x => x.valid && x.mod == m.env.extractLsb' 20 12 && x.core == m.env.extractLsb' 0 20

end Sys2Proof.Claims

/-- R31, R32, R36, R43, R53, R157, R238: TASK_DISPATCH at a task boundary serves kernel work first and then takes the head of
the lowest-numbered queue that is not empty: an ACTIVE message, a counter or a sampling slot starts its handler with the state
of R32, a CODE message runs its payload, a DATA message writes it first; what has no handler is counted and discarded, and a start
whose chain's entry lies in a frame to be scrubbed waits (R332). The readings of log entries 24, 25, 26, 30, 31, 85, 118, 121, 125 and
126 are the model's. -/
def Obligations.TaskStart : Prop :=
  ∀ (s : State) (p : Nat),
    let c := s.core
    let run := exec (.taskDispatch s.focus) s
    let hnd (k : Nat) : DWord := c.handlers[k]?.getD 0
    let routineOf (h : DWord) : Option Routine := c.routines.find? fun x => x.index == h.extractLsb' 16 8
    let fits (r : Option Routine) : Prop := ∀ x, r = some x → x.tb < 2 ^ 24 ∧ x.rbytes < 2 ^ 16
    let readable (h : Nat) : Prop := s.heldAt p (entryAt s p h) = none
    let awaits (h : Nat) : Prop := ∀ f, s.heldAt p (entryAt s p h) = some f → run = .next { s.demanded f with waiting := true }
    (Boundary s p → nextWork c = none → ∃ u : State, run = .next u ∧ u.waiting = true ∧ u.core.task = none ∧ u.core.regs = c.regs) ∧
    (∀ i m, Boundary s p → nextWork c = some (.slot i) → c.inbox[i]? = some (some m) → m.words.length ≤ 7 →
      let h := hnd (m.hdr.extractLsb' 35 6).toNat
      let r := if h.getLsbD 63 then routineOf h else none
      let starts (u : State) (pc : BitVec 12) (code : Option (Nat × Nat)) : Prop :=
        JustStarted u (.slot i) pc r ∧ (∀ j, (hj : j < 32) → u.core.regs[j] = startRegs s p m r j) ∧
          chnHandle u.core.chn = (m.env.extractLsb' 32 16).toNat ∧ u.core.csr.budget.toNat ≤ 2 ^ 24 ∧
          (∀ l, s.launchOf (some p) (m.launch.extractLsb' 0 16) = some l → u.core.csr.budget.toNat = Min.min (2 ^ 24) l.budget.toNat) ∧
          (∀ k, u.core.task = some k → k.work = m.work ∧ k.msrc = m.env ∧ k.ltag = m.launch.extractLsb' 0 16 ∧ k.code = code) ∧
          u.core.inbox = c.inbox
      let chain := (m.env.extractLsb' 32 16).toNat
      let at_ := (h.extractLsb' 48 12).toNat * 8
      (hKind m.hdr = 2 ∨ (hKind m.hdr = 0 ∧ h.getLsbD 63 = true ∧ h.getLsbD 61 = false) ∨
        (hKind m.hdr = 3 ∧ h.getLsbD 63 = true ∧ h.getLsbD 61 = false ∧ h.getLsbD 60 = true ∧
          (m.words = [] ∨ at_ + 8 * (m.words.length - 1) < 0x8000)) → awaits chain) ∧
      (fits r → readable chain → hKind m.hdr = 0 → h.getLsbD 63 = true → h.getLsbD 61 = false →
        ∃ u : State, run = .next u ∧ starts u (h.extractLsb' 0 12) none ∧ u.mem = s.mem) ∧
      (fits r → readable chain → hKind m.hdr = 2 → ∃ u : State, run = .next u ∧ starts u 0 (some (i, hLen m.hdr)) ∧ u.mem = s.mem) ∧
      (hKind m.hdr = 3 → h.getLsbD 63 = true → h.getLsbD 61 = false → h.getLsbD 60 = true →
        (fits r → readable chain → s.mem.wf = true → m.words = [] ∨ at_ + 8 * (m.words.length - 1) < 0x8000 →
          ∃ u : State, run = .next u ∧ starts u (h.extractLsb' 0 12) none ∧
            (∀ k w, m.words[k]? = some w → u.mem.read (tcmBase s.focus + at_ + 8 * k) 8 = w.toNat) ∧
            (∀ a, (a < tcmBase s.focus + at_ ∨ tcmBase s.focus + at_ + 8 * m.words.length ≤ a) → u.mem.byte a = s.mem.byte a)) ∧
        (m.words ≠ [] → 0x8000 ≤ at_ + 8 * (m.words.length - 1) →
          ∃ u : State, run = .next u ∧ u.core.task = none ∧ u.core.inbox = c.inbox.setIfInBounds i none ∧ u.mem = s.mem ∧
            u.core.discards = c.discards + 1 ∧ u.reports = s.reports ++ [⟨p, m.launch.extractLsb' 0 16, 1, Cause.nomap.code⟩])) ∧
      (hKind m.hdr = 0 ∨ hKind m.hdr = 3 → h.getLsbD 63 = false →
        ∃ u : State, run = .next u ∧ u.core.task = none ∧ u.core.inbox = c.inbox.setIfInBounds i none ∧
          u.core.discards = c.discards + 1 ∧ u.core.regs = c.regs ∧ u.mem = s.mem ∧ u.reports = s.reports)) ∧
    (∀ k e, Boundary s p → nextWork c = some (.counter k) → c.counters[k]? = some e →
      let r := c.routines.find? fun x => decide (x.imemOff ≤ e.pc.toNat ∧ e.pc.toNat < x.imemOff + x.nparc)
      let pend : BitVec 16 := if e.pend = 0 then 0 else e.pend - 1
      (r ≠ none → awaits e.chain.toNat) ∧
      (∀ x, r = some x → fits r → readable e.chain.toNat → ∃ u : State, run = .next u ∧ JustStarted u (.counter k) e.pc r ∧
        u.core.regs[1] = clean (BitVec.ofNat 64 k) ∧ u.core.regs[2] = clean e.arg ∧ u.core.regs[8] = clean e.work ∧
        u.core.regs[10] = regionCap x ∧ u.core.csr.budget = c.csr.sbudget ∧ chnHandle u.core.chn = e.chain.toNat ∧
        (∀ j, (hj : j < 32) → j ∉ [1, 2, 8, 10, 11] → u.core.regs[j] = ⟨0, false, false⟩) ∧ u.core.counter k = { e with pend := pend }) ∧
      (r = none → ∃ u : State, run = .next u ∧ u.core.task = none ∧ u.core.discards = c.discards + 1 ∧
        u.reports = s.reports ++ [⟨p, e.ltag, 1, Cause.illegal.code⟩])) ∧
    (∀ i e b, Boundary s p → nextWork c = some (.sample i) → c.samples[i]? = some e → e.best = some b →
      let h := hnd e.cls.toNat
      h.getLsbD 63 = true → h.getLsbD 61 = false → fits (routineOf h) → awaits e.chain.toNat ∧ (readable e.chain.toNat →
      ∃ u : State, run = .next u ∧ JustStarted u (.sample i) (h.extractLsb' 0 12) (routineOf h) ∧
        u.core.regs[1] = clean (b.1.setWidth 64) ∧ u.core.regs[2] = clean (b.2.setWidth 64) ∧ u.core.regs[3] = clean (e.count.setWidth 64) ∧
        u.core.regs[4] = clean (e.tag.setWidth 64) ∧ u.core.regs[5] = clean (BitVec.ofNat 64 i) ∧ u.core.regs[8] = clean e.work ∧
        u.core.csr.budget = c.csr.sbudget)) ∧
    (∀ k r, c.task = none → c.csr.km = false → c.out = false → c.install = [] → c.kwork = .system k :: r →
      ∃ u : State, run = .next u ∧ u.core.kwork = r ∧ u.core.task = none ∧ u.core.queues = c.queues ∧
        u.core.inbox = c.inbox.setIfInBounds k none) ∧
    (∀ m n why r q, c.task = none → c.csr.km = false → c.out = false → c.install = [] → c.kwork = .undelivered m n why :: r →
      s.partOf s.focus = some q → ∃ u : State, run = .next u ∧
        u.reports = s.reports ++ [⟨q, m.launch.extractLsb' 0 16, 2, reasonCode why⟩])

/-- R35, R39, R40, R43, R239, R280, R281, R285: a message that nothing released before it holds back is refused GONE, AWAY or
FULL in that order, or accepted: it takes the first free inbox slot and the tail of the queue of its priority, decrements a
counter, advances its input channel, whose rise of S begins the count of rounds anew (R288), is applied to the armed slot of its tag, or takes a place in the event queue; its copy
leaves the sender. The readings of log entries 28 and 66 are the model's. -/
def Obligations.Arrivals : Prop :=
  ∀ (s : State) (u : Sender) (slot i : Nat) (o : Outgoing), Arriving s u slot i o →
    let m := o.msg
    let n := o.copy.dcore.toNat
    let c := s.getCore n
    let run := exec (arrivalOf (hKind m.hdr) (.held u slot i)) s
    let nacked (why : Reason) : Prop := run = .next (s.setCopy u slot i fun x => { x with phase := .nacked why })
    let becomes (d : Core) : Prop := run = .next ((s.setCore n d).dropCopy u slot i)
    let free := c.inbox.toList.countP Option.isNone
    let need := if o.copy.refusals = 0 then 2 else 1
    ((s.inSet (envPart m) (n / 64) = false ∨ (s.part (envPart m)).dying = true) → nacked .gone) ∧
    (s.inSet (envPart m) (n / 64) = true → (s.part (envPart m)).dying = false →
      (s.occupant (n / 64) ≠ some (envPart m) ∨ c.out = true) → nacked .away) ∧
    (Takes s m n → needs c m = true → free < need → nacked .full) ∧
    (Takes s m n → needs c m = true → need ≤ free → ∀ k, c.inbox.toList.findIdx? Option.isNone = some k →
      let d := { c with inbox := c.inbox.setIfInBounds k (some m) }
      let prio := (m.hdr.extractLsb' 41 2).toNat
      (hKind m.hdr = 7 → becomes { d with kwork := d.kwork ++ [.system k] }) ∧
      let q := d.queues.setIfInBounds prio ((d.queues[prio]?.getD []) ++ [⟨.slot k, s.clock - m.waited⟩])
      (hKind m.hdr ≠ 7 → becomes { d with queues := q })) ∧
    (Takes s m n → hKind m.hdr = 1 →
      run = .next ((s.decrement n (m.hdr.extractLsb' 35 6).toNat (m.hdr.extractLsb' 48 16).toNat).dropCopy u slot i)) ∧
    (Takes s m n → hKind m.hdr = 5 → (match channelOf c m with
      | none => becomes { c with discards := c.discards + 1 }
      | some k => ∀ x, c.lt.ins[k]? = some x → ((m.words[1]?.getD 0) = 0) →
        let y := { x with last := if x.last.toNat < (m.words[0]?.getD 0).toNat then m.words[0]?.getD 0 else x.last }
        let l := { c.lt with ins := c.lt.ins.setIfInBounds k y }
        ∀ S T, IsSafe c.lt S → IsSafe l T →
          becomes { c with lt := if S = T then l else { l with seen := 0, record := [], pending := none } })) ∧
    (Takes s m n → hKind m.hdr = 6 →
      let tag : BitVec 32 := (m.words[0]?.getD 0).extractLsb' 0 32
      match c.samples.toList.findIdx? fun e => e.armed && e.tag == tag with
      | none => becomes { c with discards := c.discards + 1 }
      | some k => ∀ e, c.samples[k]? = some e →
        let w := m.words[1]?.getD 0
        let b := better e.best (some (w.extractLsb' 0 32, w.extractLsb' 32 32))
        let count := e.count + (m.words[2]?.getD 0).extractLsb' 0 32
        let fires := decide (e.expect.toNat ≤ count.toNat) && !e.complete
        let f := { e with best := b, count := count, complete := e.complete || fires }
        let d := { c with samples := c.samples.setIfInBounds k f }
        let q := d.queues.setIfInBounds e.prio.toNat ((d.queues[e.prio.toNat]?.getD []) ++ [⟨.sample k, s.clock⟩])
        becomes (if fires then { d with queues := q } else d)) ∧
    (Takes s m n → hKind m.hdr = 4 → c.lt.on = true → (match channelOf c m, c.evq.toList.findIdx? Option.isNone with
      | none, _ => becomes { c with discards := c.discards + 1 }
      | some _, none => nacked .full
      | some k, some j => ∀ x, c.lt.ins[k]? = some x →
        let late := decide ((m.words.headD 0).toNat < c.lt.clock.toNat)
        let y := { x with seq := x.seq + 1 }
        let d := { c with
          evq := c.evq.setIfInBounds j (some ⟨m, x.seq, if late then .late else .waiting⟩),
          lt := { c.lt with ins := c.lt.ins.setIfInBounds k y } }
        let q := d.queues.setIfInBounds 0 (⟨.event j, s.clock⟩ :: (d.queues[0]?.getD []))
        becomes (if late then { d with queues := q } else d)))

/-- R33, R39, R41, R43, R45, R54, R55, R57, R239: a refused message is retried after its delay or handed over, routers combine
samples, decrements and flips reach their counters, work that has waited moves one queue up, a budget that runs out traps, and a
round of balancing tells each neighbour how much FREE work is queued and moves tasks, which keep their places until they are
accepted; each message takes the next send number. The readings of log entries 23, 29 and 30 are the model's. -/
def Obligations.NetworkSteps : Prop :=
  (∀ (s : State) (u : Sender) (slot i : Nat) (o : Outgoing), s.outgoing u slot i = some o → o.entry.back = none →
    let again := o.copy.refusals + 1
    let delay := Min.min (32 * 2 ^ (again - 1)) 4096 + (match u with
      | .core _ => (o.msg.env.extractLsb' 0 20).toNat % 32
      | .ni _ => (o.msg.env.extractLsb' 0 20).toNat % 32
      | _ => 0)
    (∀ why, o.copy.phase = .nacked why → why ≠ .gone → again < 64 →
      exec (.refusalReceived u slot i) s = .next (s.setCopy u slot i fun c => { c with refusals := again, phase := .waiting (s.clock + delay) })) ∧
    (∀ why n, (u = .core n ∨ u = .ni n) → o.copy.phase = .nacked why → (why = .gone ∨ 64 ≤ again) →
      (s.getCore o.copy.dcore.toNat).hold = none →
      exec (.refusalReceived u slot i) s =
        .next ((s.modCore n fun c => { c with kwork := c.kwork ++ [.undelivered o.msg again why] }).dropCopy u slot i)) ∧
    (∀ due, o.copy.phase = .waiting due →
      exec (.retryTimer u slot i) s =
        .next (({ s with clock := Max.max s.clock due } : State).setCopy u slot i fun c => { c with phase := .ready })) ∧
    (∀ n, (u = .core n ∨ u = .ni n) → o.copy.dmod ≠ s.modnum →
      ∃ t : State, exec (.unreachable o.copy.dmod) s = .next t ∧ o.copy.dmod ∉ t.reach ∧
        (∀ e ∈ t.sends u, e.released = true → (∃ m, e.body = .msg m) → ∀ c ∈ e.copies, c.dmod ≠ o.copy.dmod))) ∧
  (∀ (s : State) (a slot i k : Nat) (o : Outgoing), s.outgoing (.ni a) slot i = some o → o.entry.back = some k →
    (∀ why, o.copy.phase = .nacked why → exec (.refusalReceived (.ni a) slot i) s = .next (s.dropCopy (.ni a) slot i)) ∧
    (∀ j, hKind o.msg.hdr = 0 → o.copy.phase = .ready → o.copy.dmod = s.modnum → o.behind (s.sendsBeside (.ni a)) = false →
      Takes s o.msg o.copy.dcore.toNat → o.copy.dcore.toNat ≠ a → (s.getCore o.copy.dcore.toNat).inbox.toList.findIdx? Option.isNone = some j →
      2 ≤ (s.getCore o.copy.dcore.toNat).inbox.toList.countP Option.isNone → k < 16 →
      ∃ t : State, exec (.activeMessage (.held (.ni a) slot i)) s = .next t ∧ (t.getCore o.copy.dcore.toNat).inbox[j]? = some (some o.msg) ∧
        (t.getCore a).inbox[k]? = some none ∧ ∀ x ∈ queuedItems (t.getCore a), x.what ≠ .slot k)) ∧
  (∀ (s : State) (u v : Sender) (a i b j : Nat) (x y : Outgoing), s.outgoing u a i = some x → s.outgoing v b j = some y → u ≠ v →
    hKind x.msg.hdr = 6 → hKind y.msg.hdr = 6 → x.copy.phase = .ready → y.copy.phase = .ready → x.copy.dmod = y.copy.dmod →
    x.copy.dcore = y.copy.dcore → envPart x.msg = envPart y.msg →
    let w (m : Msg) (k : Nat) : DWord := m.words[k]?.getD 0
    ((w x.msg 0).extractLsb' 0 32 : BitVec 32) = (w y.msg 0).extractLsb' 0 32 →
    ∃ (t : State) (z : Outgoing) (p : BitVec 32 × BitVec 32),
      exec (.routerSampleCombine u v a i b j) s = .next t ∧ t.outgoing u a i = some z ∧ z.copy = x.copy ∧
      better (some ((w x.msg 1).extractLsb' 0 32, (w x.msg 1).extractLsb' 32 32))
        (some ((w y.msg 1).extractLsb' 0 32, (w y.msg 1).extractLsb' 32 32)) = some p ∧
      z.msg.words = [x.msg.words.headD 0, p.2 ++ p.1,
        (((w x.msg 2).extractLsb' 0 32 : BitVec 32) + (w y.msg 2).extractLsb' 0 32).setWidth 64]) ∧
  (∀ (s : State) (i : Nat),
    (∀ d, s.decs[i]? = some d → exec (.counterDecrement i) s = .next (({ s with decs := s.decs.eraseIdx i } : State).decrement d.core d.ctr d.by_)) ∧
    (∀ f, s.flips[i]? = some f → ∃ t : State, exec (.downwardFlip i) s = .next t ∧ t.flips = s.flips.eraseIdx i ∧
      (f.2 < 64 → ((t.getCore f.1).counter f.2).phase = !((s.getCore f.1).counter f.2).phase) ∧
      (∀ n j, (n, j) ≠ f → (t.getCore n).counter j = (s.getCore n).counter j))) ∧
  (∀ (s : State) (q i : Nat) (x : QItem), q < 3 → (s.core.queues[q + 1]?.getD [])[i]? = some x →
    (onItsWay s.core x = true → exec (.queueAgeing s.focus (q + 1) i) s = .next s) ∧
    (onItsWay s.core x = false → ∃ t : State, exec (.queueAgeing s.focus (q + 1) i) s = .next t ∧ t.clock = Max.max s.clock (x.since + 65537) ∧
      t.core.queues[q]? = some ((s.core.queues[q]?.getD []) ++ [⟨x.what, t.clock⟩]) ∧
      t.core.queues[q + 1]? = some ((s.core.queues[q + 1]?.getD []).eraseIdx i) ∧ t.core.regs = s.core.regs ∧ t.mem = s.mem)) ∧
  (∀ (s : State) (k : Task), s.core.task = some k → s.core.sc = none → s.core.unpick = none → s.core.rep = none →
    let now := Max.max s.clock (k.started + s.core.csr.budget.toNat)
    exec (.budgetExpiry s.focus) s =
      .next (takeTrap ⟨10, 0, none, none, none⟩ { s with clock := now, core := { s.core with stream := .control } })) ∧
  (∀ (s : State) (p : Nat), s.partOf s.focus = some p → s.core.out = false → s.core.task = none → s.core.csr.km = false →
    s.core.reported = [] →
    ∃ t : State, exec (.balancingRound s.focus) s = .next t ∧ t.core.queues = s.core.queues ∧
      (t.core.ni.drop s.core.ni.length).map (fun e => match e.body with
        | .msg m => (hKind m.hdr, (hCore m.hdr).toNat, m.words)
        | _ => (0, 0, [])) =
      (s.neighbours s.focus).map fun n => (7, n % 2 ^ 20, [BitVec.ofNat 64 (freeWork s.core)])) ∧
  (∀ (s : State) (p m r : Nat), s.partOf s.focus = some p → s.core.out = false → s.core.task = none → s.core.csr.km = false →
    (s.neighbours s.focus).count m = 1 → s.core.reported = [(m, r)] → ((queuedItems s.core).map QItem.what).Nodup →
    let own := freeWork s.core
    let moved := if r < own then Min.min 8 ((own - r) / 4) else 0
    ∃ t : State, exec (.balancingRound s.focus) s = .next t ∧
      ((t.core.ni.drop s.core.ni.length).filter fun e => e.back.isSome).length = moved ∧
      (∀ e ∈ t.core.ni.drop s.core.ni.length, e.back.isSome = true → ∃ x, e.body = .msg x ∧ x.free = true ∧ (hCore x.hdr).toNat = m % 2 ^ 20) ∧
      (∀ (k : Nat) (e : SendEntry) (x : Msg), (t.core.ni.drop s.core.ni.length)[k]? = some e → e.body = .msg x → hKind x.hdr ≠ 1 →
        x.hdr.extractLsb' 48 16 = s.core.sendNo + BitVec.ofNat 16 k) ∧
      t.core.queues = s.core.queues ∧ t.core.inbox = s.core.inbox)

namespace Sys2Proof.Claims

open Sys2Proof.Machine

/-! ### Front ends and partitions -/

/-- A doubleword of an offered packet, of its extension (R311, R314). -/
def pkt (o : Offer) (i : Nat) : DWord := o.words[i]?.getD 0
def ext (o : Offer) (i : Nat) : DWord := (o.ext.bind fun e => e[i]?).getD 0

/-- TOKENS of a queue (R307). -/
def tokensOf (s : State) (q : Nat) : DWord := (s.window q).tokens

/-- A packet of a ring has been taken and has completed: its WAIT tokens are gone and its SET mask has joined (R312). -/
def Finished (s u : State) (b : Qsb) (o : Offer) : Prop :=
  tokensOf u b.queue = (tokensOf s b.queue &&& ~~~pkt o 1) ||| pkt o 2

/-- A queue is stopped with a reason at a packet (R307). -/
def Stopped (u : State) (q : Nat) (reason : Byte) (at_ : BitVec 32) : Prop :=
  (u.window q).err = true ∧ (u.window q).reason = reason ∧ (u.window q).fidx = at_

/-- A full launch tag (R316): the die in [15:14], the number in [13:0]. -/
def tagAt (d n : Nat) : BitVec 16 := BitVec.ofNat 2 d ++ BitVec.ofNat 14 n

/-- A front end's store finds its location: the address is aligned and global, region tag 0 allows ST, and it translates (R311). -/
def FrontStores (s : State) (p : Nat) (chain : BitVec 16) (addr : DWord) (m : Nat) : Prop :=
  addr.toNat % 8 = 0 ∧ isGlobal addr.toNat = true ∧ s.frontFits p chain ⟨false, true, false, false⟩ = .ok true ∧
    (∀ who l c, s.frontAt p addr true who l c = .loc m) ∧ (s.part p).dmen = false ∧ s.mem.wf = true

/-- Where a front end's store lands in a core's TCM or a panel's scratchpad of its partition (R22, R23, R311); region tag 0 decides there
too. -/
def FrontNear (s : State) (p : Nat) (chain : BitVec 16) (addr : DWord) (m : Nat) : Prop :=
  addr.toNat % 8 = 0 ∧ s.frontFits p chain ⟨false, true, false, false⟩ = .ok true ∧
    (∃ panel, s.inSet p panel = true ∧ s.occupant panel = some p ∧
      ((∃ n off, n < 2 ^ 20 ∧ off < 2 ^ 15 ∧ n / 64 = panel ∧ addr.toNat = 2 ^ 40 + 65536 * n + off ∧ m = tcmBase n + off) ∨
       (∃ off, panel < 2 ^ 14 ∧ off < 2 ^ 18 ∧ addr.toNat = 2 ^ 41 + 262144 * panel + off ∧ m = spadBase panel + off))) ∧
    (s.part p).dmen = false ∧ s.mem.wf = true

/-- The width of a field of a work identifier and its extent (R313). -/
def fieldWidth (o : Offer) (i : Nat) : Nat := ((pkt o 3).extractLsb' (6 * i) 6).toNat
def fieldExtent (o : Offer) (i : Nat) : Nat :=
  let below := ((List.range i).map (fieldWidth o)).sum
  if fieldWidth o i = 0 then 1 else (pkt o 4).toNat / 2 ^ below % 2 ^ fieldWidth o i + 1

/-- The digits of the `k`-th identifier, and the identifier that they make with the widths of the fields (R47). -/
def digit (extents : List Nat) (k i : Nat) : Nat := k / ((extents.take i).foldl (· * ·) 1) % (extents[i]?.getD 1)
def identAt (widths extents : List Nat) (k : Nat) : Nat :=
  ((List.range widths.length).map fun i => digit extents k i * 2 ^ (widths.take i).sum).sum

/-- The only field of non-zero width with a level code (R48). -/
def OnlyField (l : Launch) (i level : Nat) : Prop :=
  l.levels[i]? = some level ∧ (∃ w, l.widths[i]? = some (w + 1)) ∧
    ∀ j, j ≠ i → l.levels[j]? = some level → l.widths[j]? = some 0

/-- A request for the page of a miss, with the same WR (R325). -/
def SamePage (m : PageMiss) (r : PageReq) : Prop := r.page = m.off % 2 ^ 48 / 2 ^ 16 ∧ r.wr = m.wr

/-- Who asks for a page joins its request (R325, R327). -/
def Asks (x : Asker) (r r' : PageReq) : Prop :=
  match x with
  | .core n => (∀ k, k ∈ r'.cores ↔ k = n ∨ k ∈ r.cores) ∧ r'.jobs = r.jobs ∧ r'.front = r.front
  | .job i k => r'.cores = r.cores ∧ r'.jobs = r.jobs ++ [(i, k)] ∧ r'.front = r.front
  | .front w => r'.cores = r.cores ∧ r'.jobs = r.jobs ∧ ∀ y, y ∈ r'.front ↔ y = w ∨ y ∈ r.front
  | .remote => r' = r

/-- Where the record that the device writes `j` records from now lies (R325). -/
def prqSlot (a : Part) (j : Nat) : Nat := a.prqbase.toNat + 32 * ((a.prqwidx.toNat + j) % 2 ^ a.prqlog.toNat)

/-- The page-request record of a miss at a location of memory (R325). -/
def PageRecord (u : State) (at_ : Nat) (m : PageMiss) (tag : Nat) : Prop :=
  let eng := match m.asker with
    | .job .. => 2 ^ 21
    | _ => 0
  u.mem.read at_ 8 = m.off % 2 ^ 48 ∧
  u.mem.read (at_ + 8) 8 = tag + (if m.wr then 2 ^ 20 else 0) + eng + m.fault.stage * 2 ^ 22 + m.fault.cause * 2 ^ 24 ∧
  u.mem.read (at_ + 16) 8 = (if m.fault.stage = 2 then m.fault.gpa % 2 ^ 48 else 0) ∧
  u.mem.read (at_ + 24) 8 = m.src % 2 ^ 20 * 2 ^ 32 + m.ltag.toNat * 2 ^ 16 + m.chain.toNat

/-- No panel has two occupants (R329): the panels of a die's list of occupants rise. -/
def OneOccupant (s : State) : Prop := ∀ x ∈ s.dies.toList, (x.occ.map Prod.fst).Pairwise (· < ·)

/-- The chain-table entry of a handle is LIVE (R101). -/
def EntryLive (t : State) (p h : Nat) : Prop := (t.guestWord p ((t.part p).ctbase.toNat + 128 * h)).extractLsb' 62 2 = (1 : BitVec 2)

/-- A launch that keeps orders 1 to 4 of R315, without an extension. -/
def Admissible (t : State) (o : Offer) : Prop :=
  (∃ i e, t.routineOf o.part ((pkt o 0).extractLsb' 8 8) = some i ∧ (((pkt o 0).extractLsb' 16 6).toNat, e) ∈ i.classes ∧ e.getLsbD 63 = true) ∧
    EntryLive t o.part ((pkt o 0).extractLsb' 32 16).toNat ∧ ((pkt o 0).extractLsb' 24 2).toNat < 2 ∧ o.ext = none ∧
    o.block.isSome = true

/-- A core's context is written nowhere but to its save area (R334): its panels have no stores of their own left, the areas have homes and
lie beside the panel sets, and no dirty mask is kept. -/
def Still (s : State) (p : Nat) (panels : List Nat) : Prop :=
  let base := (s.part p).sabase.toNat
  let size := 4194304 * (s.panels p).length
  s.mem.wf = true ∧ (∀ n, n / 64 ∈ panels → (s.getCore n).stores = []) ∧ (∀ f ∈ s.flight, f.core / 64 ∉ panels) ∧
    (∀ q, (s.part q).dmen = false) ∧ (∀ k, k < size → (s.homeOf (base + k)).isSome = true) ∧ base + size ≤ 2 ^ 48 ∧
    ∀ q, (s.part q).psbase.toNat + 2048 ≤ base ∨ base + size ≤ (s.part q).psbase.toNat

/-- Doubleword `j` of the save area at a position of a partition's core list (R334). -/
def areaWord (u : State) (p i j : Nat) : DWord := BitVec.ofNat 64 (u.mem.read ((u.part p).sabase.toNat + 65536 * i + 8 * j) 8)

/-- Core `n` stands at position `i` of the core list of a partition that occupies its panel (R330). -/
def Stands (s : State) (p i n : Nat) : Prop :=
  n < 2 ^ 20 ∧ (s.panels p)[i / 64]? = some (n / 64) ∧ i % 64 = n % 64 ∧ s.occupant (n / 64) = some p

/-- Byte `o` of TCM lies in a region of a routine of a core (R157, R334). -/
def regionHolds (c : Core) (o : Nat) : Prop := ∃ r ∈ c.routines, r.tb ≤ o ∧ o < r.tb + r.rbytes

/-- Bits [lo + n - 1 : lo] of a doubleword. -/
def field (w : DWord) (lo n : Nat) : Nat := w.toNat / 2 ^ lo % 2 ^ n

/-- Kind and number of a start, as the queue order names them (R334). -/
def startCode : Trigger → Nat × Nat
  | .slot i => (0, i)
  | .counter k => (1, k)
  | .sample i => (2, i)
  | .event i => (3, i)

/-- The fields of a counter's image (R42, R334). -/
def CounterImage (w : Nat → DWord) (e : Counter) : Prop :=
  field (w 0) 32 32 = e.reload.toNat ∧ field (w 0) 0 32 = e.count.toNat ∧ (w 1).getLsbD 63 = e.hen ∧ (w 1).getLsbD 62 = e.pen ∧
    (w 1).getLsbD 61 = e.phase ∧ field (w 1) 59 2 = e.prio.toNat ∧ field (w 1) 53 6 = e.pctr.toNat ∧ field (w 1) 33 20 = e.pcore.toNat ∧
    (w 1).getLsbD 32 = e.ovr ∧ field (w 1) 16 16 = e.chain.toNat ∧ field (w 1) 0 12 = e.pc.toNat ∧ w 2 = e.arg ∧ w 3 = e.work ∧
    (w 4).getLsbD 63 = e.parent.isSome ∧ field (w 4) 32 31 = 0 ∧ field (w 4) 16 16 = e.pend.toNat ∧ field (w 4) 0 16 = e.ltag.toNat

/-- A latch in the save area (R334): the value in [18:0] and the poison of its row in [31] of each 32-bit word. -/
def LatchImage (w : Nat → DWord) (l : Latch) : Prop :=
  ∀ (k : Nat) (v : BitVec 19), l.vals[k]? = some v →
    field (w (k / 2)) (32 * (k % 2)) 19 = v.toNat ∧ field (w (k / 2)) (32 * (k % 2) + 31) 1 = (if l.poison.getLsbD (k / 8) then 1 else 0)

/-- A message in 96 bytes (R334), with its parked tag plus 1, or 0, beside LTAG. -/
def MessageImage (w : Nat → DWord) (m : Msg) (parked : Nat) : Prop :=
  w 0 = m.hdr ∧ (∀ (k : Nat) (x : DWord), m.words[k]? = some x → k < 6 ∨ (k = 6 ∧ m.cap = none) → w (1 + k) = x) ∧ w 8 = m.env ∧
    w 9 = m.work ∧ field (w 10) 0 16 = (m.launch.extractLsb' 0 16).toNat ∧ field (w 10) 16 13 = parked

/-- The save area of a core (R334) holds its state. -/
def AreaHolds (u s : State) (p i n : Nat) : Prop :=
  let c := s.getCore n
  let w (j : Nat) : DWord := areaWord u p i j
  let byte (o : Nat) : Byte := u.mem.byte ((u.part p).sabase.toNat + 65536 * i + o)
  (field (w 0) 0 20 = n ∧ field (w 0) 32 8 = p ∧ field (w 0) 40 8 = 1 ∧ w 1 = BitVec.ofNat 64 (c.routines.map Routine.rbytes).sum) ∧
  (∀ j, 8 ≤ j → j < 128 → w j = 0) ∧
  (∀ (k : Nat) (m : Msg), c.inbox[k]? = some (some m) → MessageImage (fun j => w (0x80 + 12 * k + j)) m
    (match c.parked.find? fun x => x.1 == .slot k with
      | some x => x.2.toNat + 1
      | none => 0)) ∧
  (∀ (k : Nat) (e : Counter), c.counters[k]? = some e → CounterImage (fun j => w (0x2C0 + 5 * k + j)) e) ∧
  (∀ (k : Nat) (h : DWord), c.handlers[k]? = some h → w (0x400 + k) = h) ∧
  (∀ (k : Nat) (x : BitVec 19), (c.tblA[k]? = some x → field (w (0x600 + k / 2)) (32 * (k % 2)) 32 = x.toNat) ∧
    (c.tblB[k]? = some x → field (w (0x680 + k / 2)) (32 * (k % 2)) 32 = x.toNat)) ∧
  LatchImage (fun j => w (0x700 + j)) c.latch ∧ (∀ l, c.inbound = some l → LatchImage (fun j => w (0x800 + j)) l) ∧
  (field (w 0x900) 0 4 = c.weight.toNat ∧ (w 0x900).getLsbD 8 = c.inbound.isSome) ∧
  ((c.slots.map TileSlot.index).Pairwise (· < ·) → (∀ x ∈ c.slots, x.index < 32) →
    ∀ k, k < 32 → ((w 0x901).getLsbD k = true ↔ ∃ x ∈ c.slots, x.index = k)) ∧
  (∀ o, o < 32768 → (regionHolds c o → byte (0x5000 + o) = s.mem.byte (tcmBase n + o)) ∧ (¬ regionHolds c o → byte (0x5000 + o) = 0)) ∧
  (∀ k j, k < 256 → (j < 16 → (w (0x1A00 + k)).getLsbD j = s.mem.poisoned (tcmBase n + 128 * k + 8 * j)) ∧
    (j < 8 → (w (0x1A00 + k)).getLsbD (16 + j) = s.mem.tagged (tcmBase n + 128 * k + 16 * j))) ∧
  (∀ (k : Nat) (e : EvEntry), c.evq[k]? = some (some e) → w (0x1B00 + 12 * k) = e.msg.hdr ∧ (w (0x1B00 + 12 * k + 10)).getLsbD 16 = true ∧
    (w (0x1B00 + 12 * k + 10)).getLsbD 17 = (e.phase == .late)) ∧
  (∀ (q k : Nat) (x : QItem), ((c.queues[q]?.getD [])[k]?) = some x →
    let at_ := ((List.range q).map fun j => (c.queues[j]?.getD []).length).sum + k
    at_ < 224 → let y := w (0x1E00 + at_)
      y.getLsbD 63 = true ∧ field y 61 2 = q ∧ field y 40 21 = Min.min (s.clock - x.since) (2 ^ 21 - 1) ∧
        field y 6 2 = (startCode x.what).1 ∧ field y 0 6 = (startCode x.what).2 % 64)

/-- A message that a slot of 96 bytes holds whole (R334), the ignored bit of its header zero (R5). -/
def Fits (m : Msg) : Prop :=
  m.hdr.getLsbD 47 = false ∧ m.words.length = hLen m.hdr ∧ (m.cap ≠ none → m.words.length ≤ 6) ∧ m.links = [] ∧ m.waited = 0 ∧ m.launch.toNat < 2 ^ 16

/-- A core at rest whose state its save area holds whole (R334): what waits in it is named by the queue order, its waits are of 21 bits. -/
def Holdable (s : State) (p n : Nat) : Prop :=
  let c := s.getCore n
  let queued (t : Trigger) : Prop := ∃ q, q < 4 ∧ ∃ x ∈ c.queues[q]?.getD [], x.what = t
  (∀ (k : Nat) (m : Msg), c.inbox[k]? = some (some m) → Fits m ∧ (queued (.slot k) ∨ ∃ x ∈ c.parked, x.1 = .slot k)) ∧
    (∀ k, queued (.slot k) → ∃ m, c.inbox[k]? = some (some m)) ∧ c.parked = [] ∧
    (∀ q, q < 4 → ∀ x ∈ c.queues[q]?.getD [], x.since ≤ s.clock ∧ s.clock - x.since < 2 ^ 21 ∧ (startCode x.what).2 < 64) ∧
    ((List.range 4).map fun q => (c.queues[q]?.getD []).length).sum ≤ 224 ∧
    (∀ e ∈ c.counters.toList, e.parent = none ∨ e.parent = some (e.pcore.toNat, e.pctr.toNat)) ∧
    (∀ e ∈ c.evq.toList, ∀ x, e = some x → Fits x.msg) ∧ (∀ x ∈ c.lt.record, x.1 < 2 ^ 32) ∧ c.link.length ≤ 4 ∧
    (∀ h ∈ c.handlers.toList, h &&& 0x1FFFFF00F000 = 0) ∧
    (∀ h ∈ c.handlers.toList, h.getLsbD 63 = true → ∃ r ∈ (s.part p).routines, r.routine.index = h.extractLsb' 16 8 ∧
      ∀ x ∈ c.install, x.1 = p → x.2.1 ≠ r.routine.index)

end Sys2Proof.Claims

/-- R307 to R309, R311: WIDX by the owner rings the doorbell and an index past the ring stops the queue with OVERRUN; another
agent changes nothing; the physical function clears ERR; a walker's step moves to the next block, counts in PASS and keeps the WIDX that
it reads for the visit (R321). The readings of log entries 71, 72 and 86 are the model's. -/
def Obligations.FrontEndSteps : Prop :=
  ∀ (s : State) (q : Nat) (v : BitVec 32),
    let w := s.window q
    let owns (a : RegAgent) : Prop := a = .pf ∨ ∃ n, a = .vf n ∧ w.part.toNat = n
    (∀ a, owns a → s.blockOf q = none → exec (.widx a q v) s = .next { s with queues := aset q { w with widx := v } s.queues }) ∧
    (∀ a b, owns a → s.blockOf q = some b → (v - b.ridx).toNat ≤ 2 ^ b.log2n →
      exec (.widx a q v) s = .next { s with queues := aset q { w with widx := v } s.queues }) ∧
    (∀ a b, owns a → s.blockOf q = some b → 2 ^ b.log2n < (v - b.ridx).toNat →
      ∃ u : State, exec (.widx a q v) s = .next u ∧ Stopped u q 1 v ∧ (u.window q).widx = v ∧ tokensOf u q = w.tokens) ∧
    (∀ n, w.part.toNat ≠ n → exec (.widx (.vf n) q v) s = .next s) ∧
    (∃ u : State, exec (.queueErrClear q) s = .next u ∧ u.window q = { w with err := false } ∧ ∀ g, g ≠ q → u.window g = s.window g) ∧
    (∀ d p cur x, (s.dies[d]?) = some x → x.wcur[p]? = some cur →
      let link : BitVec 24 := if cur.extractLsb' 7 24 = (0 : BitVec 24) then (x.lhead[p]?.getD 0).extractLsb' 7 24
        else (s.tableWord (d * 2 ^ 31 + (cur.extractLsb' 7 24).toNat * 128)).extractLsb' 7 24
      let next : DWord := (cur.extractLsb' 40 24 + 1 : BitVec 24) ++ (0 : BitVec 9) ++ link ++ (0 : BitVec 7)
      let b := s.qsb d (link.toNat * 128)
      ∃ u : State, exec (.walkerStep d p) s = .next u ∧ (u.die d).wcur[p]? = some next ∧ u.core = s.core ∧
        (link = 0 → u.mem = s.mem ∧ u.queues = s.queues) ∧
        (link ≠ 0 → b.en = false → (u.window b.queue).ridx = b.ridx ∧ (u.die d).quota[p]? = some 0) ∧
        (link ≠ 0 → b.en = true → b.unlink = false → (s.window b.queue).err = false →
          (b.prio ≠ p ∨ b.part ≠ (s.window b.queue).part.toNat ∨ b.log2n = 0 ∨ 16 < b.log2n → Stopped u b.queue 3 b.ridx) ∧
          (b.prio = p → b.part = (s.window b.queue).part.toNat → 1 ≤ b.log2n → b.log2n ≤ 16 → (s.part b.part).en = true →
            (s.part b.part).dying = false → ((s.window b.queue).widx - b.ridx).toNat ≤ 2 ^ b.log2n →
            (u.die d).seen[p]? = some (s.window b.queue).widx)))

/-- R311, R312, R318, R321: a packet that is eligible, and below the WIDX of its walker's visit, is taken: its WAIT tokens are consumed; NOP,
SIGNAL, WRITE, STAMP, COPY, INSTALL and UNINSTALL have their effect and their SET mask joins the tokens when they complete. The readings of log entries 70, 71, 73,
74 and 79 are the model's. -/
def Obligations.PacketForms : Prop :=
  ∀ (s : State) (src : PktSrc) (o : Offer) (b : Qsb), o.block = some b →
    let took := s.take o
    let chain : BitVec 16 := (pkt o 0).extractLsb' 32 16
    let fails (i : Instr) (reason : Byte) : Prop := ∃ u : State, exec i s = .next u ∧ Stopped u b.queue reason o.index
    (∀ kind, s.offer src kind = .ok o → pkt o 1 &&& ~~~tokensOf s b.queue = 0 ∧ (s.window b.queue).err = false ∧ b.en = true ∧
      (o.index - b.ridx).toNat < 32 ∧ (o.index - b.ridx).toNat < (((s.die (b.queue / 2048)).seen[b.prio]?.getD 0) - b.ridx).toNat ∧
      (⟨b.queue, o.index⟩ : TakenSlot) ∉ s.taken ∧ ((pkt o 0).extractLsb' 0 4).toNat = kind) ∧
    (s.offer src 0 = .ok o → ∃ u : State, exec (.nop src) s = .next u ∧ Finished s u b o ∧ u.launches = s.launches ∧ u.core = s.core ∧
      (o.ext = none → o.index = b.ridx → (∀ x ∈ s.taken, x.queue ≠ b.queue) → (u.window b.queue).ridx = b.ridx + 1 ∧ u.taken = s.taken) ∧
      (o.ext = none → o.index ≠ b.ridx → (⟨b.queue, b.ridx⟩ : TakenSlot) ∉ s.taken →
        (u.window b.queue).ridx = b.ridx ∧ (⟨b.queue, o.index⟩ : TakenSlot) ∈ u.taken)) ∧
    (s.offer src 5 = .ok o →
      let g := ((pkt o 3).extractLsb' 0 13).toNat
      ((s.window g).part.toNat = o.part → g ≠ b.queue →
        ∃ u : State, exec (.signal src) s = .next u ∧ Finished s u b o ∧ tokensOf u g = tokensOf s g ||| pkt o 4) ∧
      ((s.window g).part.toNat ≠ o.part → fails (.signal src) 5)) ∧
    (s.offer src 6 = .ok o → (∀ m, FrontStores took o.part chain (pkt o 3) m ∨ FrontNear took o.part chain (pkt o 3) m →
        ∃ u : State, exec (.write src) s = .next u ∧ Finished s u b o ∧ u.mem.read m 8 = (pkt o 4).toNat ∧
          ∀ a, (a < m ∨ m + 8 ≤ a) → u.mem.byte a = took.mem.byte a) ∧
      ((pkt o 3).toNat % 8 ≠ 0 → fails (.write src) 6)) ∧
    (s.offer src 7 = .ok o → (∀ m, FrontStores took o.part chain (pkt o 3) m ∨ FrontNear took o.part chain (pkt o 3) m →
        ∃ u : State, exec (.stamp src) s = .next u ∧ Finished s u b o ∧ u.mem.read m 8 = s.ref24 / 24 % 2 ^ 64 ∧
          ∀ a, (a < m ∨ m + 8 ≤ a) → u.mem.byte a = took.mem.byte a) ∧
      ((pkt o 3).toNat % 8 ≠ 0 → fails (.stamp src) 6)) ∧
    (∀ n, s.offer src 4 = .ok o → s.tagFree o.part o.die n = true →
      ∃ (u : State) (l : Launch) (j : EngJob), exec (.copy src n) s = .next u ∧ u.launches = s.launches ++ [l] ∧ l.tag = tagAt o.die n ∧
        l.part = o.part ∧ l.total = 0 ∧ l.chain = chain ∧ l.done = (if pkt o 5 = 0 then b.cword else pkt o 5) ∧ u.jobs = s.jobs ++ [j] ∧
        j.cmd.ltag = l.tag ∧ j.cmd.chain = chain ∧ j.cmd.part = o.part ∧ j.cmd.rows = 1 ∧
        j.cmd.rowLen = ((pkt o 6).extractLsb' 0 32).toNat ∧ j.cmd.src.extractLsb' 0 64 = pkt o 3 ∧ j.cmd.dst.extractLsb' 0 64 = pkt o 4) ∧
    (s.offer src 1 = .ok o →
      let r : Byte := (pkt o 0).extractLsb' 8 8
      let off := (pkt o 3).toNat - 2 ^ 48
      let len := ((pkt o 4).extractLsb' 0 32).toNat
      let x := (s.imageOf o.part off r).1
      let i : RoutineInfo :=
        { routine := x, image := pkt o 3 - 2 ^ 48, bytes := len,
          classes := s.imageHandlers o.part off x (s.imageOf o.part off r).2,
          ready := (((s.part o.part).routines.find? fun i => i.routine.index == r && !i.gone).map RoutineInfo.ready).getD false, gone := false }
      (∃ m, s.imageRead o.part b.queue o.index (pkt o 3) (pagesOf (pkt o 3).toNat len) = .loc m) →
      (4096 < x.imemOff + x.nparc ∨ 0x8000 < x.tb + x.rbytes →
        fails (.install src) 4 ∧ ∃ u : State, exec (.install src) s = .next u ∧ u.taken = s.taken ∧ u.core = s.core ∧ u.others = s.others) ∧
      (s.badImage o.part b.queue len i = false →
        ∃ u : State, exec (.install src) s = .next u ∧ (∃ i ∈ (u.part o.part).routines, i.routine = x ∧ i.gone = false) ∧
          ∀ panel ∈ took.listPanels o.part, ∀ n, n / 64 = panel → (o.part, r, s.nextId) ∈ (u.getCore n).install)) ∧
    (s.offer src 8 = .ok o → s.pending = [] →
      let r : Byte := (pkt o 0).extractLsb' 8 8
      (∀ l ∈ s.launches, l.part = o.part → l.routine ≠ r) →
      ∃ u : State, exec (.uninstall src) s = .next u ∧ Finished s u b o ∧ (∀ i ∈ (u.part o.part).routines, i.routine.index ≠ r) ∧
        ∀ n ∈ s.coreNos, took.partOf n = some o.part → ∀ (k : Nat) (h : DWord), (u.getCore n).handlers[k]? = some h →
          h.getLsbD 63 = true → h.extractLsb' 16 8 ≠ r)

/-- R47, R48, R221, R311, R313, R315 to R318: DISPATCH and POST take a launch tag and are admitted or rejected; each identifier
is sent as one ACTIVE message to the core that its fields select; reports are counted; a launch that has ended writes its
completion record and sets its tokens; a core installs an image at a task boundary; a SENDK request enters its device queue. What reads
a frame that is to be scrubbed waits (R332). The readings of log entries 31, 75, 76, 77, 78 and 85 are the model's. -/
def Obligations.LaunchForms : Prop :=
  (∀ (s : State) (src : PktSrc) (o : Offer) (n : Nat) (i : Instr) (kind : Nat),
    (i = .dispatch src n ∧ kind = 2) ∨ (i = .postPacket src n ∧ kind = 3) →
    s.offer src kind = .ok o → s.tagFree o.part o.die n = true →
    let t := s.take o
    let r : Byte := (pkt o 0).extractLsb' 8 8
    let admits (status : Nat) : Prop := ∃ (u : State) (l : Launch), exec i s = .next u ∧ u.launches = s.launches ++ [l] ∧
      l.tag = tagAt o.die n ∧ l.part = o.part ∧ l.die = o.die ∧ l.chain = (pkt o 0).extractLsb' 32 16 ∧ l.routine = r ∧
      l.cls = (pkt o 0).extractLsb' 16 6 ∧ l.prio = (pkt o 0).extractLsb' 22 2 ∧
      l.budget.toNat = ((pkt o 6).extractLsb' 0 24).toNat + 1 ∧ l.next = 0 ∧ l.status = status ∧ l.nfail = 0 ∧ l.first = 0 ∧
      l.done = (if pkt o 5 = 0 then (o.block.map Qsb.cword).getD 0 else pkt o 5) ∧
      (status ≠ 0 → l.total = 0) ∧
      (status = 0 → kind = 2 → l.total = ((List.range 6).map (fieldExtent o)).foldl (· * ·) 1 ∧
        l.widths = (List.range 6).map (fieldWidth o) ∧ l.extents = (List.range 6).map (fieldExtent o)) ∧
      (status = 0 → kind = 3 → l.total = 1 ∧ l.post = some ((pkt o 3).toNat, [pkt o 4, pkt o 7]))
    let readable : Prop := s.heldAt o.part (entryAt s o.part ((pkt o 0).extractLsb' 32 16).toNat) = none
    (∀ f, s.heldAt o.part (entryAt s o.part ((pkt o 0).extractLsb' 32 16).toNat) = some f → exec i s = .next (s.demanded f)) ∧
    (readable → (¬ ∃ x ∈ (t.part o.part).routines, x.routine.index = r ∧ x.ready = true ∧ x.gone = false) → admits 2) ∧
    (readable → ¬ EntryLive t o.part ((pkt o 0).extractLsb' 32 16).toNat → admits 2) ∧
    (readable → ((pkt o 0).extractLsb' 24 2).toNat = 3 → admits 2) ∧
    (readable → Admissible t o → kind = 2 → ((List.range 6).map (fieldWidth o)).sum ≤ 64 →
      (∀ k, k < 6 → fieldWidth o k = 0 ∨ (pkt o 3).extractLsb' (36 + 3 * k) 3 ≠ (7 : BitVec 3)) → admits 0) ∧
    (readable → Admissible t o → kind = 3 → ((t.owner o.part (pkt o 3).toNat = none → admits 4) ∧ (t.owner o.part (pkt o 3).toNat ≠ none → admits 0)))) ∧
  (∀ (s : State) (l : Launch) (core : Nat) (free : Bool), s.launchOf (some l.part) l.tag = some l → l.held = false → l.next < l.total →
    (s.part l.part).en = true → (s.part l.part).dying = false → l.prog ≠ 2 → s.placeOf l l.next = some (core, free) → l.die < 4 →
    ∃ (u : State) (e : SendEntry) (m : Msg), exec (.launchTaskSend l.part l.tag.toNat) s = .next u ∧
      (u.die l.die).fe = (s.die l.die).fe ++ [e] ∧ e.released = true ∧ e.body = .msg m ∧ e.copies = [⟨s.modnum, BitVec.ofNat 20 core, 0, .ready⟩] ∧
      hKind m.hdr = 0 ∧ hCore m.hdr = BitVec.ofNat 20 core ∧ hMod m.hdr = s.modnum ∧ m.hdr.extractLsb' 35 6 = l.cls ∧
      m.hdr.extractLsb' 41 2 = l.prio ∧ m.hdr.getLsbD 46 = l.cap.isSome ∧ m.cap = l.cap ∧
      (let ws := match l.post with
        | some a => a.2
        | none => []
       m.words = if l.revoke then (ws ++ List.replicate 5 0).take 5 ++ [l.tag.setWidth 64] else ws) ∧ m.work = BitVec.ofNat 64 (launchIdent l l.next) ∧ m.launch = l.tag.setWidth 64 ∧
      m.env.extractLsb' 56 2 = (1 : BitVec 2) ∧ m.env.extractLsb' 32 16 = l.chain ∧ m.env.extractLsb' 48 8 = BitVec.ofNat 8 l.part ∧
      u.launches = s.launches.map (fun x => if x.part = l.part ∧ x.tag = l.tag then { x with next := l.next + 1 } else x)) ∧
  (∀ (s : State) (l : Launch) (k core : Nat) (free : Bool), s.placeOf l k = some (core, free) → l.post = none →
    l.widths.length = 6 → l.extents.length = 6 → l.levels.length = 6 → (∀ e ∈ l.extents, 0 < e) →
    launchIdent l k = identAt l.widths l.extents k ∧
    (∀ i, OnlyField l i 0 → core % 8 = digit l.extents k i % 8) ∧
    (∀ i, OnlyField l i 1 → core / 8 % 8 = digit l.extents k i % 8) ∧
    (∀ i, OnlyField l i 4 → some (core / 64) = (s.listPanels l.part)[digit l.extents k i % (s.listPanels l.part).length]?)) ∧
  (∀ (s : State) (i : Nat) (r : Report), s.reports[i]? = some r →
    exec (.failureReport i) s = .next { s with
      reports := s.reports.eraseIdx i,
      launches := s.launches.map fun l =>
        let n := Min.min 65535 (l.nfail + 1)
        if l.part = r.part ∧ l.tag = r.ltag then
          (if l.first = 0 then { l with nfail := n, first := r.kind, cause := r.cause % 64 } else { l with nfail := n })
        else l }) ∧
  (∀ (s : State) (l : Launch), s.launchOf (some l.part) l.tag = some l → s.launchEnded l = true → s.pending = [] →
    (s.part l.part).dying = false → l.nfail < 2 ^ 16 → l.cause < 64 → l.first < 256 → l.status < 256 →
    let gone (u : State) : Prop := u.launches = s.launches.filter (fun x => !(x.part == l.part && x.tag == l.tag)) ∧
      ∀ q, l.packet.slot = some q → tokensOf u q.1 = tokensOf s q.1 ||| l.packet.set
    let record : DWord := BitVec.ofNat 16 l.nfail ++ l.tag ++ (0 : BitVec 10) ++ BitVec.ofNat 6 l.cause ++ BitVec.ofNat 8 l.first ++
      BitVec.ofNat 8 (if l.status = 0 then 1 else l.status)
    (l.done = 0 → ∃ u : State, exec (.launchComplete l.part l.tag.toNat) s = .next u ∧ gone u) ∧
    (∀ m, l.done ≠ 0 → FrontStores (s.drainPart l.part) l.part l.chain l.done m →
      ∃ u : State, exec (.launchComplete l.part l.tag.toNat) s = .next u ∧ gone u ∧ u.mem.read m 8 = record.toNat)) ∧
  (∀ (s : State) (n k d p : Nat) (e : SendEntry) (t : BitVec 16) (ws : List DWord), (s.getCore n).sendBuf[k]? = some e → s.partOf n = some p →
    e.released = true → e.body = .launch d t ws →
    exec (.sendkRequest n k) s = .next ((s.modCore n fun c => { c with sendBuf := c.sendBuf.eraseIdx k }).modDie d
      fun x => { x with devq := x.devq ++ [(p, ws)] })) ∧
  (∀ (s : State) (p job : Nat) (rest : List (Nat × Byte × Nat)) (i : RoutineInfo) (c : Nat × DWord), let r := i.routine
    s.core.task = none → s.core.csr.km = false → s.partOf s.focus = some p → s.core.install = (p, r.index, job) :: rest →
    ((s.part p).routines.find? fun x => x.routine.index == r.index && !x.gone) = some i →
    (∀ f, s.heldAmong p (pagesIn i.image.toNat i.bytes) = some f → exec (.coreInstall s.focus) s = .next { s.demanded f with waiting := true }) ∧
    (s.heldAmong p (pagesIn i.image.toNat i.bytes) = none → i.classes = [c] → c.1 < 64 →
    ∃ u : State, exec (.coreInstall s.focus) s = .next u ∧ u.core.install = rest ∧ u.core.routines.head? = some r ∧
      u.core.handlers[c.1]? = some c.2 ∧ u.core.regs = s.core.regs ∧
      (∀ d ∈ u.mem.poison, ¬ (tcmBase s.focus + r.tb ≤ d ∧ d + 8 ≤ tcmBase s.focus + r.tb + r.rbytes)) ∧
      (s.mem.wf = true → s.focus < 2 ^ 20 → ∀ k, k < 2 * r.nparc →
        u.mem.byte (imemBase s.focus + 2 * r.imemOff + k) = s.guestByte p (i.image.toNat + 64 + k))))

/-- R325, R192: a miss of a core takes its trap with the page request made and what the walk of its fitting check has found (R111); a request of the same page with the same WR is shared; else it
takes a tag that is not outstanding and the device writes its record and advances PRQWIDX; where the ring is full or no tag is free it
is held, and PRQRIDX lets the held ones go in their order as far as the room allows. The readings of log entries 16 and 17 are the
model's. -/
def Sys2Proof.Claims.PageRequests : Prop :=
  (∀ (i : Instr) (f : MemForm) (s t : State) (cap : Val) (m : PageMiss) (walk : Option (Nat × Bool)), memForm i = some f → f.store = false → s.core.rep = none →
    (∀ w ∈ s.hemWait, w.2 ≠ s.focus) → readReg f.cap s = .ok (cap, t) →
    access (loadAcc f cap) t = .error (.trap ⟨7, f.ea cap, some m, none, walk⟩) →
    let q := match walk, s.partOf s.focus with
      | some x, some p => (s.pageMiss m).walkLeft p x.1 x.2
      | _, _ => s.pageMiss m
    exec i s = .next (trapTaken ⟨7, f.ea cap, some m, none, walk⟩ (q.tagFor m.part (m.off % 2 ^ 48 / 2 ^ 16) m.wr) s.core.at_ q)) ∧
  (∀ (s : State) (m : PageMiss), m.fault.stage ≤ 2 → m.fault.cause ≤ 3 →
    let a := s.part m.part
    let q := s.pageMiss m
    let b := q.part m.part
    let slot := prqSlot a 0
    let free (t : Nat) : Prop := t < 4096 ∧ ∀ r ∈ a.reqs, r.tag ≠ some (BitVec.ofNat 12 t)
    let room := (a.prqwidx - a.prqridx).toNat < 2 ^ a.prqlog.toNat
    (∀ (i : Nat) (r : PageReq), a.reqs[i]? = some r → SamePage m r → (∀ (j : Nat) (x : PageReq), j < i → a.reqs[j]? = some x → ¬ SamePage m x) →
      q.mem = s.mem ∧ b.prqwidx = a.prqwidx ∧ b.reqs.length = a.reqs.length ∧ (∀ j, j ≠ i → b.reqs[j]? = a.reqs[j]?) ∧
      ∃ x, b.reqs[i]? = some x ∧ x.tag = r.tag ∧ x.words = r.words ∧ SamePage m x ∧ Asks m.asker r x) ∧
    ((∀ r ∈ a.reqs, ¬ SamePage m r) → room → (∃ t, free t) → s.mem.wf = true → (∀ k, k < 4 → (s.homeOf (slot + 8 * k)).isSome = true) →
      ∃ t x, free t ∧ b.reqs = a.reqs ++ [x] ∧ x.tag = some (BitVec.ofNat 12 t) ∧ SamePage m x ∧
        Asks m.asker ⟨x.tag, x.words, x.page, x.wr, [], [], []⟩ x ∧ b.prqwidx = a.prqwidx + 1 ∧ PageRecord q slot m t ∧
        ∀ d, (d < slot ∨ slot + 32 ≤ d) → q.mem.byte d = s.mem.byte d) ∧
    ((∀ r ∈ a.reqs, ¬ SamePage m r) → (¬ room ∨ ∀ t, ¬ free t) →
      q.mem = s.mem ∧ b.prqwidx = a.prqwidx ∧ ∃ x, b.reqs = a.reqs ++ [x] ∧ x.tag = none ∧ SamePage m x ∧
        Asks m.asker ⟨none, x.words, x.page, x.wr, [], [], []⟩ x)) ∧
  (∀ (s : State) (p : Nat) (v : BitVec 32),
    let a := s.part p
    let room := 2 ^ a.prqlog.toNat - (a.prqwidx - v).toNat
    let heldBefore (i : Nat) : Nat := (a.reqs.take i).countP fun r => r.tag.isNone
    a.reqs.length ≤ 4096 → (∀ r ∈ a.reqs, r.words.length = 4) → s.mem.wf = true →
    (∀ k, k < 32 * 2 ^ a.prqlog.toNat → (s.homeOf (a.prqbase.toNat + k)).isSome = true) →
    ∃ u : State, exec (.prqridx p v) s = .next u ∧
      let b := u.part p
      b.prqridx = v ∧ b.prqwidx = a.prqwidx + BitVec.ofNat 32 (Min.min (heldBefore a.reqs.length) room) ∧ b.reqs.length = a.reqs.length ∧
      (heldBefore a.reqs.length = 0 → u.mem = s.mem) ∧
      ∀ i r, a.reqs[i]? = some r →
        (r.tag ≠ none ∨ room ≤ heldBefore i → b.reqs[i]? = some r) ∧
        (r.tag = none → heldBefore i < room → ∃ tag : BitVec 12, b.reqs[i]? = some { r with tag := some tag } ∧
          (∀ j x, j ≠ i → b.reqs[j]? = some x → x.tag ≠ some tag) ∧
          ∀ k w, r.words[k]? = some w → BitVec.ofNat 64 (u.mem.read (prqSlot a (heldBefore i) + 8 * k) 8) =
            (if k = 1 then w ||| tag.setWidth 64 else w)))

/-- R326, R327, R337: a reply is read once its partition is in: its tag is free again, each core that asked has it as kernel work, a
command's pieces go on or the command ends FAILED, and a reply whose tag is not outstanding is discarded; the kernel returns the starts
that are parked under the tag to the heads of their queues, or removes and reports them. The readings of log entries 33 and 82 are the
model's. -/
def Sys2Proof.Claims.PageReplies : Prop :=
  ∀ (s : State) (p : Nat),
    let a := s.part p
    let with_ (x : Part) : State := { s with parts := aset p x s.parts }
    let w := s.tableWord (a.rpbase.toNat + 16 * (a.rpridx.toNat % 2 ^ a.rplog.toNat))
    let tag : BitVec 12 := w.extractLsb' 0 12
    let retry := w.extractLsb' 16 2 == (1 : BitVec 2)
    let reads : Prop := a.context = .idle ∧ a.out = false ∧ ∀ d ∈ s.dies.toList, ∀ g ∈ d.groups.toList, g.en = false
    (∀ v, a.rpridx = v ∨ a.out = true ∨ a.context ≠ .idle → exec (.rpwidx p v) s = .next (with_ { a with rpwidx := v })) ∧
    (∀ r l m, reads → a.reqs = l ++ r :: m → r.tag = some tag → (∀ x ∈ l ++ m, x.tag ≠ none ∧ x.tag ≠ some tag) →
      r.cores.Nodup → r.front = [] → (∀ x ∈ r.jobs, ∃ j, s.jobs[x.1]? = some j ∧ j.finished = false ∧ x.2 < j.cmd.total) →
      ∃ u : State, exec (.rpwidx p (a.rpridx + 1)) s = .next u ∧ (u.part p).reqs = l ++ m ∧ (u.part p).rpridx = a.rpridx + 1 ∧
        u.mem = s.mem ∧
        (∀ n, (u.getCore n).kwork = (s.getCore n).kwork ++ (if n ∈ r.cores then [.reply tag retry] else [])) ∧
        (retry = true → u.jobs = s.jobs) ∧
        (retry = false → ∀ i j, s.jobs[i]? = some j → u.jobs[i]? = some (if (r.jobs.any fun x => x.1 == i) = true then
          { j with failed := j.failed.or (some 7) } else j))) ∧
    (reads → (∀ x ∈ a.reqs, x.tag ≠ none ∧ x.tag ≠ some tag) →
      exec (.rpwidx p (a.rpridx + 1)) s = .next (with_ { a with
        rpwidx := a.rpridx + 1
        rpridx := a.rpridx + 1 })) ∧
    (∀ t again i m r l k, s.core.task = none → s.core.csr.km = false → s.core.out = false → s.core.kwork = .reply t again :: r →
      s.core.parked = l ++ (.slot i, t) :: k → (∀ x ∈ l ++ k, x.2 ≠ t ∧ x.1 ≠ .slot i) → s.core.inbox[i]? = some (some m) →
      s.partOf s.focus = some p →
      let rest (q : Nat) : List QItem := (s.core.queues[q]?.getD []).filter fun x => x.what != .slot i
      let prio := (m.hdr.extractLsb' 41 2).toNat
      ∃ u : State, exec (.kernelReply s.focus) s = .next u ∧ u.core.kwork = r ∧ u.core.parked = l ++ k ∧
        (again = true → u.core.inbox = s.core.inbox ∧ u.core.queues[prio]? = some (⟨.slot i, s.clock⟩ :: rest prio) ∧
          u.reports = s.reports) ∧
        (again = false → u.core.inbox = s.core.inbox.setIfInBounds i none ∧ (∀ q, q < 4 → u.core.queues[q]? = some (rest q)) ∧
          u.reports = s.reports ++ [⟨p, m.launch.extractLsb' 0 16, 1, 7⟩] ∧ u.core.sendNo = s.core.sendNo + 1))

/-- R324, R328, R335: XLFLUSH removes the partition's translations and takes the G1ROOT written last; EN brings a partition up on the
panels of its set that nobody occupies. The readings of log entries 80 and 81 are the model's. -/
def Sys2Proof.Claims.PartitionStarts : Prop :=
  ∀ (s : State) (p : Nat),
    let a := s.part p
    let with_ (x : Part) : State := { s with parts := aset p x s.parts }
    (exec (.xlflush p) s = .next { with_ { a with g1live := a.g1root, xlflush := false } with
      ptcs := s.ptcs.map fun c => (c.1, c.2.filter fun e => !(e.part == p)) }) ∧
    (exec (.en p false) s = .next (with_ { a with en := false })) ∧
    (p < 64 → a.en = false → a.out = false →
      ∃ u : State, exec (.en p true) s = .next u ∧ (u.part p).en = true ∧ u.mem = s.mem ∧
        ∀ panel, panel < 16384 → (s.panels p).contains panel = true → s.occupant panel = none →
          (s.die (dieOfPanel panel)).dead.contains (panel % 4096) = false →
          u.occupant panel = some p ∧ ∀ n, n / 64 = panel → (u.getCore n).csr.price0 = a.price0 ∧
            (u.getCore n).csr.price1 = (a.price1.extractLsb' 0 32).setWidth 64 ∧ (u.getCore n).csr.sbudget = 0x1000000 ∧
            (u.getCore n).regs = (s.getCore n).regs)

/-- R329, R332: SQWIDX publishes scrub entries; the streamer takes the entry whose frame an access has met, else the oldest; it recalls
the frame's lines, zeroes it, clears SCRUB in the named entry and drops the translations that hold it; then a write to a table that has
waited for the frame performs. The reading of log entry 85 is
the model's. -/
def Sys2Proof.Claims.ScrubForms : Prop :=
  (∀ (s : State) (d : Nat) (v : BitVec 32) (x : Die), s.dies[d]? = some x →
    exec (.sqwidx d v) s = .next { s with dies := s.dies.setIfInBounds d { x with sqwidx := v } }) ∧
  (∀ (s : State) (d : Nat) (x : Die), s.dies[d]? = some x → x.sqdone = [] →
    let slot (i : BitVec 32) : Nat := x.sqbase.toNat + 16 * (i.toNat % 2 ^ x.sqlog.toNat)
    let entry (i : BitVec 32) : ScrubEntry := ⟨i, (s.tableWord (slot i)).toNat % 2 ^ 48 / 2 ^ 16 * 2 ^ 16, (s.tableWord (slot i + 8)).toNat⟩
    let waits (k : Nat) : Prop := k < (x.sqwidx - x.sqridx).toNat ∧ k < 2 ^ x.sqlog.toNat
    (x.sqwidx = x.sqridx → s.scrubNext d = none) ∧
    (x.demand = [] → waits 0 → s.scrubNext d = some (entry x.sqridx)) ∧
    (∀ k, waits k → (x.demand.head?) = some (entry (x.sqridx + BitVec.ofNat 32 k)).frame →
      (∀ j, j < k → (entry (x.sqridx + BitVec.ofNat 32 j)).frame ≠ (entry (x.sqridx + BitVec.ofNat 32 k)).frame) →
      s.scrubNext d = some (entry (x.sqridx + BitVec.ofNat 32 k)))) ∧
  (∀ (s : State) (d : Nat), s.scrubNext d = none → s.pending = [] → exec (.scrubEntry d) s = .next s) ∧
  (∀ (s x u : State) (d : Nat) (e : ScrubEntry) (w : TableWrite) (k : PtcEntry), s.scrubNext d = some e → s.pending = [] →
    s.tableWrites = [w] → exec (.scrubEntry d) { s with tableWrites := [] } = .next x → exec (.scrubEntry d) s = .next u →
    x.tableAt w.part w.off true = some k →
    (x.holds k = true → u = { x with tableWrites := [w] }) ∧
    (x.holds k = false → u.tableWrites = [] ∧ (x.mem.wf = true → (x.homeOf (k.mpa w.off)).isSome = true →
      u.mem.read (k.mpa w.off) 8 = w.value.toNat))) ∧
  (∀ (s : State) (d : Nat) (e : ScrubEntry), s.scrubNext d = some e → s.pending = [] → s.tableWrites = [] → s.mem.wf = true → (s.homeOf e.entry).isSome = true →
    (e.entry + 8 ≤ e.frame ∨ e.frame + 65536 ≤ e.entry) → (∀ q, (s.part q).dmen = false) →
    ∃ u : State, exec (.scrubEntry d) s = .next u ∧ (∀ b, e.frame ≤ b → b < e.frame + 65536 → u.mem.byte b = 0) ∧
      (∀ b ∈ u.mem.tags, ¬ (e.frame ≤ b ∧ b < e.frame + 65536)) ∧ (∀ b ∈ u.mem.poison, ¬ (e.frame ≤ b ∧ b < e.frame + 65536)) ∧
      u.mem.read e.entry 8 = (BitVec.ofNat 64 (s.mem.read e.entry 8) &&& ~~~(16 : DWord)).toNat ∧
      (∀ b, (b < e.frame ∨ e.frame + 65536 ≤ b) → (b < e.entry ∨ e.entry + 8 ≤ b) → u.mem.byte b = s.mem.byte b) ∧
      (∀ l ∈ u.lines, ¬ (e.frame ≤ l.line ∧ l.line < e.frame + 65536)) ∧
      (∀ c ∈ u.ptcs, ∀ x ∈ c.2, x.frame = e.frame → x.scrub = false) ∧
      (∀ x, s.dies[d]? = some x → x.sqdone = [] → e.index = x.sqridx → (u.die d).sqridx = x.sqridx + 1))

/-- R324 to R329, R332, R335, R337: page requests and their records, replies, flushes, EN and the scrub streamer. The readings of log
entries 16, 17, 33, 80, 81, 82 and 85 are the model's. -/
def Obligations.PartitionForms : Prop := PageRequests ∧ PageReplies ∧ PartitionStarts ∧ ScrubForms

/-- R333, R334: SAVE writes the state of every core to its save area, and RESTORE gives it back. Where R334 gives a part no inner layout,
the layout is the model's own (log entry 84). -/
def Sys2Proof.Claims.SaveAreas : Prop :=
  ∀ (s : State) (p : Nat), p < 64 → OneOccupant s → (s.part p).context = .saving → (s.part p).doomed = false →
    s.saveReady p (s.heldPanels p) = true → Still s p (s.heldPanels p) →
    ∃ u : State, exec (.save p) s = .next u ∧
      (∀ i n, Stands s p i n → AreaHolds u s p i n) ∧
      ((s.part p).en = true → (s.part p).dying = false → (s.part p).rpridx = (s.part p).rpwidx → u.imagesHeld p = none →
        (∀ n ∈ s.panels p, s.occupant n = some p ∧ (s.die (dieOfPanel n)).dead.contains (n % 4096) = false) →
        ∃ v : State, exec (.restore p) u = .next v ∧ (v.part p).out = false ∧ (∀ n ∈ s.panels p, v.occupant n = some p) ∧
          ∀ i n, Stands s p i n → Holdable s p n →
            let c := s.getCore n
            let d := v.getCore n
            d.inbox = c.inbox ∧ d.queues = c.queues ∧ d.counters = c.counters ∧ d.handlers = c.handlers ∧ d.samples = c.samples ∧
              d.tblA = c.tblA ∧ d.tblB = c.tblB ∧ d.latch = c.latch ∧ d.inbound = c.inbound ∧ d.weight = c.weight ∧ d.link = c.link ∧
              d.evq = c.evq ∧ (d.lt.on, d.lt.clock, d.lt.promise, d.lt.ins, d.lt.outs) =
                (c.lt.on, c.lt.clock, c.lt.promise, c.lt.ins, c.lt.outs) ∧
              d.csr.price0 = (s.part p).price0 ∧ d.csr.sbudget = 0x1000000 ∧
              (∀ o, o < 32768 → v.mem.byte (tcmBase n + o) = if c.regionByte o then s.mem.byte (tcmBase n + o) else 0) ∧
              (∀ o, o < 32768 → v.mem.tagged (tcmBase n + o) = s.mem.tagged (tcmBase n + o) ∧
                v.mem.poisoned (tcmBase n + o) = s.mem.poisoned (tcmBase n + o)))

/-- R331, R333, R369, R373: REMOVE and ADD begin and end as the panel's cores allow; SAVE saves once every core is quiet and
RESTORE takes a context back onto panels that are free or its own, at rest, once its images can be read; a time-share group switches when its slice has ended, and a save that is late
ends the occupant's commands. The readings of log entries 83 and 84 are the model's. -/
def Sys2Proof.Claims.PanelForms : Prop :=
  ∀ (s : State) (p d k : Nat), d < 4 → k < 4096 → p < 64 → OneOccupant s →
    let panel := d * 4096 + k
    let cmds (u : State) : List PanelCmd := (u.die d).cmds
    let a := s.part p
    let saved (u : State) (panels : List Nat) : Prop :=
      (∀ n ∈ panels, n < 16384 → u.occupant n = none) ∧ ∀ n, n / 64 ∈ panels → (u.getCore n).fit = [] ∧ (u.getCore n).stores = []
    (cmds s = [] → s.panelFree p panel = false →
      (∃ u : State, exec (.panelRemove d p k) s = .next u ∧ cmds u = [⟨p, .remove, k, false, false, s.stampNow⟩] ∧ u.core = s.core ∧ u.mem = s.mem) ∧
      (∃ u : State, exec (.panelAdd d p k) s = .next u ∧ cmds u = [⟨p, .add, k, false, false, s.stampNow⟩] ∧ u.core = s.core ∧ u.mem = s.mem)) ∧
    (∀ f when_, cmds s = [⟨p, .remove, k, true, f, when_⟩] → s.panelFree p panel = true → s.panelAtRest panel = true → s.occupant panel = some p →
      a.psbase.toNat + 2048 ≤ 2 ^ 48 →
      ∃ u : State, exec (.panelRemove d p k) s = .next u ∧ cmds u = [] ∧ u.occupant panel = none ∧
        (∀ n, n / 64 = panel → (u.getCore n).inbox = Vector.replicate 32 none ∧ (u.getCore n).handlers = Vector.replicate 64 0 ∧
          (u.getCore n).counters = Vector.replicate 64 Counter.zero ∧ (u.getCore n).fit = [] ∧ (u.getCore n).lt.on = false) ∧
        (∀ n b, n / 64 = panel → b < 65536 → u.mem.byte (tcmBase n + b) = 0) ∧
        (∀ b, b < 262144 → u.mem.byte (spadBase panel + b) = 0) ∧
        ((s.homeOf (a.psbase.toNat + panel / 8)).isSome = true → s.mem.wf = true → u.inSet p panel = false)) ∧
    (∀ f when_, cmds s = [⟨p, .add, k, true, f, when_⟩] → s.panelFree p panel = true → s.panelFilled p panel = true →
      ∃ u : State, exec (.panelAdd d p k) s = .next u ∧ cmds u = [] ∧ u.core = s.core ∧ u.others = s.others ∧ u.mem = s.mem) ∧
    (∀ f when_, cmds s = [⟨p, .add, k, false, f, when_⟩] → s.panelFree p panel = true → (s.die d).dead.contains k = false → s.mem.wf = true →
      (s.homeOf (a.psbase.toNat + panel / 8)).isSome = true → s.occupant panel = none → a.out = false →
      ∃ u : State, exec (.panelAdd d p k) s = .next u ∧ u.inSet p panel = true ∧ u.occupant panel = some p ∧
        ∀ n, n / 64 = panel → ∀ i ∈ a.routines, i.gone = false → (p, i.routine.index, s.nextId) ∈ (u.getCore n).install) ∧
    (a.context = .idle → exec (.save p) s = .next { s with parts := aset p { a with context := .saving } s.parts }) ∧
    (a.context = .saving → s.saveReady p (s.heldPanels p) = false → exec (.save p) s = .next s) ∧
    (a.context = .saving → s.saveReady p (s.heldPanels p) = true → a.doomed = false →
      ∃ u : State, exec (.save p) s = .next u ∧ (u.part p).context = .idle ∧ (u.part p).out = true ∧ saved u (s.heldPanels p)) ∧
    (let mine (n : Nat) : Prop := s.occupant n = none ∨ (s.occupant n = some p ∧ s.panelQuiet n = true)
     let frees : Prop := ∀ n ∈ s.panels p, n < 16384 ∧ (s.die (dieOfPanel n)).dead.contains (n % 4096) = false ∧ mine n
     (a.en = false ∨ (∃ n ∈ s.panels p, (s.die (dieOfPanel n)).dead.contains (n % 4096) = false ∧ ¬ mine n) →
       exec (.restore p) s = .next s) ∧
     (∀ f, a.en = true → a.dying = false → a.context = .idle → frees → s.imagesHeld p = some f → exec (.restore p) s = .next (s.demanded f)) ∧
     (a.en = true → a.dying = false → a.context = .idle → a.rpridx = a.rpwidx → frees → s.imagesHeld p = none →
       ∃ u : State, exec (.restore p) s = .next u ∧ (u.part p).out = false ∧ ∀ n ∈ s.panels p, u.occupant n = some p)) ∧
    (∀ g x, ((s.die d).groups)[g]? = some x → (x.en = false → exec (.sliceExpiry d g) s = .next s) ∧
      (x.en = true → x.switching = false → (∃ n ∈ s.groupPanels x, (s.die (dieOfPanel n)).dead.contains (n % 4096) = false ∧
          ∃ c ∈ (s.die (dieOfPanel n)).cmds, c.begun = true ∧ c.panel = n % 4096) → exec (.sliceExpiry d g) s = .next s) ∧
      (x.en = true → x.switching = false → (∀ n ∈ s.groupPanels x, ∀ c ∈ (s.die (dieOfPanel n)).cmds, c.begun = true → c.panel ≠ n % 4096) →
        ∃ u : State, exec (.sliceExpiry d g) s = .next u ∧ u.clock = Max.max s.clock (x.since + Max.max x.slice.toNat (2 ^ 20)) ∧
          ((u.die d).groups)[g]? = some { x with switching := true } ∧ u.core = s.core ∧ u.mem = s.mem) ∧
      (x.en = true → x.switching = true → x.ents[x.cur.toNat]? = some (true, BitVec.ofNat 6 p) →
        let held := (s.groupPanels x).filter fun n => s.occupant n == some p
        s.saveReady p held = true → (∀ j : Fin 8, j.val ≠ x.cur.toNat → x.ents[j].1 = false) → a.en = false → s.imagesHeld p = none →
        ∃ (u : State) (y : Group), exec (.sliceExpiry d g) s = .next u ∧ ((u.die d).groups)[g]? = some y ∧ y.switching = false ∧
          y.cur = x.cur ∧ y.since = s.clock ∧ saved u held) ∧
      (∀ q j, x.en = true → x.switching = true → x.ents[x.cur.toNat]? = some (true, BitVec.ofNat 6 p) →
        let held := (s.groupPanels x).filter fun n => s.occupant n == some p
        s.saveReady p held = true → 1 ≤ j → j < 8 → x.ents[(x.cur.toNat + j) % 8]? = some (true, BitVec.ofNat 6 q) → q < 64 →
        (∀ i, 1 ≤ i → i < j → (x.ents[(x.cur.toNat + i) % 8]?.getD (false, 0)).1 = false) →
        (∀ f, s.imagesHeld q = some f → exec (.sliceExpiry d g) s = .next (s.demanded f)) ∧
        (s.imagesHeld q = none → Still s p held → (s.part q).en = true → (s.part q).dying = false →
        ∃ (u : State) (y : Group), exec (.sliceExpiry d g) s = .next u ∧ ((u.die d).groups)[g]? = some y ∧ y.switching = false ∧
          y.cur.toNat = (x.cur.toNat + j) % 8 ∧ ∀ n ∈ s.groupPanels x, n < 16384 → s.inSet q n = true → n ∈ held ∨ s.occupant n = none →
            (s.die (dieOfPanel n)).dead.contains (n % 4096) = false →
            (∀ c ∈ (s.die (dieOfPanel n)).cmds, c.begun = true → c.panel ≠ n % 4096) → u.occupant n = some q)) ∧
      (∀ j, x.en = true → x.switching = true → x.ents[x.cur.toNat]? = some (true, BitVec.ofNat 6 p) → s.jobs = [j] → j.finished = false →
        j.cmd.part = p → lands j.cmd (s.groupPanels x) = true → j.cmd.mbox = none →
        ∃ (u : State) (e : EngJob), exec (.saveTimeout d g) s = .next u ∧ u.jobs = [e] ∧ e.cmd = j.cmd ∧ e.finished = true ∧
          e.failed = some 13))

/-- R331, R333, R334, R366, R369, R373: panel commands, saves with their save areas, restores and time-share groups. The readings of log
entries 83 and 84 are the model's. -/
def Obligations.ContextForms : Prop := PanelForms ∧ SaveAreas

namespace Sys2Proof.Claims

open Sys2Proof.Machine

/-! ### Boot, power, training, errors, registers -/

/-- The image that the ROM checks (R344, R345): the boot flash, or the recovery buffer at die 0 SRAM offset 0. -/
def romImage (s : State) (k : Nat) : Byte := if s.sec.recover then s.mem.byte k else s.flash[k]?.getD 0

/-- A little-endian field of that image (R344). -/
def flashField (s : State) (a n : Nat) : Nat := ((List.range n).map fun k => (romImage s (a + k)).toNat * 256 ^ k).sum

/-- BOOTSTAT reports a failure of boot (R351): DONE, FAILED, DETAIL and CODE. -/
def BootFailed (u : State) (code : Nat) (detail : BitVec 16) : Prop :=
  u.sec.boot.getLsbD 63 = true ∧ u.sec.boot.getLsbD 62 = true ∧ u.sec.boot.extractLsb' 32 16 = detail ∧
    (u.sec.boot.extractLsb' 0 8).toNat = code

/-- The check of R345 that the header and the limits of R344 make. -/
def headerGood (s : State) : Prop :=
  flashField s 0 4 = 0x5A4A0001 ∧ flashField s 4 4 = 1 ∧ flashField s 0x14 4 ≤ flashField s 0x10 4 ∧ flashField s 8 4 ≤ 64 ∧
    flashField s 0x10 4 % 16 = 0 ∧ flashField s 0x10 4 ≤ 2 ^ 22 ∧ flashField s 0x14 4 ≤ 8192 ∧
    flashField s 0x18 8 + (flashField s 0x10 4 - flashField s 0x14 4) ≤ 2 ^ 31

/-- Every rail but AON is down, no training runs and the host sees the link down (R355, R363). -/
def PoweredDown (u : State) : Prop :=
  (∀ n, 1 ≤ n → n < 9 → ∀ r, u.rails[n]? = some r → r.pgood = false ∧ r.en = false ∧ r.vset = 0) ∧
    (∀ t ∈ u.trains, t.2.go = false) ∧ u.brixDown = true ∧ u.dark = true

/-- What a rail supplies has been lost with it (R354, R355). -/
def RailLost (u : State) (n : Nat) : Prop :=
  (∀ k b, k < 2 ^ 20 → k / 262144 + 1 = n → b < 65536 → u.mem.byte (tcmBase k + b) = 0) ∧
    (∀ k, k < 2 ^ 20 → k / 262144 + 1 = n → u.getCore k = Core.reset) ∧
    (n = 5 → ∀ a d, rawHome a = some (.sram d) → u.mem.byte a = 0) ∧ (n = 6 → ∀ a c, rawHome a = some (.gddr c) → u.mem.byte a = 0) ∧
    (n = 6 → ∀ c, (u.train (.gddr c)).online = false) ∧ (n = 7 → ∀ d, (u.train (.brix d)).online = false)

/-- The rail before a rail in the order SRAM, CORE0 to CORE3, AUX, GDDR, LINK (R354, R355). -/
def beforeRail (n : Nat) : Option Nat := ([(1, 5), (2, 1), (3, 2), (4, 3), (8, 4), (6, 8), (7, 6)].find? fun x => x.1 == n).map Prod.snd

/-- The OP that a block has been given may run (R358 to R360): it is one of the block's, its argument is one that it takes, its port has
not been left disabled, DESKEW of all lanes finds all four groups past PRBS, and the step before it has passed, in fact or by settings
written back. -/
def MayRun (s : State) (b : TrainBlock) : Prop :=
  let t := s.train b
  let op := t.op.toNat
  let channel := ∃ c, b = .gddr c
  1 ≤ op ∧ (channel → op ≤ 7) ∧ (¬ channel → op ≤ 5) ∧ (¬ channel → op = 2 → 20 ≤ t.arg.toNat ∧ t.arg.toNat ≤ 40) ∧
    (∀ p, b = .trarum p → s.porten.getLsbD p = true) ∧
    (b = .brix 0 → op = 3 → t.arg = 1 → ∀ g, g < 4 → 2 ≤ (s.train (.brix g)).passed) ∧
    (op ≤ t.passed + 1 ∨ (t.wrote = 0x3F ∧ ((channel ∧ op = 6 ∧ 1 ≤ t.passed) ∨ (¬ channel ∧ op = 2))))

/-- What a step of training finds (R359, R360): its block, its OP, whether it passes, and the setting that it keeps. -/
def trainForm : Instr → Option (TrainBlock × Nat × Bool × TrainResult × Option Nat)
  | .gddrInit c r => some (.gddr c, 1, r.ok, r, none)
  | .catrain c r => some (.gddr c, 2, decide (8 ≤ r.margin.toNat), r, some 0)
  | .wckalign c r => some (.gddr c, 3, r.ok, r, some 1)
  | .rdtrain c r => some (.gddr c, 4, decide (6 ≤ r.margin.toNat), r, some 2)
  | .wrtrain c r => some (.gddr c, 5, decide (6 ≤ r.margin.toNat), r, some 3)
  | .verify c r => some (.gddr c, 6, decide (r.errs = 0), r, none)
  | .eqTrain b r => some (b, 1, decide (4 ≤ r.margin.toNat), r, some 0)
  | .prbs b r => some (b, 2, decide (r.errs = 0), r, none)
  | .deskew b r => some (b, 3, r.ok, r, none)
  | .flitlock b r => some (b, 4, r.ok, r, none)
  | _ => none

/-- The offset of a die window in the physical function's space (R306). -/
def dieOff (d o : Nat) : Nat := 0x1000000 + 0x100000 * d + o

/-- What a write of a register that reads back leaves in it (R307, R309, R328, R329, R349, R356, R357, R365, R369): its offset, when it is taken,
and the bits that it keeps. -/
def Reads (s : State) (off : Nat) (v keep : DWord) : Prop :=
  ∃ u : State, exec (.registerWrite .pf off v) s = .next u ∧ u.registerRead .pf off = v &&& keep ∧ u.core.regs = s.core.regs ∧ u.mem = s.mem

end Sys2Proof.Claims

/-- R344, R347, R348, R352, R366: stage 1 on die 0's flint: it brings the rails up in their order with CLKSTATE 3, loads and starts the flints,
trains, waits for training and for the host's link, locks the fuses, verifies each image, measures it behind what the security block has to
do and places its code, and ends READY in CLKSTATE 0; a flint that has failed or an image that fails a check ends boot. The readings of log
entry 106 are the model's. -/
def Sys2Proof.Claims.StageOne (s : State) : Prop :=
  let u := s.entered .stage
  let phase (t : State) : Nat := (t.sec.boot.extractLsb' 8 8).toNat
  let stages (k : Nat) : Prop := s.flints[0]? = some .running ∧ s.sec.boot.getLsbD 63 = false ∧ phase s = k
  let up (n : Nat) : Prop := ∃ r, s.rails[n]? = some r ∧ r.pgood = true
  let order : List Nat := [1, 2, 3, 4, 8, 6, 7]
  ((s.flints[0]? = some .rom ∨ s.flints[0]? = some .recover ∨ s.sec.boot.getLsbD 63 = true) → u = s) ∧
  (stages 1 → phase u = 2 ∧ u.core = s.core ∧ u.rails = s.rails) ∧
  (∀ n, stages 2 → (∃ i : Nat, order[i]? = some n ∧ ∀ j m : Nat, j < i → order[j]? = some m → up m) → (∀ r, s.rails[n]? = some r → r.pgood = false) →
    exec (.railEn n true) s = .next u) ∧
  (stages 2 → (∀ n ∈ order, up n) → (s.clkCur = 3 ∧ s.clkBusy = false → phase u = 3 ∧ u.clkReq = s.clkReq) ∧
    (s.clkCur ≠ 3 ∨ s.clkBusy = true → exec (.clkstateReq 3) s = .next u)) ∧
  (∀ d, stages 3 → s.mem.wf = true → 1 ≤ d → d < 4 → s.flints[d]? = some .held → (∀ j, 1 ≤ j → j < d → s.flints[j]? ≠ some .held) →
    u.flints[d]? = some .running ∧ (u.getCore (1048576 + d)).kpc = s.sec.entry ∧
      ∀ k, k < 8192 → u.mem.byte (imemBase (1048576 + d) + k) = s.mem.byte (imemBase 1048576 + k)) ∧
  (stages 3 → (∀ j, 1 ≤ j → j < 4 → s.flints[j]? ≠ some .held) →
    ((∃ j, 1 ≤ j ∧ j < 4 ∧ s.flints[j]? = some .failed) → u.sec.boot.getLsbD 63 = true ∧ u.sec.boot.getLsbD 62 = true ∧
      ((u.sec.boot.extractLsb' 0 8).toNat = 6 ∨ (u.sec.boot.extractLsb' 0 8).toNat = 7)) ∧
    ((∀ j, 1 ≤ j → j < 4 → s.flints[j]? = some .halted) → (∀ c, c < 32 → (s.train (.gddr c)).online = true) →
      (∀ p, p < 5 → (s.train (.trarum p)).online = true ∨ s.porten.getLsbD p = false) → phase u = 4)) ∧
  (stages 4 → up 7 → (∀ d, d < 4 → (s.train (.brix d)).online = true) → phase u = 5) ∧
  (stages 4 → ¬ up 7 ∨ (∃ d, d < 4 ∧ (s.train (.brix d)).online = false) → u = s) ∧
  (stages 5 → s.sec.fuselock = false → exec .fuselock s = .next u) ∧
  (stages 5 → s.sec.fuselock = true → s.sec.lock.getLsbD 4 = false → u = s) ∧
  (stages 5 → s.sec.fuselock = true → s.sec.lock.getLsbD 4 = true →
    (s.clkCur = 0 ∧ s.clkBusy = false → phase u = 6 ∧ u.sec.boot.getLsbD 63 = true ∧ u.sec.boot.getLsbD 62 = s.sec.boot.getLsbD 62) ∧
    (s.clkCur ≠ 0 ∨ s.clkBusy = true → exec (.clkstateReq 0) s = .next u)) ∧
  (∀ c arg, stages 3 → c < 32 → let t := s.train (.gddr c)
    t.go = false → t.online = false → s.entered (.stageTrain 0 (.gddr c) arg) = s.setTrain (.gddr c) { t with
      op := if t.done = true ∧ t.pass = false then 1 else BitVec.ofNat 8 (t.passed + 1)
      arg := arg
      go := true
      done := false
      pass := false
      result := none }) ∧
  (∀ off kind, stages 5 → s.sec.fuselock = true → s.sec.lock.getLsbD 4 = false → kind = 3 ∨ (kind = 2 ∧ s.sec.images = []) →
    let img (k : Nat) : Byte := s.flash[off + k]?.getD 0
    let t := s.entered (.stageImage off kind)
    (s.sec.queue ≠ [] → t = s) ∧
    (s.sec.queue = [] → s.imageFault img kind (imageHead img) ≠ none → BootFailed t 8 0) ∧
    (s.sec.queue = [] → s.imageFault img kind (imageHead img) = none → s.mem.wf = true → ∀ n ∈ Config.imageCores off kind,
      ∀ k, k < (imageHead img).codelen → t.mem.byte (imemBase n + k) = img (0x60 + k)) ∧
    (s.sec.queue = [] → s.imageFault img kind (imageHead img) = none → s.sec.lock.getLsbD kind = false → t.sec.boot = s.sec.boot ∧
      ∀ old, s.sec.meas[kind]? = some old → t.sec.meas[kind]? =
        some (digest (digestBytes old ++ digestBytes (digest (imageBytes img 0 (0x60 + (imageHead img).bodylen)))))))

/-- R343, R345 to R353: a module reset keeps fuses, the boot flash and host memory; the ROM enables its
rail, waits, and checks the image in order; RECOVGO starts again; START releases a held flint; extends, locks, fuses and quotes
work as the security block does; stage 1 takes its steps. The readings of log entries 88, 89, 90, 91 and 106 are the model's. -/
def Obligations.BootForms : Prop :=
  ∀ (s : State),
    let x := s.sec
    (∃ m, exec .moduleReset s = .next { State.reset with
        fuses := s.fuses
        flash := s.flash
        agenda := s.agenda
        tick := s.tick
        mem := m } ∧
      (∀ a, m.byte a = if 2 ^ 47 ≤ a ∧ a < 2 ^ 48 then s.mem.byte a else 0) ∧ m.tags = [] ∧ m.poison = []) ∧
    (∀ r, s.flints[0]? = some .rom → s.rails[5]? = some r → r.en = false →
      ∃ u : State, exec .romImageCheck s = .next u ∧ u.rails[5]? = some { r with en := true } ∧ u.sec.boot = 0x100 ∧ u.flints = s.flints) ∧
    (∀ r, s.flints[0]? = some .rom → s.rails[5]? = some r → r.en = true → r.pgood = false → exec .romImageCheck s = .next s) ∧
    (∀ r, s.flints[0]? = some .rom → s.rails[5]? = some r → r.en = true → r.pgood = true →
      (¬ headerGood s → ∃ u : State, exec .romImageCheck s = .next u ∧ BootFailed u 1 0 ∧ u.flints[0]? = some .recover ∧ u.fuses = s.fuses) ∧
      (headerGood s → (4 < flashField s 0xC 4 % 8 ∨ s.fuses.keyrev.getLsbD (flashField s 0xC 4 % 8) = true ∨
          (flashField s 0xC 4 % 8 = 0 ∧ s.fuses.ownerlock = true)) →
        ∃ u : State, exec .romImageCheck s = .next u ∧ BootFailed u 2 0 ∧ u.flints[0]? = some .recover ∧ u.fuses = s.fuses) ∧
      (headerGood s → s.imageFault (romImage s) 1 (imageHead (romImage s)) = none → x.queue ≠ [] → exec .romImageCheck s = .next s) ∧
      (headerGood s → s.imageFault (romImage s) 1 (imageHead (romImage s)) = none → x.queue = [] →
        ∃ u : State, exec .romImageCheck s = .next u ∧ u.flints[0]? = some .running ∧
          (u.getCore 1048576).kpc = BitVec.ofNat 12 (flashField s 0x5C 4) ∧ (u.getCore 1048576).csr.km = true ∧ u.sec.lock = x.lock ||| 3 ∧
          (x.lock.getLsbD 0 = false → u.sec.meas[0]? = some (digest (digestBytes (x.meas[0]) ++
            digestBytes (digest (imageBytes (romImage s) 0 (0x60 + flashField s 0x10 4)))))) ∧
          (flashField s 0xC 4 / 256 % 2 = 0 → u.fuses = s.fuses) ∧
          (s.mem.wf = true → ∀ k,
            (k < flashField s 0x14 4 → u.mem.byte (imemBase 1048576 + k) = romImage s (0x60 + k)) ∧
            (k < flashField s 0x10 4 - flashField s 0x14 4 →
              u.mem.byte (flashField s 0x18 8 + k) = romImage s (0x60 + flashField s 0x14 4 + k))))) ∧
    (s.flints[0]? = some .recover →
      ∃ u : State, exec .recovgo s = .next u ∧ u.flints[0]? = some .rom ∧ u.sec.recover = true ∧ u.fuses = s.fuses ∧ u.mem = s.mem) ∧
    (s.flints[0]? ≠ some .recover → exec .recovgo s = .next s) ∧
    (∀ d e, 1 ≤ d → d < 4 → (s.flints[d]? = some .held →
        ∃ u : State, exec (.flintStart d e) s = .next u ∧ u.flints[d]? = some .running ∧ (u.getCore (1048576 + d)).kpc = e ∧
          (u.getCore (1048576 + d)).csr.km = true) ∧
      (s.flints[d]? ≠ some .held → exec (.flintStart d e) s = .next s)) ∧
    (∀ i : BitVec 3, ((∃ j d, SecReq.extend j d ∈ x.queue) → exec (.measExtend i) s = .next s) ∧
      (∀ m r, x.queue = .quote m :: r → (∀ j d, SecReq.extend j d ∉ x.queue) →
        exec (.measExtend i) s = .next { s with sec := { x with
          idx := i
          queue := x.queue ++ [.extend i x.mextdata] } }) ∧
      (x.queue = [] → x.lock.getLsbD i.toNat = true →
        exec (.measExtend i) s = .next { s with sec := { x with
          idx := i
          merr := true } }) ∧
      (x.queue = [] → x.lock.getLsbD i.toNat = false → ∀ old n, x.meas[i.toNat]? = some old → x.mcount[i.toNat]? = some n →
        exec (.measExtend i) s = .next { s with sec := { x with
          idx := i
          meas := x.meas.setIfInBounds i.toNat (digest (digestBytes old ++ digestBytes x.mextdata))
          mcount := x.mcount.setIfInBounds i.toNat (if n = 0xFFFFFFFF then n else n + 1) } })) ∧
    (∀ bits : Byte, exec (.mlock bits) s = .next { s with sec := { x with lock := x.lock ||| bits } }) ∧
    (exec .fuselock s = .next { s with sec := { x with fuselock := true } }) ∧
    (∀ f i, (x.fgo = false → x.fuselock = true → exec (.fusecmd f i) s = .next s) ∧
      (x.fgo = true → (x.field ≠ f ∨ x.index ≠ i) → exec (.fusecmd f i) s = .next s) ∧
      ((x.fgo = false ∧ x.fuselock = false) ∨ (x.fgo = true ∧ x.field = f ∧ x.index = i) →
        let done (g : Fuses) : Prop := exec (.fusecmd f i) s = .next { s with
            fuses := g
            sec := { x with
              field := f
              index := i
              fgo := false } }
        (∀ k h, f.toNat = k + 1 → k < 4 → i.toNat < 256 → s.fuses.keyhash[k]? = some h →
          done { s.fuses with keyhash := s.fuses.keyhash.setIfInBounds k (h ||| (1 <<< i.toNat)) }) ∧
        (f = 5 → i.toNat < 5 → done { s.fuses with keyrev := s.fuses.keyrev ||| (1 <<< i.toNat) }) ∧
        (f = 6 → i = 0 → done { s.fuses with ownerlock := true }) ∧
        (f = 7 → i.toNat < 64 → done { s.fuses with minsvn := s.fuses.minsvn ||| (1 <<< i.toNat) }) ∧
        (x.fgo = false → f = 0 ∨ 7 < f.toNat ∨ (f.toNat ≤ 4 ∧ 256 ≤ i.toNat) ∨ (f = 5 ∧ 5 ≤ i.toNat) ∨ (f = 6 ∧ i ≠ 0) ∨ (f = 7 ∧ 64 ≤ i.toNat) →
          exec (.fusecmd f i) s = .next s))) ∧
    (∀ b m r, (x.queue = [] ∧ r = []) ∨ x.queue = .quote m :: r →
      let newTree := x.tree = none ∨ ∃ t, x.tree = some (t, 32768)
      let ends (u : State) : Prop := u.sec.qgo = !u.sec.queue.isEmpty ∧ u.sec.qdone = u.sec.queue.isEmpty ∧
        (r = [] → u.sec.queue = [] ∧ u.sec.meas = x.meas) ∧ (∀ n q, r = .quote n :: q → u.sec.queue = r ∧ u.sec.meas = x.meas) ∧
        (∀ i d q, r = .extend i d :: q → (q = [] ∨ ∃ n z, q = .quote n :: z) → x.lock.getLsbD i.toNat = false →
          u.sec.queue = q ∧ ∀ old, x.meas[i.toNat]? = some old →
            u.sec.meas = x.meas.setIfInBounds i.toNat (digest (digestBytes old ++ digestBytes d)))
      let quotes (u : State) (t j : Nat) : Prop := u.sec.tree = some (t, j + 1) ∧ u.sec.qok = true ∧ u.sec.qreason = 0 ∧
        u.sec.qbuf.length = 352 + 5396 ∧ u.sec.qbuf.take 8 = leBytes 8 0x16740001 ∧
        (u.sec.qbuf.drop 24).take 8 = leBytes 8 (t * 32768 + j) ∧ (u.sec.qbuf.drop 32).take 32 = digestBytes x.qnonce ∧
        (∀ k, k < 8 → ∀ y, x.meas[k]? = some y → (u.sec.qbuf.drop (64 + 32 * k)).take 32 = digestBytes y) ∧ ends u
      (∀ t j, x.tree = some (t, j) → j < 32768 → ∃ u : State, exec (.qgo b) s = .next u ∧ quotes u t j ∧ u.fuses = s.fuses) ∧
      (newTree → s.fuses.idctr < 32768 → ∃ u : State, exec (.qgo .verified) s = .next u ∧ quotes u s.fuses.idctr 0 ∧
        u.fuses = { s.fuses with idctr := s.fuses.idctr + 1 }) ∧
      (newTree → s.fuses.idctr < 32768 → ∃ u : State, exec (.qgo .failed) s = .next u ∧ u.sec.tree = x.tree ∧ u.sec.qbuf = x.qbuf ∧
        u.fuses = { s.fuses with idctr := s.fuses.idctr + 1 } ∧ u.sec.queue ≠ [] ∧ (x.queue ≠ [] → u.sec = x)) ∧
      (newTree → 32768 ≤ s.fuses.idctr → ∃ u : State, exec (.qgo b) s = .next u ∧ u.fuses = s.fuses ∧ u.sec.qok = false ∧
        u.sec.qreason = 1 ∧ ends u)) ∧ StageOne s

/-- R354 to R357: a rail comes up only behind its predecessor, an enabled rail given EN without it is a sequencing error, and a rail reaches PGOOD with its fused voltage; a rail that goes down takes with it
what it supplies, and a FAULT powers every rail but AON down and is reported in BOOTSTAT; CLKSTATE changes with every CORE rail's voltage once no training runs; the power
manager halves or doubles the rate. The readings of log entries 87, 94 and 107 are the model's. -/
def Obligations.PowerForms : Prop :=
  ∀ (s : State),
    let put (n : Nat) (r : Rail) : State := { s with rails := s.rails.setIfInBounds n r }
    (∀ n r, 1 ≤ n → s.rails[n]? = some r →
      (r.en = true → (∀ k, beforeRail n = some k → ∃ q, s.rails[k]? = some q ∧ q.pgood = true) → exec (.railEn n true) s = .next s) ∧
      (r.en = true → (∃ k q, beforeRail n = some k ∧ s.rails[k]? = some q ∧ q.pgood = false) →
        ∃ u : State, exec (.railEn n true) s = .next u ∧ PoweredDown u ∧ BootFailed u 5 (BitVec.ofNat 16 n) ∧
          ∃ q, u.rails[n]? = some q ∧ q.fault = true) ∧
      (r.en = false → exec (.railEn n false) s = .next s) ∧
      (r.en = false → (∀ k, beforeRail n = some k → ∃ q, s.rails[k]? = some q ∧ q.pgood = true) →
        exec (.railEn n true) s = .next (put n { r with en := true })) ∧
      (r.en = false → (∃ k q, beforeRail n = some k ∧ s.rails[k]? = some q ∧ q.pgood = false) →
        exec (.railEn n true) s = .next (put n { r with fault := true })) ∧
      (r.en = true → ∃ u : State, exec (.railEn n false) s = .next u ∧ u.rails = s.rails.setIfInBounds n ⟨false, r.fault, 0, false⟩ ∧
        RailLost u n ∧ (∀ a, rawHome a ≠ none → (n = 5 → ∀ d, rawHome a ≠ some (.sram d)) →
          (n = 6 → ∀ c, rawHome a ≠ some (.gddr c)) → u.mem.byte a = s.mem.byte a) ∧ u.fuses = s.fuses ∧ u.sec = s.sec) ∧
      (r.en = true → r.pgood = false →
        exec (.pgood n) s = .next (put n { r with
          pgood := true
          vset := Config.fusedVset n s.clkCur.toNat })) ∧
      (r.en = true → r.pgood = false → ∃ u : State, exec (.railPgoodTimeout n) s = .next u ∧ PoweredDown u ∧ BootFailed u 5 (BitVec.ofNat 16 n) ∧
        (s.flints[0]? = some .rom → u.flints[0]? = some .halted) ∧ ∃ q, u.rails[n]? = some q ∧ q.fault = true) ∧
      (r.en = true → r.pgood = true → exec (.railPgoodTimeout n) s = .next s) ∧
      (r.en = true → ∃ u : State, exec (.railFault n) s = .next u ∧ PoweredDown u ∧ BootFailed u 5 (BitVec.ofNat 16 n) ∧
        (∀ k, 1 ≤ k → k < 9 → RailLost u k) ∧ ∃ q, u.rails[n]? = some q ∧ q.fault = true) ∧
      (r.en = false → exec (.railFault n) s = .next s)) ∧
    (∀ r v, s.rails[0]? = some r → exec (.railEn 0 v) s = .next (put 0 { r with en := v })) ∧
    (∀ v, (s.clkBusy = true → exec (.clkstateReq v) s = .next { s with clkReq := v }) ∧
      (s.clkBusy = false → v = s.clkCur → exec (.clkstateReq v) s = .next { s with clkReq := v }) ∧
      (s.clkBusy = false → v ≠ s.clkCur → exec (.clkstateReq v) s = .next { s with
        clkReq := v
        clkBusy := true
        clkTo := v })) ∧
    ((s.clkBusy = false ∨ ∃ t ∈ s.trains, t.2.go = true) → exec .clockChange s = .next s) ∧
    (s.clkBusy = true → (∀ t ∈ s.trains, t.2.go = false) → ∃ u : State, exec .clockChange s = .next u ∧ u.clkCur = s.clkTo ∧
      u.clkBusy = decide (s.clkReq ≠ s.clkTo) ∧ u.core = s.core ∧ u.mem = s.mem ∧
      ∀ n, 1 ≤ n → n ≤ 4 → ∀ r, s.rails[n]? = some r → u.rails[n]? = some { r with vset := Config.fusedVset n s.clkTo.toNat }) ∧
    (∀ e, ∃ u : State, exec (.powerWindow e) s = .next u ∧ u.core = s.core ∧ u.mem = s.mem ∧ u.clkCur = s.clkCur ∧
      (s.pwrlim.toNat < e → u.rate = Max.max 1 (s.rate / 2)) ∧
      (e ≤ s.pwrlim.toNat → e * 100 < s.pwrlim.toNat * 95 → u.rate = Min.min 64 (s.rate * 2)) ∧
      (e ≤ s.pwrlim.toNat → s.pwrlim.toNat * 95 ≤ e * 100 → u.rate = s.rate) ∧
      u.throt = (if u.rate < 64 then s.throt + 1 else s.throt))

/-- R358 to R360: a step of training whose predecessor has passed records what it finds and TRAINING_DONE reports it, one that
comes too early ends with PASS 0 and ERRS 0xFFFFFFFF; GDDR_ONLINE zeroes the channel; LINK_ONLINE gives the module its number
and its reach. The readings of log entries 92 and 93 are the model's. -/
def Obligations.TrainingForms : Prop :=
  (∀ (s : State) (i : Instr) (b : TrainBlock) (op : Nat) (pass : Bool) (r : TrainResult) (keep : Option Nat),
    trainForm i = some (b, op, pass, r, keep) →
    let t := s.train b
    let found : Option (Bool × BitVec 16 × BitVec 32) := some (pass, r.margin, r.errs)
    (t.go = true → t.op.toNat = op → t.result = none → MayRun s b →
      exec i s = .next (s.setTrain b (match keep with
        | some k => { t with
            res := t.res.setIfInBounds k r.res
            result := found }
        | none => { t with result := found }))) ∧
    (t.go = false ∨ t.op.toNat ≠ op ∨ t.result ≠ none ∨ ¬ MayRun s b → exec i s = .next s)) ∧
  (∀ (s : State) (b : TrainBlock),
    let t := s.train b
    (∀ pass margin errs, t.go = true → t.result = some (pass, margin, errs) →
      ∃ u : State, exec (.trainingDone b) s = .next u ∧ (u.train b).go = false ∧ (u.train b).done = true ∧ (u.train b).pass = pass ∧
        (u.train b).margin = margin ∧ (u.train b).errs = errs ∧ (pass = true → (u.train b).passed = t.op.toNat) ∧
        (pass = true → u.sec = s.sec ∧ u.porten = s.porten) ∧
        (pass = true → b = .brix 0 → t.op = 3 → t.arg = 1 → ∀ g, g < 4 → 3 ≤ (u.train (.brix g)).passed) ∧
        (pass = false → (u.train b).passed + 1 = t.op.toNat ∨ t.op = 0) ∧
        (∀ c, pass = false → b = .gddr c → t.fails = 3 → BootFailed u 6 (BitVec.ofNat 16 c)) ∧
        (∀ d, pass = false → b = .brix d → u.sec.boot.getLsbD 62 = true ∧ (u.sec.boot.extractLsb' 0 8).toNat = 7) ∧
        (∀ p, pass = false → b = .trarum p → t.fails = 2 → u.porten = s.porten &&& ~~~((1 : BitVec 18) <<< p))) ∧
    (t.go = true → t.result = none → ¬ MayRun s b →
      exec (.trainingDone b) s = .next (s.setTrain b { t with
        go := false
        done := true
        pass := false
        errs := 0xFFFFFFFF })) ∧
    (t.go = false ∨ (t.result = none ∧ MayRun s b) → exec (.trainingDone b) s = .next s)) ∧
  (∀ (s : State) (c : Nat), let t := s.train (.gddr c)
    t.go = true → t.op = 7 → t.result = none → MayRun s (.gddr c) →
    ∃ u : State, exec (.gddrOnline c) s = .next u ∧ (u.train (.gddr c)).online = true ∧
      (∀ a, rawHome a = some (.gddr c) → u.mem.byte a = 0 ∧ a ∉ u.mem.tags ∧ a ∉ u.mem.poison) ∧
      (∀ a, rawHome a ≠ some (.gddr c) → u.mem.byte a = s.mem.byte a)) ∧
  (∀ (s : State) (b : TrainBlock), let t := s.train b
    t.go = true → t.op = 5 → t.result = none → MayRun s b →
    (∀ p, b = .trarum p → ∃ u : State, exec (.linkOnline b) s = .next u ∧ (u.train b).online = true ∧
      (∀ m, m ∈ u.reach ↔ m ∈ s.reach ∨ Config.peer p m = true) ∧ u.modnum = s.modnum) ∧
    (∀ d, b = .brix d → d < 4 → ∃ u : State, exec (.linkOnline b) s = .next u ∧ (u.train b).online = true ∧
      ((∀ g, g < 4 → g ≠ d → (s.train (.brix g)).online = true) → u.modnum = Config.moduleNumber) ∧
      ((∃ g, g < 4 ∧ g ≠ d ∧ (s.train (.brix g)).online = false) → u.modnum = s.modnum)))

/-- R364 to R368: a retried error is a transient; a lasting one poisons its burst, retires its frame, is counted and writes a
record with the time of its detection; a lost dirty line terminates its owner and quarantines its way, a lost owner tag every sharer; a port is disabled by the
eighth failed retry; a failed panel is retired. The readings of log entries 95, 96 and 97 are the model's. -/
def Obligations.ErrorForms : Prop :=
  ∀ (s : State) (d : Nat) (x : Die), s.dies[d]? = some x → (∀ y ∈ s.dies.toList, y.recs = []) → s.mem.wf = true →
    let transients (k : Nat) : Nat := ((((x.trans.find? fun e => e.1 == k).map Prod.snd).getD []).filter fun t => decide (s.clock < t + 2 ^ 32)).length
    let counted (u : State) : Prop := (u.die d).transcnt = satInc x.transcnt ∧ (u.die d).lastcnt = x.lastcnt ∧ u.mem = s.mem ∧ u.parts = s.parts
    let ring := s.hostUp = true ∧ isHost x.errbase.toNat = true ∧ 1 ≤ x.errlog.toNat ∧ x.errlog.toNat ≤ 16 ∧ (x.errwidx - x.errridx).toNat < 2 ^ x.errlog.toNat ∧
      x.errbase.toNat % 32 = 0 ∧ x.errbase.toNat + 2 ^ 21 ≤ 2 ^ 48
    let slot := x.errbase.toNat + 32 * (x.errwidx.toNat % 2 ^ x.errlog.toNat)
    let recorded (u : State) (cls unit where_ : Nat) (mpa : Nat) : Prop := (u.die d).errwidx = x.errwidx + 1 ∧
      u.mem.read slot 4 = cls + unit * 2 ^ 8 + where_ * 2 ^ 16 ∧ u.mem.read (slot + 8) 8 = mpa ∧ u.mem.read (slot + 16) 8 = 0 ∧
      u.mem.read (slot + 24) 8 = s.ref24 / 24 % 2 ^ 64
    let room := x.filter.toList.any fun e => !e.1
    let free (a : Nat) : Prop := ∀ e ∈ x.filter.toList, e.1 = true → e.2.toNat ≠ a / 2 ^ 16
    (∀ mpa place u unit key, (u = ErrUnit.sram ∧ rawHome mpa = some (.sram d) ∧ unit = 1 ∧ key = place) ∨
        (u = ErrUnit.gddr ∧ (∃ c, rawHome mpa = some (.gddr c) ∧ c / 32 = d ∧ key = c) ∧ unit = 2) → key < 65536 →
      (transients (unit * 65536 + key) < 256 →
        ∃ v : State, exec (.errorDetect u mpa place true) s = .next v ∧ counted v) ∧
      (room = true → free mpa → ring → (∀ l ∈ s.lines, l.line ≠ mpa / 32 * 32) →
        ∃ v : State, exec (.errorDetect u mpa place false) s = .next v ∧ (v.die d).lastcnt = satInc x.lastcnt ∧
          (∃ e ∈ (v.die d).filter.toList, e.1 = true ∧ e.2.toNat = mpa / 2 ^ 16) ∧
          (∀ k, k < 4 → v.mem.poisoned (mpa / 32 * 32 + 8 * k) = true) ∧ recorded v 2 unit key (mpa / 32 * 32) ∧ v.parts = s.parts)) ∧
    (∀ n, n < 16384 → n / 4096 = d → (s.getCore (64 * n)).out = true → (n % 4096) ∉ x.dead → x.cmds = [] → ring →
      ∃ v : State, exec (.errorDetect .core 0 (64 * n) false) s = .next v ∧ (v.die d).lastcnt = satInc x.lastcnt ∧ recorded v 2 4 n 0 ∧
        ∃ c, (v.die d).cmds = [c] ∧ c.op = .retire ∧ c.panel = n % 4096 ∧ c.begun = false ∧ c.since = s.stampNow) ∧
    (∀ line l, (x.msc.find? fun m => m.line == line / 32 * 32 && m.dirty) = some l → room = true → free l.line → l.way < 16 →
      (s.part l.owner.toNat).context = .idle → x.waydis.getLsbD l.way = false →
      ∃ v : State, exec (.cacheDirtyLineError d line) s = .next v ∧
        ((v.part l.owner.toNat).dying = true ∨ (v.part l.owner.toNat).en = false) ∧ (v.die d).waydis = x.waydis ||| (1 <<< l.way) ∧
        (v.die d).msc = x.msc.filter (fun m => m.line != l.line) ∧ (v.die d).lastcnt = satInc x.lastcnt ∧
        (v.die d).walks = x.walks ++ [⟨l.way, s.stampNow, l.line, 3, l.owner, [l.owner.toNat]⟩] ∧
        ∀ k, k < 4 → (∀ m ∈ s.lines, m.line = l.line → m.dirty = false) → v.mem.poisoned (l.line + 8 * k) = true) ∧
    (∀ line l, (x.msc.find? fun m => m.line == line / 32 * 32) = some l → room = true → free l.line → l.way < 16 →
      x.waydis.getLsbD l.way = false →
      ∃ v : State, exec (.ownerTagParityError d line) s = .next v ∧ (v.die d).waydis = x.waydis ||| (1 <<< l.way) ∧
        (v.die d).msc = x.msc.filter (fun m => m.line != l.line) ∧ (v.die d).walks.length = x.walks.length + 1 ∧
        (∀ p, p < 64 → ((s.part p).waymask ||| (s.part p).waymask2).getLsbD (16 * d + l.way) = true → (s.part p).context = .idle →
          (v.part p).dying = true ∨ (v.part p).en = false)) ∧
    (∀ w r, x.walks = w :: r →
      (∀ m, (x.msc.find? fun m => m.way == w.way) = some m → s.entered (.wayStep d) =
        { s with dies := s.dies.setIfInBounds d { x with msc := x.msc.filter fun k => k.line != m.line } }) ∧
      ((∀ m ∈ x.msc, m.way ≠ w.way) → ring → w.cls < 256 → (∀ p ∈ w.term, (s.part p).dying = false ∧ (s.part p).doomed = false) →
        let v := s.entered (.wayStep d)
        (v.die d).walks = r ∧ (v.die d).errwidx = x.errwidx + 1 ∧
          v.mem.read slot 4 = w.cls + 3 * 2 ^ 8 + w.way % 2 ^ 16 * 2 ^ 16 ∧ v.mem.read (slot + 8) 8 = w.line % 2 ^ 64 ∧
          v.mem.read (slot + 24) 8 = w.since.toNat)) ∧
    (s.entered (.corrected d) = { s with dies := s.dies.setIfInBounds d { x with corrcnt := satInc x.corrcnt } }) ∧
    (∀ ways, exec (.waydisClear d ways) s = .next { s with dies := s.dies.setIfInBounds d { x with waydis := x.waydis &&& ~~~ways } }) ∧
    (∀ n c f w, n < 16384 → n / 4096 = d → x.cmds = [⟨c, .retire, n % 4096, false, f, w⟩] → s.panelFree c n = true → s.occupant n = none →
      ∃ v : State, exec (.panelRetirement n) s = .next v ∧ (v.die d).cmds = [⟨64, .retire, n % 4096, true, f, w⟩] ∧ v.mem = s.mem) ∧
    (∀ n w, n < 16384 → n / 4096 = d → x.cmds = [⟨64, .retire, n % 4096, true, false, w⟩] → s.panelFree 64 n = true → s.panelAtRest n = true →
      x.spent.getLsbD (n % 4096 / 64) = false →
      ∃ v : State, exec (.panelRetirement n) s = .next v ∧ (v.die d).cmds = [] ∧ (v.die d).spent = x.spent ||| (1 <<< (n % 4096 / 64)) ∧
        (v.die d).dead = x.dead ∧ ∀ k, k / 64 = n → (v.getCore k).out = false ∧ (v.getCore k).task = none) ∧
    (∀ p, p < 18 → dieOfPort p = d → s.porten.getLsbD p = true →
      let fails := ((s.flitFails.find? fun e => e.1 == p).map Prod.snd).getD 0
      (transients (5 * 65536 + p) < 256 → ∃ v : State, exec (.linkFlitError (.trarum p) true) s = .next v ∧ counted v ∧ v.porten = s.porten) ∧
      (fails < 7 → ∃ v : State, exec (.linkFlitError (.trarum p) false) s = .next v ∧ v.porten = s.porten ∧ v.dies = s.dies) ∧
      (7 ≤ fails → ∃ v : State, exec (.linkFlitError (.trarum p) false) s = .next v ∧ v.porten = s.porten &&& ~~~((1 : BitVec 18) <<< p) ∧
        (v.die d).lastcnt = satInc x.lastcnt)) ∧
    (s.brixDown = false → 7 ≤ ((s.flitFails.find? fun e => e.1 == 18).map Prod.snd).getD 0 →
      ∃ v : State, exec (.linkFlitError .brix false) s = .next v ∧ v.brixDown = true ∧
        (d = 0 → (v.die d).lastcnt = satInc x.lastcnt ∧ (ring → recorded v 2 6 0 0)))

/-- R306, R307, R309, R328, R329, R349, R353, R356, R357, R365, R369: a register that the physical function writes reads back
what it keeps; a partition's block is closed while EN is 1 but for the exceptions; a virtual function writes only what it may,
the management interface only QNONCE, QGO and RECOVGO, and nothing but die 0's flint reaches the flint blocks and BOOTSTAT; a flint's write is the
oldest that has left its store buffer. The readings of log entries 86, 101, 102 and 104 are the model's. -/
def Obligations.RegisterForms : Prop :=
  ∀ (s : State) (v : DWord),
    (∀ p o keep, p < 64 → (s.part p).en = false → (s.part p).dmen = false →
      (o, keep) ∈ ([(0x008, ~~~0), (0x010, ~~~0), (0x018, ~~~0), (0x020, ~~~0), (0x028, 0xFFFFFF), (0x030, ~~~0), (0x038, ~~~0),
        (0x040, 0xFFFF), (0x048, ~~~0), (0x060, ~~~0), (0x068, ~~~0), (0x070, ~~~0), (0x078, ~~~0), (0x090, ~~~0),
        (0x0A0, ~~~0), (0x0A8, 0xFFFF), (0x0B0, ~~~0), (0x0C0, ~~~0), (0x0C8, ~~~0), (0x0D0, 1 <<< 63)] : List (Nat × DWord)) →
      Reads s (0x80000 + 0x1000 * p + o) v keep) ∧
    (∀ p o, p < 64 → (s.part p).en = true →
      o ∈ [0x008, 0x018, 0x020, 0x028, 0x030, 0x038, 0x040, 0x048, 0x060, 0x068, 0x070, 0x078, 0x080, 0x090, 0x0A0, 0x0A8, 0x0B0, 0x0C0] →
      exec (.registerWrite .pf (0x80000 + 0x1000 * p + o) v) s = .next s) ∧
    (∀ p o, p < 64 → o < 0x1000 → o ∉ [0x010, 0x050, 0x058] → exec (.registerWrite (.vf p) (0x1000 + o) v) s = .next s) ∧
    (∀ o, o < 0x1000 → exec (.registerWrite .mgmt (0x80000 + o) v) s = .next s) ∧
    (∀ d o keep, d < 4 → (o, keep) ∈ ([(0x100, 0x7FFFFF80), (0x108, 0x7FFFFF80), (0x110, 0x7FFFFF80), (0x118, 0x7FFFFF80), (0x208, 31),
        (0x210, ~~~0), (0x218, 0xFFFFFFFF0000001F), (0x90000, ~~~0), (0x90010, 0xFFFFFFFF), (0x91000, 0x80000000FFFFFFFF), (0x91008, 0xBFBFBFBFBFBFBFBF),
        (0x91010, ~~~0), (0x911E8, 0xBFBFBFBFBFBFBFBF)] : List (Nat × DWord)) →
      Reads s (dieOff d o) v keep) ∧
    (∀ q, q < 8192 → Reads s (0x2000000 + 0x1000 * q + 0x20) v 0xFF) ∧
    (∀ k, k < 4 → Reads s (dieOff 0 (0x60200 + 8 * k)) v (~~~0) ∧
      ∃ u : State, exec (.registerWrite .mgmt (dieOff 0 (0x60200 + 8 * k)) v) s = .next u ∧ u.sec.qnonce.extractLsb' (64 * k) 64 = v) ∧
    (∀ o, 0x60000 ≤ o → o < 0x64000 → (∀ k, k < 4 → o ≠ 0x60200 + 8 * k) → o ≠ 0x60220 → o ≠ 0x60350 →
      exec (.registerWrite .mgmt (dieOff 0 o) v) s = .next s) ∧
    (∀ a o, (∀ d, a ≠ .flint d) → (0x64000 ≤ o ∧ o < 0x70000) ∨ o = 0x60400 ∨ o = 0x60408 →
      exec (.registerWrite a (dieOff 0 o) v) s = .next s) ∧
    (∀ d off, (s.posted.find? fun y => y.1 == d) ≠ some (d, off, v) → exec (.registerWrite (.flint d) off v) s = .next s) ∧
    (∀ d off i, (s.posted.findIdx? fun y => y.1 == d) = some i → s.posted[i]? = some (d, off, v) →
      let t : State := { s with posted := s.posted.eraseIdx i }
      let only0 (o : Nat) : Prop := (0x64000 ≤ o ∧ o < 0x70000) ∨ o = 0x60400 ∨ o = 0x60408
      ((∀ o, only0 o → off ≠ dieOff 0 o) → exec (.registerWrite (.flint d) off v) s = exec (.registerWrite .pf off v) t) ∧
      (∀ o, only0 o → off = dieOff 0 o → d ≠ 0 → exec (.registerWrite (.flint d) off v) s = .next t) ∧
      (∀ k, 1 ≤ k → k < 4 → d = 0 → off = dieOff 0 (0x64000 + 0x4000 * (k - 1) + 0x2000) →
        exec (.registerWrite (.flint d) off v) s = exec (.flintStart k (v.extractLsb' 0 12)) t) ∧
      (d = 0 → off = dieOff 0 0x60400 → ∃ u : State, exec (.registerWrite (.flint d) off v) s = .next u ∧
        u.sec.boot = v &&& 0xC000FFFF0000FFFF ∧ u.core = s.core ∧ u.mem = s.mem)) ∧
    (∃ u : State, exec (.registerWrite .pf (dieOff 0 0x70108) v) s = .next u ∧
      u.pwrlim.toNat = Min.min 3600 (Max.max 1200 ((v.extractLsb' 0 12).toNat))) ∧
    (∀ c k, c < 128 → k < 6 → Reads s (dieOff (c / 32) (0x40000 + 0x40 * (c % 32) + 0x10 + 8 * k)) v (~~~0)) ∧
    (∀ c, c < 128 → (s.train (.gddr c)).go = false → v.getLsbD 63 = true → ∃ u : State,
      exec (.registerWrite .pf (dieOff (c / 32) (0x40000 + 0x40 * (c % 32))) v) s = .next u ∧ (u.train (.gddr c)).go = true ∧
      (u.train (.gddr c)).op = v.extractLsb' 0 8 ∧ (u.train (.gddr c)).arg = v.extractLsb' 8 8 ∧ (u.train (.gddr c)).done = false)

namespace Sys2Proof.Claims

open Sys2Proof.Machine

/-! ### Encodings, reset and the invariant -/

/-- What every step keeps: memory stands in its canonical form, every core is held once, the core in focus in no list, a global
line has at most one holder (R17), a panel at most one occupant (R329). -/
structure Inv (s : State) : Prop where
  memory   : s.mem.wf = true
  cores    : (s.others.map Prod.fst).Pairwise (· < ·)
  focus    : s.focus ∉ s.others.map Prod.fst
  holder   : SingleHolder s
  occupant : OneOccupant s

end Sys2Proof.Claims

/-- R145, R148: words that the spec writes out decode to the instructions that it writes them for. -/
def Obligations.DecodesSpecWords : Prop :=
  ∀ r ∈ ([(0xFFFA5285, .addi 5 5 0x7FFD), (0x0006628D, .slli 5 6 3), (0x003E8293, .li 5 1000), (0x0184A397, .ld 7 10 2 24),
      (0x0086A39B, .st 7 10 3 8), (0xFFF402A7, .bne 5 0 0x7FFA), (0x000287B1, .jal 15 40), (0x02731347, .mma 6 1 3 7 1),
      (0x21AC5049, .accadd 5 12 13 .fp32), (0x280E629F, .amoadd 5 6 7 .die .acq false), (0x18C002BF, .ctrget 12 5),
      (0x00063843, .repb 16 3 3), (0xF8A2, .cAddi 5 62), (0x0CCE, .cLdd 6 3), (0x1620, .cMov 17 5), (0xFF96, .cJ 0x7FC),
      (0x0018, .cNop), (0x0038, .cEnd), (0x008E62A1, .scswp 5 6 7), (0x020E6337, .csetbnd 6 6 7)] : List (Nat × Instr)),
    decodeWord r.1 = .ok r.2

/-- R144 to R148, R163 to R170: every well-formed instruction that has an encoding is read back from its word, from the bytes that
the module stores for it, and from the opcode table's numbering of its bits; no operand at any value is lost. -/
def Obligations.DecodeOfEncode : Prop :=
  ∀ (i : Instr) (n w : Nat), wellFormed i = true → encode i = some (n, w) →
    (n = 16 ∨ n = 32) ∧ w < 2 ^ n ∧ decodeWord w = .ok i ∧ decodeTableWord n w = some i ∧
      ∀ rest, decode (bytesOfWord (n / 8) w ++ rest) = .ok (i, rest)

/-- R10, R42, R117, R132, R307, R328, R343, R347, R355 to R357: the module right after reset. Die 0's flint runs the mask ROM and the other
flints are held; every core is idle with zero counters, empty handlers, preset decode tables and the prices of R117; only AON is
enabled; the registers that the spec gives a reset value hold it. The values that log entry 2 names are the model's. -/
def Obligations.ResetState : Prop :=
  let s := State.reset
  s.flints[0] = .rom ∧ s.flints[1] = .held ∧ s.flints[2] = .held ∧ s.flints[3] = .held ∧
    (∀ n, n < 1048576 → let c := s.getCore n
      c.task = none ∧ c.csr.km = false ∧ c.csr.nest = false ∧ c.csr.price0 = 0x0040000800040001 ∧ c.csr.price1 = 0x00100001 ∧
      c.csr.sbudget = 0x1000000 ∧ c.handlers = Vector.replicate 64 0 ∧ (∀ k, c.counter k = Counter.zero) ∧ c.binds = [] ∧ c.rep = none ∧
      c.weight = 1 ∧ c.lt.on = false ∧ c.inbox = Vector.replicate 32 none ∧ c.stores = [] ∧
      c.tblA = presetA ∧ c.tblB = presetB) ∧
    (∀ p, s.part p = Part.zero) ∧ (∀ q, s.window q = QWindow.zero) ∧ (∀ d : Fin 4, s.dies[d] = Die.zero) ∧
    s.rails[0] = ⟨false, false, 0, true⟩ ∧ (∀ n : Fin 9, n ≠ 0 → s.rails[n] = ⟨false, false, 0, false⟩) ∧
    s.clkCur = 3 ∧ s.clkReq = 3 ∧ s.clkBusy = false ∧ s.pwrlim = 3600 ∧ s.throt = 0 ∧ s.sec.meas = Vector.replicate 8 0 ∧
    s.sec.lock = 0 ∧ s.sec.fuselock = false ∧ s.sec.boot = 0 ∧ s.lines = [] ∧ s.launches = []

/-- R17, R194, R329: every step of the module keeps the invariant, whatever instruction or event it runs. The reading of log
entry 99 is the model's. -/
def Obligations.StepKeepsInv : Prop := ∀ s t : State, Inv s → step s = .next t → Inv t

/-- The invariant holds of the module right after reset. The reading of log entry 99 is the model's. -/
def Obligations.ResetHoldsInv : Prop := Inv State.reset
end

