-- ==== Sys2Proof/Laws/State.lean ====
section
/-! SUPPORT. What each update of the module's and of a core's state writes and what it leaves: one equation per field, so that
no proof unfolds an update; and reading a core, a partition or a die that has been written. -/

namespace Sys2Proof.Machine

/-! ### A die -/

@[simp] theorem State.modDie_agenda (s : State) (d : Nat) (f : Die → Die) : (s.modDie d f).agenda = s.agenda := rfl
@[simp] theorem State.modDie_waiting (s : State) (d : Nat) (f : Die → Die) : (s.modDie d f).waiting = s.waiting := rfl
@[simp] theorem State.modDie_tick (s : State) (d : Nat) (f : Die → Die) : (s.modDie d f).tick = s.tick := rfl
@[simp] theorem State.modDie_clock (s : State) (d : Nat) (f : Die → Die) : (s.modDie d f).clock = s.clock := rfl
@[simp] theorem State.modDie_ref24 (s : State) (d : Nat) (f : Die → Die) : (s.modDie d f).ref24 = s.ref24 := rfl
@[simp] theorem State.modDie_epoch (s : State) (d : Nat) (f : Die → Die) : (s.modDie d f).epoch = s.epoch := rfl
@[simp] theorem State.modDie_focus (s : State) (d : Nat) (f : Die → Die) : (s.modDie d f).focus = s.focus := rfl
@[simp] theorem State.modDie_core (s : State) (d : Nat) (f : Die → Die) : (s.modDie d f).core = s.core := rfl
@[simp] theorem State.modDie_others (s : State) (d : Nat) (f : Die → Die) : (s.modDie d f).others = s.others := rfl
@[simp] theorem State.modDie_mem (s : State) (d : Nat) (f : Die → Die) : (s.modDie d f).mem = s.mem := rfl
@[simp] theorem State.modDie_flight (s : State) (d : Nat) (f : Die → Die) : (s.modDie d f).flight = s.flight := rfl
@[simp] theorem State.modDie_lines (s : State) (d : Nat) (f : Die → Die) : (s.modDie d f).lines = s.lines := rfl
@[simp] theorem State.modDie_decs (s : State) (d : Nat) (f : Die → Die) : (s.modDie d f).decs = s.decs := rfl
@[simp] theorem State.modDie_flips (s : State) (d : Nat) (f : Die → Die) : (s.modDie d f).flips = s.flips := rfl
@[simp] theorem State.modDie_jobs (s : State) (d : Nat) (f : Die → Die) : (s.modDie d f).jobs = s.jobs := rfl
@[simp] theorem State.modDie_unpicks (s : State) (d : Nat) (f : Die → Die) : (s.modDie d f).unpicks = s.unpicks := rfl
@[simp] theorem State.modDie_nextId (s : State) (d : Nat) (f : Die → Die) : (s.modDie d f).nextId = s.nextId := rfl
@[simp] theorem State.modDie_reports (s : State) (d : Nat) (f : Die → Die) : (s.modDie d f).reports = s.reports := rfl
@[simp] theorem State.modDie_tableWrites (s : State) (d : Nat) (f : Die → Die) : (s.modDie d f).tableWrites = s.tableWrites := rfl
@[simp] theorem State.modDie_hemWait (s : State) (d : Nat) (f : Die → Die) : (s.modDie d f).hemWait = s.hemWait := rfl
@[simp] theorem State.modDie_queues (s : State) (d : Nat) (f : Die → Die) : (s.modDie d f).queues = s.queues := rfl
@[simp] theorem State.modDie_taken (s : State) (d : Nat) (f : Die → Die) : (s.modDie d f).taken = s.taken := rfl
@[simp] theorem State.modDie_pending (s : State) (d : Nat) (f : Die → Die) : (s.modDie d f).pending = s.pending := rfl
@[simp] theorem State.modDie_launches (s : State) (d : Nat) (f : Die → Die) : (s.modDie d f).launches = s.launches := rfl
@[simp] theorem State.modDie_parts (s : State) (d : Nat) (f : Die → Die) : (s.modDie d f).parts = s.parts := rfl
@[simp] theorem State.modDie_ptcs (s : State) (d : Nat) (f : Die → Die) : (s.modDie d f).ptcs = s.ptcs := rfl
@[simp] theorem State.modDie_patterns (s : State) (d : Nat) (f : Die → Die) : (s.modDie d f).patterns = s.patterns := rfl
@[simp] theorem State.modDie_posted (s : State) (d : Nat) (f : Die → Die) : (s.modDie d f).posted = s.posted := rfl
@[simp] theorem State.modDie_seams (s : State) (d : Nat) (f : Die → Die) : (s.modDie d f).seams = s.seams := rfl
@[simp] theorem State.modDie_strFit (s : State) (d : Nat) (f : Die → Die) : (s.modDie d f).strFit = s.strFit := rfl
@[simp] theorem State.modDie_modnum (s : State) (d : Nat) (f : Die → Die) : (s.modDie d f).modnum = s.modnum := rfl
@[simp] theorem State.modDie_reach (s : State) (d : Nat) (f : Die → Die) : (s.modDie d f).reach = s.reach := rfl
@[simp] theorem State.modDie_hostIn (s : State) (d : Nat) (f : Die → Die) : (s.modDie d f).hostIn = s.hostIn := rfl
@[simp] theorem State.modDie_sentOut (s : State) (d : Nat) (f : Die → Die) : (s.modDie d f).sentOut = s.sentOut := rfl
@[simp] theorem State.modDie_flints (s : State) (d : Nat) (f : Die → Die) : (s.modDie d f).flints = s.flints := rfl
@[simp] theorem State.modDie_flash (s : State) (d : Nat) (f : Die → Die) : (s.modDie d f).flash = s.flash := rfl
@[simp] theorem State.modDie_fuses (s : State) (d : Nat) (f : Die → Die) : (s.modDie d f).fuses = s.fuses := rfl
@[simp] theorem State.modDie_sec (s : State) (d : Nat) (f : Die → Die) : (s.modDie d f).sec = s.sec := rfl
@[simp] theorem State.modDie_rails (s : State) (d : Nat) (f : Die → Die) : (s.modDie d f).rails = s.rails := rfl
@[simp] theorem State.modDie_clkCur (s : State) (d : Nat) (f : Die → Die) : (s.modDie d f).clkCur = s.clkCur := rfl
@[simp] theorem State.modDie_clkReq (s : State) (d : Nat) (f : Die → Die) : (s.modDie d f).clkReq = s.clkReq := rfl
@[simp] theorem State.modDie_clkTo (s : State) (d : Nat) (f : Die → Die) : (s.modDie d f).clkTo = s.clkTo := rfl
@[simp] theorem State.modDie_clkBusy (s : State) (d : Nat) (f : Die → Die) : (s.modDie d f).clkBusy = s.clkBusy := rfl
@[simp] theorem State.modDie_pwrlim (s : State) (d : Nat) (f : Die → Die) : (s.modDie d f).pwrlim = s.pwrlim := rfl
@[simp] theorem State.modDie_pwrnow (s : State) (d : Nat) (f : Die → Die) : (s.modDie d f).pwrnow = s.pwrnow := rfl
@[simp] theorem State.modDie_throt (s : State) (d : Nat) (f : Die → Die) : (s.modDie d f).throt = s.throt := rfl
@[simp] theorem State.modDie_rate (s : State) (d : Nat) (f : Die → Die) : (s.modDie d f).rate = s.rate := rfl
@[simp] theorem State.modDie_temps (s : State) (d : Nat) (f : Die → Die) : (s.modDie d f).temps = s.temps := rfl
@[simp] theorem State.modDie_trains (s : State) (d : Nat) (f : Die → Die) : (s.modDie d f).trains = s.trains := rfl
@[simp] theorem State.modDie_porten (s : State) (d : Nat) (f : Die → Die) : (s.modDie d f).porten = s.porten := rfl
@[simp] theorem State.modDie_flitFails (s : State) (d : Nat) (f : Die → Die) : (s.modDie d f).flitFails = s.flitFails := rfl
@[simp] theorem State.modDie_brixDown (s : State) (d : Nat) (f : Die → Die) : (s.modDie d f).brixDown = s.brixDown := rfl
@[simp] theorem State.modDie_dark (s : State) (d : Nat) (f : Die → Die) : (s.modDie d f).dark = s.dark := rfl

/-! ### A partition -/

@[simp] theorem State.modPart_agenda (s : State) (p : Nat) (f : Part → Part) : (s.modPart p f).agenda = s.agenda := rfl
@[simp] theorem State.modPart_waiting (s : State) (p : Nat) (f : Part → Part) : (s.modPart p f).waiting = s.waiting := rfl
@[simp] theorem State.modPart_tick (s : State) (p : Nat) (f : Part → Part) : (s.modPart p f).tick = s.tick := rfl
@[simp] theorem State.modPart_clock (s : State) (p : Nat) (f : Part → Part) : (s.modPart p f).clock = s.clock := rfl
@[simp] theorem State.modPart_ref24 (s : State) (p : Nat) (f : Part → Part) : (s.modPart p f).ref24 = s.ref24 := rfl
@[simp] theorem State.modPart_epoch (s : State) (p : Nat) (f : Part → Part) : (s.modPart p f).epoch = s.epoch := rfl
@[simp] theorem State.modPart_focus (s : State) (p : Nat) (f : Part → Part) : (s.modPart p f).focus = s.focus := rfl
@[simp] theorem State.modPart_core (s : State) (p : Nat) (f : Part → Part) : (s.modPart p f).core = s.core := rfl
@[simp] theorem State.modPart_others (s : State) (p : Nat) (f : Part → Part) : (s.modPart p f).others = s.others := rfl
@[simp] theorem State.modPart_mem (s : State) (p : Nat) (f : Part → Part) : (s.modPart p f).mem = s.mem := rfl
@[simp] theorem State.modPart_flight (s : State) (p : Nat) (f : Part → Part) : (s.modPart p f).flight = s.flight := rfl
@[simp] theorem State.modPart_lines (s : State) (p : Nat) (f : Part → Part) : (s.modPart p f).lines = s.lines := rfl
@[simp] theorem State.modPart_decs (s : State) (p : Nat) (f : Part → Part) : (s.modPart p f).decs = s.decs := rfl
@[simp] theorem State.modPart_flips (s : State) (p : Nat) (f : Part → Part) : (s.modPart p f).flips = s.flips := rfl
@[simp] theorem State.modPart_jobs (s : State) (p : Nat) (f : Part → Part) : (s.modPart p f).jobs = s.jobs := rfl
@[simp] theorem State.modPart_unpicks (s : State) (p : Nat) (f : Part → Part) : (s.modPart p f).unpicks = s.unpicks := rfl
@[simp] theorem State.modPart_nextId (s : State) (p : Nat) (f : Part → Part) : (s.modPart p f).nextId = s.nextId := rfl
@[simp] theorem State.modPart_reports (s : State) (p : Nat) (f : Part → Part) : (s.modPart p f).reports = s.reports := rfl
@[simp] theorem State.modPart_tableWrites (s : State) (p : Nat) (f : Part → Part) : (s.modPart p f).tableWrites = s.tableWrites := rfl
@[simp] theorem State.modPart_hemWait (s : State) (p : Nat) (f : Part → Part) : (s.modPart p f).hemWait = s.hemWait := rfl
@[simp] theorem State.modPart_queues (s : State) (p : Nat) (f : Part → Part) : (s.modPart p f).queues = s.queues := rfl
@[simp] theorem State.modPart_taken (s : State) (p : Nat) (f : Part → Part) : (s.modPart p f).taken = s.taken := rfl
@[simp] theorem State.modPart_pending (s : State) (p : Nat) (f : Part → Part) : (s.modPart p f).pending = s.pending := rfl
@[simp] theorem State.modPart_launches (s : State) (p : Nat) (f : Part → Part) : (s.modPart p f).launches = s.launches := rfl
@[simp] theorem State.modPart_dies (s : State) (p : Nat) (f : Part → Part) : (s.modPart p f).dies = s.dies := rfl
@[simp] theorem State.modPart_ptcs (s : State) (p : Nat) (f : Part → Part) : (s.modPart p f).ptcs = s.ptcs := rfl
@[simp] theorem State.modPart_patterns (s : State) (p : Nat) (f : Part → Part) : (s.modPart p f).patterns = s.patterns := rfl
@[simp] theorem State.modPart_posted (s : State) (p : Nat) (f : Part → Part) : (s.modPart p f).posted = s.posted := rfl
@[simp] theorem State.modPart_seams (s : State) (p : Nat) (f : Part → Part) : (s.modPart p f).seams = s.seams := rfl
@[simp] theorem State.modPart_strFit (s : State) (p : Nat) (f : Part → Part) : (s.modPart p f).strFit = s.strFit := rfl
@[simp] theorem State.modPart_modnum (s : State) (p : Nat) (f : Part → Part) : (s.modPart p f).modnum = s.modnum := rfl
@[simp] theorem State.modPart_reach (s : State) (p : Nat) (f : Part → Part) : (s.modPart p f).reach = s.reach := rfl
@[simp] theorem State.modPart_hostIn (s : State) (p : Nat) (f : Part → Part) : (s.modPart p f).hostIn = s.hostIn := rfl
@[simp] theorem State.modPart_sentOut (s : State) (p : Nat) (f : Part → Part) : (s.modPart p f).sentOut = s.sentOut := rfl
@[simp] theorem State.modPart_flints (s : State) (p : Nat) (f : Part → Part) : (s.modPart p f).flints = s.flints := rfl
@[simp] theorem State.modPart_flash (s : State) (p : Nat) (f : Part → Part) : (s.modPart p f).flash = s.flash := rfl
@[simp] theorem State.modPart_fuses (s : State) (p : Nat) (f : Part → Part) : (s.modPart p f).fuses = s.fuses := rfl
@[simp] theorem State.modPart_sec (s : State) (p : Nat) (f : Part → Part) : (s.modPart p f).sec = s.sec := rfl
@[simp] theorem State.modPart_rails (s : State) (p : Nat) (f : Part → Part) : (s.modPart p f).rails = s.rails := rfl
@[simp] theorem State.modPart_clkCur (s : State) (p : Nat) (f : Part → Part) : (s.modPart p f).clkCur = s.clkCur := rfl
@[simp] theorem State.modPart_clkReq (s : State) (p : Nat) (f : Part → Part) : (s.modPart p f).clkReq = s.clkReq := rfl
@[simp] theorem State.modPart_clkTo (s : State) (p : Nat) (f : Part → Part) : (s.modPart p f).clkTo = s.clkTo := rfl
@[simp] theorem State.modPart_clkBusy (s : State) (p : Nat) (f : Part → Part) : (s.modPart p f).clkBusy = s.clkBusy := rfl
@[simp] theorem State.modPart_pwrlim (s : State) (p : Nat) (f : Part → Part) : (s.modPart p f).pwrlim = s.pwrlim := rfl
@[simp] theorem State.modPart_pwrnow (s : State) (p : Nat) (f : Part → Part) : (s.modPart p f).pwrnow = s.pwrnow := rfl
@[simp] theorem State.modPart_throt (s : State) (p : Nat) (f : Part → Part) : (s.modPart p f).throt = s.throt := rfl
@[simp] theorem State.modPart_rate (s : State) (p : Nat) (f : Part → Part) : (s.modPart p f).rate = s.rate := rfl
@[simp] theorem State.modPart_temps (s : State) (p : Nat) (f : Part → Part) : (s.modPart p f).temps = s.temps := rfl
@[simp] theorem State.modPart_trains (s : State) (p : Nat) (f : Part → Part) : (s.modPart p f).trains = s.trains := rfl
@[simp] theorem State.modPart_porten (s : State) (p : Nat) (f : Part → Part) : (s.modPart p f).porten = s.porten := rfl
@[simp] theorem State.modPart_flitFails (s : State) (p : Nat) (f : Part → Part) : (s.modPart p f).flitFails = s.flitFails := rfl
@[simp] theorem State.modPart_brixDown (s : State) (p : Nat) (f : Part → Part) : (s.modPart p f).brixDown = s.brixDown := rfl
@[simp] theorem State.modPart_dark (s : State) (p : Nat) (f : Part → Part) : (s.modPart p f).dark = s.dark := rfl

/-! ### A queue -/

@[simp] theorem State.modWindow_agenda (s : State) (q : Nat) (f : QWindow → QWindow) : (s.modWindow q f).agenda = s.agenda := rfl
@[simp] theorem State.modWindow_waiting (s : State) (q : Nat) (f : QWindow → QWindow) : (s.modWindow q f).waiting = s.waiting := rfl
@[simp] theorem State.modWindow_tick (s : State) (q : Nat) (f : QWindow → QWindow) : (s.modWindow q f).tick = s.tick := rfl
@[simp] theorem State.modWindow_clock (s : State) (q : Nat) (f : QWindow → QWindow) : (s.modWindow q f).clock = s.clock := rfl
@[simp] theorem State.modWindow_ref24 (s : State) (q : Nat) (f : QWindow → QWindow) : (s.modWindow q f).ref24 = s.ref24 := rfl
@[simp] theorem State.modWindow_epoch (s : State) (q : Nat) (f : QWindow → QWindow) : (s.modWindow q f).epoch = s.epoch := rfl
@[simp] theorem State.modWindow_focus (s : State) (q : Nat) (f : QWindow → QWindow) : (s.modWindow q f).focus = s.focus := rfl
@[simp] theorem State.modWindow_core (s : State) (q : Nat) (f : QWindow → QWindow) : (s.modWindow q f).core = s.core := rfl
@[simp] theorem State.modWindow_others (s : State) (q : Nat) (f : QWindow → QWindow) : (s.modWindow q f).others = s.others := rfl
@[simp] theorem State.modWindow_mem (s : State) (q : Nat) (f : QWindow → QWindow) : (s.modWindow q f).mem = s.mem := rfl
@[simp] theorem State.modWindow_flight (s : State) (q : Nat) (f : QWindow → QWindow) : (s.modWindow q f).flight = s.flight := rfl
@[simp] theorem State.modWindow_lines (s : State) (q : Nat) (f : QWindow → QWindow) : (s.modWindow q f).lines = s.lines := rfl
@[simp] theorem State.modWindow_decs (s : State) (q : Nat) (f : QWindow → QWindow) : (s.modWindow q f).decs = s.decs := rfl
@[simp] theorem State.modWindow_flips (s : State) (q : Nat) (f : QWindow → QWindow) : (s.modWindow q f).flips = s.flips := rfl
@[simp] theorem State.modWindow_jobs (s : State) (q : Nat) (f : QWindow → QWindow) : (s.modWindow q f).jobs = s.jobs := rfl
@[simp] theorem State.modWindow_unpicks (s : State) (q : Nat) (f : QWindow → QWindow) : (s.modWindow q f).unpicks = s.unpicks := rfl
@[simp] theorem State.modWindow_nextId (s : State) (q : Nat) (f : QWindow → QWindow) : (s.modWindow q f).nextId = s.nextId := rfl
@[simp] theorem State.modWindow_reports (s : State) (q : Nat) (f : QWindow → QWindow) : (s.modWindow q f).reports = s.reports := rfl
@[simp] theorem State.modWindow_tableWrites (s : State) (q : Nat) (f : QWindow → QWindow) : (s.modWindow q f).tableWrites = s.tableWrites := rfl
@[simp] theorem State.modWindow_hemWait (s : State) (q : Nat) (f : QWindow → QWindow) : (s.modWindow q f).hemWait = s.hemWait := rfl
@[simp] theorem State.modWindow_taken (s : State) (q : Nat) (f : QWindow → QWindow) : (s.modWindow q f).taken = s.taken := rfl
@[simp] theorem State.modWindow_pending (s : State) (q : Nat) (f : QWindow → QWindow) : (s.modWindow q f).pending = s.pending := rfl
@[simp] theorem State.modWindow_launches (s : State) (q : Nat) (f : QWindow → QWindow) : (s.modWindow q f).launches = s.launches := rfl
@[simp] theorem State.modWindow_parts (s : State) (q : Nat) (f : QWindow → QWindow) : (s.modWindow q f).parts = s.parts := rfl
@[simp] theorem State.modWindow_dies (s : State) (q : Nat) (f : QWindow → QWindow) : (s.modWindow q f).dies = s.dies := rfl
@[simp] theorem State.modWindow_ptcs (s : State) (q : Nat) (f : QWindow → QWindow) : (s.modWindow q f).ptcs = s.ptcs := rfl
@[simp] theorem State.modWindow_patterns (s : State) (q : Nat) (f : QWindow → QWindow) : (s.modWindow q f).patterns = s.patterns := rfl
@[simp] theorem State.modWindow_posted (s : State) (q : Nat) (f : QWindow → QWindow) : (s.modWindow q f).posted = s.posted := rfl
@[simp] theorem State.modWindow_seams (s : State) (q : Nat) (f : QWindow → QWindow) : (s.modWindow q f).seams = s.seams := rfl
@[simp] theorem State.modWindow_strFit (s : State) (q : Nat) (f : QWindow → QWindow) : (s.modWindow q f).strFit = s.strFit := rfl
@[simp] theorem State.modWindow_modnum (s : State) (q : Nat) (f : QWindow → QWindow) : (s.modWindow q f).modnum = s.modnum := rfl
@[simp] theorem State.modWindow_reach (s : State) (q : Nat) (f : QWindow → QWindow) : (s.modWindow q f).reach = s.reach := rfl
@[simp] theorem State.modWindow_hostIn (s : State) (q : Nat) (f : QWindow → QWindow) : (s.modWindow q f).hostIn = s.hostIn := rfl
@[simp] theorem State.modWindow_sentOut (s : State) (q : Nat) (f : QWindow → QWindow) : (s.modWindow q f).sentOut = s.sentOut := rfl
@[simp] theorem State.modWindow_flints (s : State) (q : Nat) (f : QWindow → QWindow) : (s.modWindow q f).flints = s.flints := rfl
@[simp] theorem State.modWindow_flash (s : State) (q : Nat) (f : QWindow → QWindow) : (s.modWindow q f).flash = s.flash := rfl
@[simp] theorem State.modWindow_fuses (s : State) (q : Nat) (f : QWindow → QWindow) : (s.modWindow q f).fuses = s.fuses := rfl
@[simp] theorem State.modWindow_sec (s : State) (q : Nat) (f : QWindow → QWindow) : (s.modWindow q f).sec = s.sec := rfl
@[simp] theorem State.modWindow_rails (s : State) (q : Nat) (f : QWindow → QWindow) : (s.modWindow q f).rails = s.rails := rfl
@[simp] theorem State.modWindow_clkCur (s : State) (q : Nat) (f : QWindow → QWindow) : (s.modWindow q f).clkCur = s.clkCur := rfl
@[simp] theorem State.modWindow_clkReq (s : State) (q : Nat) (f : QWindow → QWindow) : (s.modWindow q f).clkReq = s.clkReq := rfl
@[simp] theorem State.modWindow_clkTo (s : State) (q : Nat) (f : QWindow → QWindow) : (s.modWindow q f).clkTo = s.clkTo := rfl
@[simp] theorem State.modWindow_clkBusy (s : State) (q : Nat) (f : QWindow → QWindow) : (s.modWindow q f).clkBusy = s.clkBusy := rfl
@[simp] theorem State.modWindow_pwrlim (s : State) (q : Nat) (f : QWindow → QWindow) : (s.modWindow q f).pwrlim = s.pwrlim := rfl
@[simp] theorem State.modWindow_pwrnow (s : State) (q : Nat) (f : QWindow → QWindow) : (s.modWindow q f).pwrnow = s.pwrnow := rfl
@[simp] theorem State.modWindow_throt (s : State) (q : Nat) (f : QWindow → QWindow) : (s.modWindow q f).throt = s.throt := rfl
@[simp] theorem State.modWindow_rate (s : State) (q : Nat) (f : QWindow → QWindow) : (s.modWindow q f).rate = s.rate := rfl
@[simp] theorem State.modWindow_temps (s : State) (q : Nat) (f : QWindow → QWindow) : (s.modWindow q f).temps = s.temps := rfl
@[simp] theorem State.modWindow_trains (s : State) (q : Nat) (f : QWindow → QWindow) : (s.modWindow q f).trains = s.trains := rfl
@[simp] theorem State.modWindow_porten (s : State) (q : Nat) (f : QWindow → QWindow) : (s.modWindow q f).porten = s.porten := rfl
@[simp] theorem State.modWindow_flitFails (s : State) (q : Nat) (f : QWindow → QWindow) : (s.modWindow q f).flitFails = s.flitFails := rfl
@[simp] theorem State.modWindow_brixDown (s : State) (q : Nat) (f : QWindow → QWindow) : (s.modWindow q f).brixDown = s.brixDown := rfl
@[simp] theorem State.modWindow_dark (s : State) (q : Nat) (f : QWindow → QWindow) : (s.modWindow q f).dark = s.dark := rfl

/-! ### A launch -/

@[simp] theorem State.modLaunch_agenda (s : State) (p : Nat) (t : BitVec 16) (f : Launch → Launch) : (s.modLaunch p t f).agenda = s.agenda := rfl
@[simp] theorem State.modLaunch_waiting (s : State) (p : Nat) (t : BitVec 16) (f : Launch → Launch) : (s.modLaunch p t f).waiting = s.waiting := rfl
@[simp] theorem State.modLaunch_tick (s : State) (p : Nat) (t : BitVec 16) (f : Launch → Launch) : (s.modLaunch p t f).tick = s.tick := rfl
@[simp] theorem State.modLaunch_clock (s : State) (p : Nat) (t : BitVec 16) (f : Launch → Launch) : (s.modLaunch p t f).clock = s.clock := rfl
@[simp] theorem State.modLaunch_ref24 (s : State) (p : Nat) (t : BitVec 16) (f : Launch → Launch) : (s.modLaunch p t f).ref24 = s.ref24 := rfl
@[simp] theorem State.modLaunch_epoch (s : State) (p : Nat) (t : BitVec 16) (f : Launch → Launch) : (s.modLaunch p t f).epoch = s.epoch := rfl
@[simp] theorem State.modLaunch_focus (s : State) (p : Nat) (t : BitVec 16) (f : Launch → Launch) : (s.modLaunch p t f).focus = s.focus := rfl
@[simp] theorem State.modLaunch_core (s : State) (p : Nat) (t : BitVec 16) (f : Launch → Launch) : (s.modLaunch p t f).core = s.core := rfl
@[simp] theorem State.modLaunch_others (s : State) (p : Nat) (t : BitVec 16) (f : Launch → Launch) : (s.modLaunch p t f).others = s.others := rfl
@[simp] theorem State.modLaunch_mem (s : State) (p : Nat) (t : BitVec 16) (f : Launch → Launch) : (s.modLaunch p t f).mem = s.mem := rfl
@[simp] theorem State.modLaunch_flight (s : State) (p : Nat) (t : BitVec 16) (f : Launch → Launch) : (s.modLaunch p t f).flight = s.flight := rfl
@[simp] theorem State.modLaunch_lines (s : State) (p : Nat) (t : BitVec 16) (f : Launch → Launch) : (s.modLaunch p t f).lines = s.lines := rfl
@[simp] theorem State.modLaunch_decs (s : State) (p : Nat) (t : BitVec 16) (f : Launch → Launch) : (s.modLaunch p t f).decs = s.decs := rfl
@[simp] theorem State.modLaunch_flips (s : State) (p : Nat) (t : BitVec 16) (f : Launch → Launch) : (s.modLaunch p t f).flips = s.flips := rfl
@[simp] theorem State.modLaunch_jobs (s : State) (p : Nat) (t : BitVec 16) (f : Launch → Launch) : (s.modLaunch p t f).jobs = s.jobs := rfl
@[simp] theorem State.modLaunch_unpicks (s : State) (p : Nat) (t : BitVec 16) (f : Launch → Launch) : (s.modLaunch p t f).unpicks = s.unpicks := rfl
@[simp] theorem State.modLaunch_nextId (s : State) (p : Nat) (t : BitVec 16) (f : Launch → Launch) : (s.modLaunch p t f).nextId = s.nextId := rfl
@[simp] theorem State.modLaunch_reports (s : State) (p : Nat) (t : BitVec 16) (f : Launch → Launch) : (s.modLaunch p t f).reports = s.reports := rfl
@[simp] theorem State.modLaunch_tableWrites (s : State) (p : Nat) (t : BitVec 16) (f : Launch → Launch) : (s.modLaunch p t f).tableWrites = s.tableWrites := rfl
@[simp] theorem State.modLaunch_hemWait (s : State) (p : Nat) (t : BitVec 16) (f : Launch → Launch) : (s.modLaunch p t f).hemWait = s.hemWait := rfl
@[simp] theorem State.modLaunch_queues (s : State) (p : Nat) (t : BitVec 16) (f : Launch → Launch) : (s.modLaunch p t f).queues = s.queues := rfl
@[simp] theorem State.modLaunch_taken (s : State) (p : Nat) (t : BitVec 16) (f : Launch → Launch) : (s.modLaunch p t f).taken = s.taken := rfl
@[simp] theorem State.modLaunch_pending (s : State) (p : Nat) (t : BitVec 16) (f : Launch → Launch) : (s.modLaunch p t f).pending = s.pending := rfl
@[simp] theorem State.modLaunch_parts (s : State) (p : Nat) (t : BitVec 16) (f : Launch → Launch) : (s.modLaunch p t f).parts = s.parts := rfl
@[simp] theorem State.modLaunch_dies (s : State) (p : Nat) (t : BitVec 16) (f : Launch → Launch) : (s.modLaunch p t f).dies = s.dies := rfl
@[simp] theorem State.modLaunch_ptcs (s : State) (p : Nat) (t : BitVec 16) (f : Launch → Launch) : (s.modLaunch p t f).ptcs = s.ptcs := rfl
@[simp] theorem State.modLaunch_patterns (s : State) (p : Nat) (t : BitVec 16) (f : Launch → Launch) : (s.modLaunch p t f).patterns = s.patterns := rfl
@[simp] theorem State.modLaunch_posted (s : State) (p : Nat) (t : BitVec 16) (f : Launch → Launch) : (s.modLaunch p t f).posted = s.posted := rfl
@[simp] theorem State.modLaunch_seams (s : State) (p : Nat) (t : BitVec 16) (f : Launch → Launch) : (s.modLaunch p t f).seams = s.seams := rfl
@[simp] theorem State.modLaunch_strFit (s : State) (p : Nat) (t : BitVec 16) (f : Launch → Launch) : (s.modLaunch p t f).strFit = s.strFit := rfl
@[simp] theorem State.modLaunch_modnum (s : State) (p : Nat) (t : BitVec 16) (f : Launch → Launch) : (s.modLaunch p t f).modnum = s.modnum := rfl
@[simp] theorem State.modLaunch_reach (s : State) (p : Nat) (t : BitVec 16) (f : Launch → Launch) : (s.modLaunch p t f).reach = s.reach := rfl
@[simp] theorem State.modLaunch_hostIn (s : State) (p : Nat) (t : BitVec 16) (f : Launch → Launch) : (s.modLaunch p t f).hostIn = s.hostIn := rfl
@[simp] theorem State.modLaunch_sentOut (s : State) (p : Nat) (t : BitVec 16) (f : Launch → Launch) : (s.modLaunch p t f).sentOut = s.sentOut := rfl
@[simp] theorem State.modLaunch_flints (s : State) (p : Nat) (t : BitVec 16) (f : Launch → Launch) : (s.modLaunch p t f).flints = s.flints := rfl
@[simp] theorem State.modLaunch_flash (s : State) (p : Nat) (t : BitVec 16) (f : Launch → Launch) : (s.modLaunch p t f).flash = s.flash := rfl
@[simp] theorem State.modLaunch_fuses (s : State) (p : Nat) (t : BitVec 16) (f : Launch → Launch) : (s.modLaunch p t f).fuses = s.fuses := rfl
@[simp] theorem State.modLaunch_sec (s : State) (p : Nat) (t : BitVec 16) (f : Launch → Launch) : (s.modLaunch p t f).sec = s.sec := rfl
@[simp] theorem State.modLaunch_rails (s : State) (p : Nat) (t : BitVec 16) (f : Launch → Launch) : (s.modLaunch p t f).rails = s.rails := rfl
@[simp] theorem State.modLaunch_clkCur (s : State) (p : Nat) (t : BitVec 16) (f : Launch → Launch) : (s.modLaunch p t f).clkCur = s.clkCur := rfl
@[simp] theorem State.modLaunch_clkReq (s : State) (p : Nat) (t : BitVec 16) (f : Launch → Launch) : (s.modLaunch p t f).clkReq = s.clkReq := rfl
@[simp] theorem State.modLaunch_clkTo (s : State) (p : Nat) (t : BitVec 16) (f : Launch → Launch) : (s.modLaunch p t f).clkTo = s.clkTo := rfl
@[simp] theorem State.modLaunch_clkBusy (s : State) (p : Nat) (t : BitVec 16) (f : Launch → Launch) : (s.modLaunch p t f).clkBusy = s.clkBusy := rfl
@[simp] theorem State.modLaunch_pwrlim (s : State) (p : Nat) (t : BitVec 16) (f : Launch → Launch) : (s.modLaunch p t f).pwrlim = s.pwrlim := rfl
@[simp] theorem State.modLaunch_pwrnow (s : State) (p : Nat) (t : BitVec 16) (f : Launch → Launch) : (s.modLaunch p t f).pwrnow = s.pwrnow := rfl
@[simp] theorem State.modLaunch_throt (s : State) (p : Nat) (t : BitVec 16) (f : Launch → Launch) : (s.modLaunch p t f).throt = s.throt := rfl
@[simp] theorem State.modLaunch_rate (s : State) (p : Nat) (t : BitVec 16) (f : Launch → Launch) : (s.modLaunch p t f).rate = s.rate := rfl
@[simp] theorem State.modLaunch_temps (s : State) (p : Nat) (t : BitVec 16) (f : Launch → Launch) : (s.modLaunch p t f).temps = s.temps := rfl
@[simp] theorem State.modLaunch_trains (s : State) (p : Nat) (t : BitVec 16) (f : Launch → Launch) : (s.modLaunch p t f).trains = s.trains := rfl
@[simp] theorem State.modLaunch_porten (s : State) (p : Nat) (t : BitVec 16) (f : Launch → Launch) : (s.modLaunch p t f).porten = s.porten := rfl
@[simp] theorem State.modLaunch_flitFails (s : State) (p : Nat) (t : BitVec 16) (f : Launch → Launch) : (s.modLaunch p t f).flitFails = s.flitFails := rfl
@[simp] theorem State.modLaunch_brixDown (s : State) (p : Nat) (t : BitVec 16) (f : Launch → Launch) : (s.modLaunch p t f).brixDown = s.brixDown := rfl
@[simp] theorem State.modLaunch_dark (s : State) (p : Nat) (t : BitVec 16) (f : Launch → Launch) : (s.modLaunch p t f).dark = s.dark := rfl

/-! ### A rail -/

@[simp] theorem State.modRail_agenda (s : State) (n : Nat) (f : Rail → Rail) : (s.modRail n f).agenda = s.agenda := rfl
@[simp] theorem State.modRail_waiting (s : State) (n : Nat) (f : Rail → Rail) : (s.modRail n f).waiting = s.waiting := rfl
@[simp] theorem State.modRail_tick (s : State) (n : Nat) (f : Rail → Rail) : (s.modRail n f).tick = s.tick := rfl
@[simp] theorem State.modRail_clock (s : State) (n : Nat) (f : Rail → Rail) : (s.modRail n f).clock = s.clock := rfl
@[simp] theorem State.modRail_ref24 (s : State) (n : Nat) (f : Rail → Rail) : (s.modRail n f).ref24 = s.ref24 := rfl
@[simp] theorem State.modRail_epoch (s : State) (n : Nat) (f : Rail → Rail) : (s.modRail n f).epoch = s.epoch := rfl
@[simp] theorem State.modRail_focus (s : State) (n : Nat) (f : Rail → Rail) : (s.modRail n f).focus = s.focus := rfl
@[simp] theorem State.modRail_core (s : State) (n : Nat) (f : Rail → Rail) : (s.modRail n f).core = s.core := rfl
@[simp] theorem State.modRail_others (s : State) (n : Nat) (f : Rail → Rail) : (s.modRail n f).others = s.others := rfl
@[simp] theorem State.modRail_mem (s : State) (n : Nat) (f : Rail → Rail) : (s.modRail n f).mem = s.mem := rfl
@[simp] theorem State.modRail_flight (s : State) (n : Nat) (f : Rail → Rail) : (s.modRail n f).flight = s.flight := rfl
@[simp] theorem State.modRail_lines (s : State) (n : Nat) (f : Rail → Rail) : (s.modRail n f).lines = s.lines := rfl
@[simp] theorem State.modRail_decs (s : State) (n : Nat) (f : Rail → Rail) : (s.modRail n f).decs = s.decs := rfl
@[simp] theorem State.modRail_flips (s : State) (n : Nat) (f : Rail → Rail) : (s.modRail n f).flips = s.flips := rfl
@[simp] theorem State.modRail_jobs (s : State) (n : Nat) (f : Rail → Rail) : (s.modRail n f).jobs = s.jobs := rfl
@[simp] theorem State.modRail_unpicks (s : State) (n : Nat) (f : Rail → Rail) : (s.modRail n f).unpicks = s.unpicks := rfl
@[simp] theorem State.modRail_nextId (s : State) (n : Nat) (f : Rail → Rail) : (s.modRail n f).nextId = s.nextId := rfl
@[simp] theorem State.modRail_reports (s : State) (n : Nat) (f : Rail → Rail) : (s.modRail n f).reports = s.reports := rfl
@[simp] theorem State.modRail_tableWrites (s : State) (n : Nat) (f : Rail → Rail) : (s.modRail n f).tableWrites = s.tableWrites := rfl
@[simp] theorem State.modRail_hemWait (s : State) (n : Nat) (f : Rail → Rail) : (s.modRail n f).hemWait = s.hemWait := rfl
@[simp] theorem State.modRail_queues (s : State) (n : Nat) (f : Rail → Rail) : (s.modRail n f).queues = s.queues := rfl
@[simp] theorem State.modRail_taken (s : State) (n : Nat) (f : Rail → Rail) : (s.modRail n f).taken = s.taken := rfl
@[simp] theorem State.modRail_pending (s : State) (n : Nat) (f : Rail → Rail) : (s.modRail n f).pending = s.pending := rfl
@[simp] theorem State.modRail_launches (s : State) (n : Nat) (f : Rail → Rail) : (s.modRail n f).launches = s.launches := rfl
@[simp] theorem State.modRail_parts (s : State) (n : Nat) (f : Rail → Rail) : (s.modRail n f).parts = s.parts := rfl
@[simp] theorem State.modRail_dies (s : State) (n : Nat) (f : Rail → Rail) : (s.modRail n f).dies = s.dies := rfl
@[simp] theorem State.modRail_ptcs (s : State) (n : Nat) (f : Rail → Rail) : (s.modRail n f).ptcs = s.ptcs := rfl
@[simp] theorem State.modRail_patterns (s : State) (n : Nat) (f : Rail → Rail) : (s.modRail n f).patterns = s.patterns := rfl
@[simp] theorem State.modRail_posted (s : State) (n : Nat) (f : Rail → Rail) : (s.modRail n f).posted = s.posted := rfl
@[simp] theorem State.modRail_seams (s : State) (n : Nat) (f : Rail → Rail) : (s.modRail n f).seams = s.seams := rfl
@[simp] theorem State.modRail_strFit (s : State) (n : Nat) (f : Rail → Rail) : (s.modRail n f).strFit = s.strFit := rfl
@[simp] theorem State.modRail_modnum (s : State) (n : Nat) (f : Rail → Rail) : (s.modRail n f).modnum = s.modnum := rfl
@[simp] theorem State.modRail_reach (s : State) (n : Nat) (f : Rail → Rail) : (s.modRail n f).reach = s.reach := rfl
@[simp] theorem State.modRail_hostIn (s : State) (n : Nat) (f : Rail → Rail) : (s.modRail n f).hostIn = s.hostIn := rfl
@[simp] theorem State.modRail_sentOut (s : State) (n : Nat) (f : Rail → Rail) : (s.modRail n f).sentOut = s.sentOut := rfl
@[simp] theorem State.modRail_flints (s : State) (n : Nat) (f : Rail → Rail) : (s.modRail n f).flints = s.flints := rfl
@[simp] theorem State.modRail_flash (s : State) (n : Nat) (f : Rail → Rail) : (s.modRail n f).flash = s.flash := rfl
@[simp] theorem State.modRail_fuses (s : State) (n : Nat) (f : Rail → Rail) : (s.modRail n f).fuses = s.fuses := rfl
@[simp] theorem State.modRail_sec (s : State) (n : Nat) (f : Rail → Rail) : (s.modRail n f).sec = s.sec := rfl
@[simp] theorem State.modRail_clkCur (s : State) (n : Nat) (f : Rail → Rail) : (s.modRail n f).clkCur = s.clkCur := rfl
@[simp] theorem State.modRail_clkReq (s : State) (n : Nat) (f : Rail → Rail) : (s.modRail n f).clkReq = s.clkReq := rfl
@[simp] theorem State.modRail_clkTo (s : State) (n : Nat) (f : Rail → Rail) : (s.modRail n f).clkTo = s.clkTo := rfl
@[simp] theorem State.modRail_clkBusy (s : State) (n : Nat) (f : Rail → Rail) : (s.modRail n f).clkBusy = s.clkBusy := rfl
@[simp] theorem State.modRail_pwrlim (s : State) (n : Nat) (f : Rail → Rail) : (s.modRail n f).pwrlim = s.pwrlim := rfl
@[simp] theorem State.modRail_pwrnow (s : State) (n : Nat) (f : Rail → Rail) : (s.modRail n f).pwrnow = s.pwrnow := rfl
@[simp] theorem State.modRail_throt (s : State) (n : Nat) (f : Rail → Rail) : (s.modRail n f).throt = s.throt := rfl
@[simp] theorem State.modRail_rate (s : State) (n : Nat) (f : Rail → Rail) : (s.modRail n f).rate = s.rate := rfl
@[simp] theorem State.modRail_temps (s : State) (n : Nat) (f : Rail → Rail) : (s.modRail n f).temps = s.temps := rfl
@[simp] theorem State.modRail_trains (s : State) (n : Nat) (f : Rail → Rail) : (s.modRail n f).trains = s.trains := rfl
@[simp] theorem State.modRail_porten (s : State) (n : Nat) (f : Rail → Rail) : (s.modRail n f).porten = s.porten := rfl
@[simp] theorem State.modRail_flitFails (s : State) (n : Nat) (f : Rail → Rail) : (s.modRail n f).flitFails = s.flitFails := rfl
@[simp] theorem State.modRail_brixDown (s : State) (n : Nat) (f : Rail → Rail) : (s.modRail n f).brixDown = s.brixDown := rfl
@[simp] theorem State.modRail_dark (s : State) (n : Nat) (f : Rail → Rail) : (s.modRail n f).dark = s.dark := rfl

/-! ### A training unit -/

@[simp] theorem State.setTrain_agenda (s : State) (b : TrainBlock) (t : Train) : (s.setTrain b t).agenda = s.agenda := rfl
@[simp] theorem State.setTrain_waiting (s : State) (b : TrainBlock) (t : Train) : (s.setTrain b t).waiting = s.waiting := rfl
@[simp] theorem State.setTrain_tick (s : State) (b : TrainBlock) (t : Train) : (s.setTrain b t).tick = s.tick := rfl
@[simp] theorem State.setTrain_clock (s : State) (b : TrainBlock) (t : Train) : (s.setTrain b t).clock = s.clock := rfl
@[simp] theorem State.setTrain_ref24 (s : State) (b : TrainBlock) (t : Train) : (s.setTrain b t).ref24 = s.ref24 := rfl
@[simp] theorem State.setTrain_epoch (s : State) (b : TrainBlock) (t : Train) : (s.setTrain b t).epoch = s.epoch := rfl
@[simp] theorem State.setTrain_focus (s : State) (b : TrainBlock) (t : Train) : (s.setTrain b t).focus = s.focus := rfl
@[simp] theorem State.setTrain_core (s : State) (b : TrainBlock) (t : Train) : (s.setTrain b t).core = s.core := rfl
@[simp] theorem State.setTrain_others (s : State) (b : TrainBlock) (t : Train) : (s.setTrain b t).others = s.others := rfl
@[simp] theorem State.setTrain_mem (s : State) (b : TrainBlock) (t : Train) : (s.setTrain b t).mem = s.mem := rfl
@[simp] theorem State.setTrain_flight (s : State) (b : TrainBlock) (t : Train) : (s.setTrain b t).flight = s.flight := rfl
@[simp] theorem State.setTrain_lines (s : State) (b : TrainBlock) (t : Train) : (s.setTrain b t).lines = s.lines := rfl
@[simp] theorem State.setTrain_decs (s : State) (b : TrainBlock) (t : Train) : (s.setTrain b t).decs = s.decs := rfl
@[simp] theorem State.setTrain_flips (s : State) (b : TrainBlock) (t : Train) : (s.setTrain b t).flips = s.flips := rfl
@[simp] theorem State.setTrain_jobs (s : State) (b : TrainBlock) (t : Train) : (s.setTrain b t).jobs = s.jobs := rfl
@[simp] theorem State.setTrain_unpicks (s : State) (b : TrainBlock) (t : Train) : (s.setTrain b t).unpicks = s.unpicks := rfl
@[simp] theorem State.setTrain_nextId (s : State) (b : TrainBlock) (t : Train) : (s.setTrain b t).nextId = s.nextId := rfl
@[simp] theorem State.setTrain_reports (s : State) (b : TrainBlock) (t : Train) : (s.setTrain b t).reports = s.reports := rfl
@[simp] theorem State.setTrain_tableWrites (s : State) (b : TrainBlock) (t : Train) : (s.setTrain b t).tableWrites = s.tableWrites := rfl
@[simp] theorem State.setTrain_hemWait (s : State) (b : TrainBlock) (t : Train) : (s.setTrain b t).hemWait = s.hemWait := rfl
@[simp] theorem State.setTrain_queues (s : State) (b : TrainBlock) (t : Train) : (s.setTrain b t).queues = s.queues := rfl
@[simp] theorem State.setTrain_taken (s : State) (b : TrainBlock) (t : Train) : (s.setTrain b t).taken = s.taken := rfl
@[simp] theorem State.setTrain_pending (s : State) (b : TrainBlock) (t : Train) : (s.setTrain b t).pending = s.pending := rfl
@[simp] theorem State.setTrain_launches (s : State) (b : TrainBlock) (t : Train) : (s.setTrain b t).launches = s.launches := rfl
@[simp] theorem State.setTrain_parts (s : State) (b : TrainBlock) (t : Train) : (s.setTrain b t).parts = s.parts := rfl
@[simp] theorem State.setTrain_dies (s : State) (b : TrainBlock) (t : Train) : (s.setTrain b t).dies = s.dies := rfl
@[simp] theorem State.setTrain_ptcs (s : State) (b : TrainBlock) (t : Train) : (s.setTrain b t).ptcs = s.ptcs := rfl
@[simp] theorem State.setTrain_patterns (s : State) (b : TrainBlock) (t : Train) : (s.setTrain b t).patterns = s.patterns := rfl
@[simp] theorem State.setTrain_posted (s : State) (b : TrainBlock) (t : Train) : (s.setTrain b t).posted = s.posted := rfl
@[simp] theorem State.setTrain_seams (s : State) (b : TrainBlock) (t : Train) : (s.setTrain b t).seams = s.seams := rfl
@[simp] theorem State.setTrain_strFit (s : State) (b : TrainBlock) (t : Train) : (s.setTrain b t).strFit = s.strFit := rfl
@[simp] theorem State.setTrain_modnum (s : State) (b : TrainBlock) (t : Train) : (s.setTrain b t).modnum = s.modnum := rfl
@[simp] theorem State.setTrain_reach (s : State) (b : TrainBlock) (t : Train) : (s.setTrain b t).reach = s.reach := rfl
@[simp] theorem State.setTrain_hostIn (s : State) (b : TrainBlock) (t : Train) : (s.setTrain b t).hostIn = s.hostIn := rfl
@[simp] theorem State.setTrain_sentOut (s : State) (b : TrainBlock) (t : Train) : (s.setTrain b t).sentOut = s.sentOut := rfl
@[simp] theorem State.setTrain_flints (s : State) (b : TrainBlock) (t : Train) : (s.setTrain b t).flints = s.flints := rfl
@[simp] theorem State.setTrain_flash (s : State) (b : TrainBlock) (t : Train) : (s.setTrain b t).flash = s.flash := rfl
@[simp] theorem State.setTrain_fuses (s : State) (b : TrainBlock) (t : Train) : (s.setTrain b t).fuses = s.fuses := rfl
@[simp] theorem State.setTrain_sec (s : State) (b : TrainBlock) (t : Train) : (s.setTrain b t).sec = s.sec := rfl
@[simp] theorem State.setTrain_rails (s : State) (b : TrainBlock) (t : Train) : (s.setTrain b t).rails = s.rails := rfl
@[simp] theorem State.setTrain_clkCur (s : State) (b : TrainBlock) (t : Train) : (s.setTrain b t).clkCur = s.clkCur := rfl
@[simp] theorem State.setTrain_clkReq (s : State) (b : TrainBlock) (t : Train) : (s.setTrain b t).clkReq = s.clkReq := rfl
@[simp] theorem State.setTrain_clkTo (s : State) (b : TrainBlock) (t : Train) : (s.setTrain b t).clkTo = s.clkTo := rfl
@[simp] theorem State.setTrain_clkBusy (s : State) (b : TrainBlock) (t : Train) : (s.setTrain b t).clkBusy = s.clkBusy := rfl
@[simp] theorem State.setTrain_pwrlim (s : State) (b : TrainBlock) (t : Train) : (s.setTrain b t).pwrlim = s.pwrlim := rfl
@[simp] theorem State.setTrain_pwrnow (s : State) (b : TrainBlock) (t : Train) : (s.setTrain b t).pwrnow = s.pwrnow := rfl
@[simp] theorem State.setTrain_throt (s : State) (b : TrainBlock) (t : Train) : (s.setTrain b t).throt = s.throt := rfl
@[simp] theorem State.setTrain_rate (s : State) (b : TrainBlock) (t : Train) : (s.setTrain b t).rate = s.rate := rfl
@[simp] theorem State.setTrain_temps (s : State) (b : TrainBlock) (t : Train) : (s.setTrain b t).temps = s.temps := rfl
@[simp] theorem State.setTrain_porten (s : State) (b : TrainBlock) (t : Train) : (s.setTrain b t).porten = s.porten := rfl
@[simp] theorem State.setTrain_flitFails (s : State) (b : TrainBlock) (t : Train) : (s.setTrain b t).flitFails = s.flitFails := rfl
@[simp] theorem State.setTrain_brixDown (s : State) (b : TrainBlock) (t : Train) : (s.setTrain b t).brixDown = s.brixDown := rfl
@[simp] theorem State.setTrain_dark (s : State) (b : TrainBlock) (t : Train) : (s.setTrain b t).dark = s.dark := rfl

/-! ### A flint -/

@[simp] theorem State.setFlint_agenda (s : State) (d : Nat) (f : FlintState) : (s.setFlint d f).agenda = s.agenda := rfl
@[simp] theorem State.setFlint_waiting (s : State) (d : Nat) (f : FlintState) : (s.setFlint d f).waiting = s.waiting := rfl
@[simp] theorem State.setFlint_tick (s : State) (d : Nat) (f : FlintState) : (s.setFlint d f).tick = s.tick := rfl
@[simp] theorem State.setFlint_clock (s : State) (d : Nat) (f : FlintState) : (s.setFlint d f).clock = s.clock := rfl
@[simp] theorem State.setFlint_ref24 (s : State) (d : Nat) (f : FlintState) : (s.setFlint d f).ref24 = s.ref24 := rfl
@[simp] theorem State.setFlint_epoch (s : State) (d : Nat) (f : FlintState) : (s.setFlint d f).epoch = s.epoch := rfl
@[simp] theorem State.setFlint_focus (s : State) (d : Nat) (f : FlintState) : (s.setFlint d f).focus = s.focus := rfl
@[simp] theorem State.setFlint_core (s : State) (d : Nat) (f : FlintState) : (s.setFlint d f).core = s.core := rfl
@[simp] theorem State.setFlint_others (s : State) (d : Nat) (f : FlintState) : (s.setFlint d f).others = s.others := rfl
@[simp] theorem State.setFlint_mem (s : State) (d : Nat) (f : FlintState) : (s.setFlint d f).mem = s.mem := rfl
@[simp] theorem State.setFlint_flight (s : State) (d : Nat) (f : FlintState) : (s.setFlint d f).flight = s.flight := rfl
@[simp] theorem State.setFlint_lines (s : State) (d : Nat) (f : FlintState) : (s.setFlint d f).lines = s.lines := rfl
@[simp] theorem State.setFlint_decs (s : State) (d : Nat) (f : FlintState) : (s.setFlint d f).decs = s.decs := rfl
@[simp] theorem State.setFlint_flips (s : State) (d : Nat) (f : FlintState) : (s.setFlint d f).flips = s.flips := rfl
@[simp] theorem State.setFlint_jobs (s : State) (d : Nat) (f : FlintState) : (s.setFlint d f).jobs = s.jobs := rfl
@[simp] theorem State.setFlint_unpicks (s : State) (d : Nat) (f : FlintState) : (s.setFlint d f).unpicks = s.unpicks := rfl
@[simp] theorem State.setFlint_nextId (s : State) (d : Nat) (f : FlintState) : (s.setFlint d f).nextId = s.nextId := rfl
@[simp] theorem State.setFlint_reports (s : State) (d : Nat) (f : FlintState) : (s.setFlint d f).reports = s.reports := rfl
@[simp] theorem State.setFlint_tableWrites (s : State) (d : Nat) (f : FlintState) : (s.setFlint d f).tableWrites = s.tableWrites := rfl
@[simp] theorem State.setFlint_hemWait (s : State) (d : Nat) (f : FlintState) : (s.setFlint d f).hemWait = s.hemWait := rfl
@[simp] theorem State.setFlint_queues (s : State) (d : Nat) (f : FlintState) : (s.setFlint d f).queues = s.queues := rfl
@[simp] theorem State.setFlint_taken (s : State) (d : Nat) (f : FlintState) : (s.setFlint d f).taken = s.taken := rfl
@[simp] theorem State.setFlint_pending (s : State) (d : Nat) (f : FlintState) : (s.setFlint d f).pending = s.pending := rfl
@[simp] theorem State.setFlint_launches (s : State) (d : Nat) (f : FlintState) : (s.setFlint d f).launches = s.launches := rfl
@[simp] theorem State.setFlint_parts (s : State) (d : Nat) (f : FlintState) : (s.setFlint d f).parts = s.parts := rfl
@[simp] theorem State.setFlint_dies (s : State) (d : Nat) (f : FlintState) : (s.setFlint d f).dies = s.dies := rfl
@[simp] theorem State.setFlint_ptcs (s : State) (d : Nat) (f : FlintState) : (s.setFlint d f).ptcs = s.ptcs := rfl
@[simp] theorem State.setFlint_patterns (s : State) (d : Nat) (f : FlintState) : (s.setFlint d f).patterns = s.patterns := rfl
@[simp] theorem State.setFlint_posted (s : State) (d : Nat) (f : FlintState) : (s.setFlint d f).posted = s.posted := rfl
@[simp] theorem State.setFlint_seams (s : State) (d : Nat) (f : FlintState) : (s.setFlint d f).seams = s.seams := rfl
@[simp] theorem State.setFlint_strFit (s : State) (d : Nat) (f : FlintState) : (s.setFlint d f).strFit = s.strFit := rfl
@[simp] theorem State.setFlint_modnum (s : State) (d : Nat) (f : FlintState) : (s.setFlint d f).modnum = s.modnum := rfl
@[simp] theorem State.setFlint_reach (s : State) (d : Nat) (f : FlintState) : (s.setFlint d f).reach = s.reach := rfl
@[simp] theorem State.setFlint_hostIn (s : State) (d : Nat) (f : FlintState) : (s.setFlint d f).hostIn = s.hostIn := rfl
@[simp] theorem State.setFlint_sentOut (s : State) (d : Nat) (f : FlintState) : (s.setFlint d f).sentOut = s.sentOut := rfl
@[simp] theorem State.setFlint_flash (s : State) (d : Nat) (f : FlintState) : (s.setFlint d f).flash = s.flash := rfl
@[simp] theorem State.setFlint_fuses (s : State) (d : Nat) (f : FlintState) : (s.setFlint d f).fuses = s.fuses := rfl
@[simp] theorem State.setFlint_sec (s : State) (d : Nat) (f : FlintState) : (s.setFlint d f).sec = s.sec := rfl
@[simp] theorem State.setFlint_rails (s : State) (d : Nat) (f : FlintState) : (s.setFlint d f).rails = s.rails := rfl
@[simp] theorem State.setFlint_clkCur (s : State) (d : Nat) (f : FlintState) : (s.setFlint d f).clkCur = s.clkCur := rfl
@[simp] theorem State.setFlint_clkReq (s : State) (d : Nat) (f : FlintState) : (s.setFlint d f).clkReq = s.clkReq := rfl
@[simp] theorem State.setFlint_clkTo (s : State) (d : Nat) (f : FlintState) : (s.setFlint d f).clkTo = s.clkTo := rfl
@[simp] theorem State.setFlint_clkBusy (s : State) (d : Nat) (f : FlintState) : (s.setFlint d f).clkBusy = s.clkBusy := rfl
@[simp] theorem State.setFlint_pwrlim (s : State) (d : Nat) (f : FlintState) : (s.setFlint d f).pwrlim = s.pwrlim := rfl
@[simp] theorem State.setFlint_pwrnow (s : State) (d : Nat) (f : FlintState) : (s.setFlint d f).pwrnow = s.pwrnow := rfl
@[simp] theorem State.setFlint_throt (s : State) (d : Nat) (f : FlintState) : (s.setFlint d f).throt = s.throt := rfl
@[simp] theorem State.setFlint_rate (s : State) (d : Nat) (f : FlintState) : (s.setFlint d f).rate = s.rate := rfl
@[simp] theorem State.setFlint_temps (s : State) (d : Nat) (f : FlintState) : (s.setFlint d f).temps = s.temps := rfl
@[simp] theorem State.setFlint_trains (s : State) (d : Nat) (f : FlintState) : (s.setFlint d f).trains = s.trains := rfl
@[simp] theorem State.setFlint_porten (s : State) (d : Nat) (f : FlintState) : (s.setFlint d f).porten = s.porten := rfl
@[simp] theorem State.setFlint_flitFails (s : State) (d : Nat) (f : FlintState) : (s.setFlint d f).flitFails = s.flitFails := rfl
@[simp] theorem State.setFlint_brixDown (s : State) (d : Nat) (f : FlintState) : (s.setFlint d f).brixDown = s.brixDown := rfl
@[simp] theorem State.setFlint_dark (s : State) (d : Nat) (f : FlintState) : (s.setFlint d f).dark = s.dark := rfl

/-! ### The clock -/

@[simp] theorem State.ticked_agenda (s : State) (b : Nat) : (s.ticked b).agenda = s.agenda := rfl
@[simp] theorem State.ticked_waiting (s : State) (b : Nat) : (s.ticked b).waiting = s.waiting := rfl
@[simp] theorem State.ticked_epoch (s : State) (b : Nat) : (s.ticked b).epoch = s.epoch := rfl
@[simp] theorem State.ticked_focus (s : State) (b : Nat) : (s.ticked b).focus = s.focus := rfl
@[simp] theorem State.ticked_core (s : State) (b : Nat) : (s.ticked b).core = s.core := rfl
@[simp] theorem State.ticked_others (s : State) (b : Nat) : (s.ticked b).others = s.others := rfl
@[simp] theorem State.ticked_mem (s : State) (b : Nat) : (s.ticked b).mem = s.mem := rfl
@[simp] theorem State.ticked_flight (s : State) (b : Nat) : (s.ticked b).flight = s.flight := rfl
@[simp] theorem State.ticked_lines (s : State) (b : Nat) : (s.ticked b).lines = s.lines := rfl
@[simp] theorem State.ticked_decs (s : State) (b : Nat) : (s.ticked b).decs = s.decs := rfl
@[simp] theorem State.ticked_flips (s : State) (b : Nat) : (s.ticked b).flips = s.flips := rfl
@[simp] theorem State.ticked_jobs (s : State) (b : Nat) : (s.ticked b).jobs = s.jobs := rfl
@[simp] theorem State.ticked_unpicks (s : State) (b : Nat) : (s.ticked b).unpicks = s.unpicks := rfl
@[simp] theorem State.ticked_nextId (s : State) (b : Nat) : (s.ticked b).nextId = s.nextId := rfl
@[simp] theorem State.ticked_reports (s : State) (b : Nat) : (s.ticked b).reports = s.reports := rfl
@[simp] theorem State.ticked_tableWrites (s : State) (b : Nat) : (s.ticked b).tableWrites = s.tableWrites := rfl
@[simp] theorem State.ticked_hemWait (s : State) (b : Nat) : (s.ticked b).hemWait = s.hemWait := rfl
@[simp] theorem State.ticked_queues (s : State) (b : Nat) : (s.ticked b).queues = s.queues := rfl
@[simp] theorem State.ticked_taken (s : State) (b : Nat) : (s.ticked b).taken = s.taken := rfl
@[simp] theorem State.ticked_pending (s : State) (b : Nat) : (s.ticked b).pending = s.pending := rfl
@[simp] theorem State.ticked_launches (s : State) (b : Nat) : (s.ticked b).launches = s.launches := rfl
@[simp] theorem State.ticked_parts (s : State) (b : Nat) : (s.ticked b).parts = s.parts := rfl
@[simp] theorem State.ticked_dies (s : State) (b : Nat) : (s.ticked b).dies = s.dies := rfl
@[simp] theorem State.ticked_ptcs (s : State) (b : Nat) : (s.ticked b).ptcs = s.ptcs := rfl
@[simp] theorem State.ticked_patterns (s : State) (b : Nat) : (s.ticked b).patterns = s.patterns := rfl
@[simp] theorem State.ticked_posted (s : State) (b : Nat) : (s.ticked b).posted = s.posted := rfl
@[simp] theorem State.ticked_strFit (s : State) (b : Nat) : (s.ticked b).strFit = s.strFit := rfl
@[simp] theorem State.ticked_modnum (s : State) (b : Nat) : (s.ticked b).modnum = s.modnum := rfl
@[simp] theorem State.ticked_reach (s : State) (b : Nat) : (s.ticked b).reach = s.reach := rfl
@[simp] theorem State.ticked_hostIn (s : State) (b : Nat) : (s.ticked b).hostIn = s.hostIn := rfl
@[simp] theorem State.ticked_sentOut (s : State) (b : Nat) : (s.ticked b).sentOut = s.sentOut := rfl
@[simp] theorem State.ticked_flints (s : State) (b : Nat) : (s.ticked b).flints = s.flints := rfl
@[simp] theorem State.ticked_flash (s : State) (b : Nat) : (s.ticked b).flash = s.flash := rfl
@[simp] theorem State.ticked_fuses (s : State) (b : Nat) : (s.ticked b).fuses = s.fuses := rfl
@[simp] theorem State.ticked_sec (s : State) (b : Nat) : (s.ticked b).sec = s.sec := rfl
@[simp] theorem State.ticked_rails (s : State) (b : Nat) : (s.ticked b).rails = s.rails := rfl
@[simp] theorem State.ticked_clkCur (s : State) (b : Nat) : (s.ticked b).clkCur = s.clkCur := rfl
@[simp] theorem State.ticked_clkReq (s : State) (b : Nat) : (s.ticked b).clkReq = s.clkReq := rfl
@[simp] theorem State.ticked_clkTo (s : State) (b : Nat) : (s.ticked b).clkTo = s.clkTo := rfl
@[simp] theorem State.ticked_clkBusy (s : State) (b : Nat) : (s.ticked b).clkBusy = s.clkBusy := rfl
@[simp] theorem State.ticked_pwrlim (s : State) (b : Nat) : (s.ticked b).pwrlim = s.pwrlim := rfl
@[simp] theorem State.ticked_pwrnow (s : State) (b : Nat) : (s.ticked b).pwrnow = s.pwrnow := rfl
@[simp] theorem State.ticked_throt (s : State) (b : Nat) : (s.ticked b).throt = s.throt := rfl
@[simp] theorem State.ticked_rate (s : State) (b : Nat) : (s.ticked b).rate = s.rate := rfl
@[simp] theorem State.ticked_temps (s : State) (b : Nat) : (s.ticked b).temps = s.temps := rfl
@[simp] theorem State.ticked_trains (s : State) (b : Nat) : (s.ticked b).trains = s.trains := rfl
@[simp] theorem State.ticked_porten (s : State) (b : Nat) : (s.ticked b).porten = s.porten := rfl
@[simp] theorem State.ticked_flitFails (s : State) (b : Nat) : (s.ticked b).flitFails = s.flitFails := rfl
@[simp] theorem State.ticked_brixDown (s : State) (b : Nat) : (s.ticked b).brixDown = s.brixDown := rfl
@[simp] theorem State.ticked_dark (s : State) (b : Nat) : (s.ticked b).dark = s.dark := rfl

/-! ### A core -/

@[simp] theorem State.setCore_agenda (s : State) (n : Nat) (c : Core) : (s.setCore n c).agenda = s.agenda := by unfold State.setCore; split <;> rfl
@[simp] theorem State.setCore_waiting (s : State) (n : Nat) (c : Core) : (s.setCore n c).waiting = s.waiting := by unfold State.setCore; split <;> rfl
@[simp] theorem State.setCore_tick (s : State) (n : Nat) (c : Core) : (s.setCore n c).tick = s.tick := by unfold State.setCore; split <;> rfl
@[simp] theorem State.setCore_clock (s : State) (n : Nat) (c : Core) : (s.setCore n c).clock = s.clock := by unfold State.setCore; split <;> rfl
@[simp] theorem State.setCore_ref24 (s : State) (n : Nat) (c : Core) : (s.setCore n c).ref24 = s.ref24 := by unfold State.setCore; split <;> rfl
@[simp] theorem State.setCore_epoch (s : State) (n : Nat) (c : Core) : (s.setCore n c).epoch = s.epoch := by unfold State.setCore; split <;> rfl
@[simp] theorem State.setCore_focus (s : State) (n : Nat) (c : Core) : (s.setCore n c).focus = s.focus := by unfold State.setCore; split <;> rfl
@[simp] theorem State.setCore_mem (s : State) (n : Nat) (c : Core) : (s.setCore n c).mem = s.mem := by unfold State.setCore; split <;> rfl
@[simp] theorem State.setCore_flight (s : State) (n : Nat) (c : Core) : (s.setCore n c).flight = s.flight := by unfold State.setCore; split <;> rfl
@[simp] theorem State.setCore_lines (s : State) (n : Nat) (c : Core) : (s.setCore n c).lines = s.lines := by unfold State.setCore; split <;> rfl
@[simp] theorem State.setCore_decs (s : State) (n : Nat) (c : Core) : (s.setCore n c).decs = s.decs := by unfold State.setCore; split <;> rfl
@[simp] theorem State.setCore_flips (s : State) (n : Nat) (c : Core) : (s.setCore n c).flips = s.flips := by unfold State.setCore; split <;> rfl
@[simp] theorem State.setCore_jobs (s : State) (n : Nat) (c : Core) : (s.setCore n c).jobs = s.jobs := by unfold State.setCore; split <;> rfl
@[simp] theorem State.setCore_unpicks (s : State) (n : Nat) (c : Core) : (s.setCore n c).unpicks = s.unpicks := by unfold State.setCore; split <;> rfl
@[simp] theorem State.setCore_nextId (s : State) (n : Nat) (c : Core) : (s.setCore n c).nextId = s.nextId := by unfold State.setCore; split <;> rfl
@[simp] theorem State.setCore_reports (s : State) (n : Nat) (c : Core) : (s.setCore n c).reports = s.reports := by unfold State.setCore; split <;> rfl
@[simp] theorem State.setCore_tableWrites (s : State) (n : Nat) (c : Core) : (s.setCore n c).tableWrites = s.tableWrites := by unfold State.setCore; split <;> rfl
@[simp] theorem State.setCore_hemWait (s : State) (n : Nat) (c : Core) : (s.setCore n c).hemWait = s.hemWait := by unfold State.setCore; split <;> rfl
@[simp] theorem State.setCore_queues (s : State) (n : Nat) (c : Core) : (s.setCore n c).queues = s.queues := by unfold State.setCore; split <;> rfl
@[simp] theorem State.setCore_taken (s : State) (n : Nat) (c : Core) : (s.setCore n c).taken = s.taken := by unfold State.setCore; split <;> rfl
@[simp] theorem State.setCore_pending (s : State) (n : Nat) (c : Core) : (s.setCore n c).pending = s.pending := by unfold State.setCore; split <;> rfl
@[simp] theorem State.setCore_launches (s : State) (n : Nat) (c : Core) : (s.setCore n c).launches = s.launches := by unfold State.setCore; split <;> rfl
@[simp] theorem State.setCore_parts (s : State) (n : Nat) (c : Core) : (s.setCore n c).parts = s.parts := by unfold State.setCore; split <;> rfl
@[simp] theorem State.setCore_dies (s : State) (n : Nat) (c : Core) : (s.setCore n c).dies = s.dies := by unfold State.setCore; split <;> rfl
@[simp] theorem State.setCore_ptcs (s : State) (n : Nat) (c : Core) : (s.setCore n c).ptcs = s.ptcs := by unfold State.setCore; split <;> rfl
@[simp] theorem State.setCore_patterns (s : State) (n : Nat) (c : Core) : (s.setCore n c).patterns = s.patterns := by unfold State.setCore; split <;> rfl
@[simp] theorem State.setCore_posted (s : State) (n : Nat) (c : Core) : (s.setCore n c).posted = s.posted := by unfold State.setCore; split <;> rfl
@[simp] theorem State.setCore_seams (s : State) (n : Nat) (c : Core) : (s.setCore n c).seams = s.seams := by unfold State.setCore; split <;> rfl
@[simp] theorem State.setCore_strFit (s : State) (n : Nat) (c : Core) : (s.setCore n c).strFit = s.strFit := by unfold State.setCore; split <;> rfl
@[simp] theorem State.setCore_modnum (s : State) (n : Nat) (c : Core) : (s.setCore n c).modnum = s.modnum := by unfold State.setCore; split <;> rfl
@[simp] theorem State.setCore_reach (s : State) (n : Nat) (c : Core) : (s.setCore n c).reach = s.reach := by unfold State.setCore; split <;> rfl
@[simp] theorem State.setCore_hostIn (s : State) (n : Nat) (c : Core) : (s.setCore n c).hostIn = s.hostIn := by unfold State.setCore; split <;> rfl
@[simp] theorem State.setCore_sentOut (s : State) (n : Nat) (c : Core) : (s.setCore n c).sentOut = s.sentOut := by unfold State.setCore; split <;> rfl
@[simp] theorem State.setCore_flints (s : State) (n : Nat) (c : Core) : (s.setCore n c).flints = s.flints := by unfold State.setCore; split <;> rfl
@[simp] theorem State.setCore_flash (s : State) (n : Nat) (c : Core) : (s.setCore n c).flash = s.flash := by unfold State.setCore; split <;> rfl
@[simp] theorem State.setCore_fuses (s : State) (n : Nat) (c : Core) : (s.setCore n c).fuses = s.fuses := by unfold State.setCore; split <;> rfl
@[simp] theorem State.setCore_sec (s : State) (n : Nat) (c : Core) : (s.setCore n c).sec = s.sec := by unfold State.setCore; split <;> rfl
@[simp] theorem State.setCore_rails (s : State) (n : Nat) (c : Core) : (s.setCore n c).rails = s.rails := by unfold State.setCore; split <;> rfl
@[simp] theorem State.setCore_clkCur (s : State) (n : Nat) (c : Core) : (s.setCore n c).clkCur = s.clkCur := by unfold State.setCore; split <;> rfl
@[simp] theorem State.setCore_clkReq (s : State) (n : Nat) (c : Core) : (s.setCore n c).clkReq = s.clkReq := by unfold State.setCore; split <;> rfl
@[simp] theorem State.setCore_clkTo (s : State) (n : Nat) (c : Core) : (s.setCore n c).clkTo = s.clkTo := by unfold State.setCore; split <;> rfl
@[simp] theorem State.setCore_clkBusy (s : State) (n : Nat) (c : Core) : (s.setCore n c).clkBusy = s.clkBusy := by unfold State.setCore; split <;> rfl
@[simp] theorem State.setCore_pwrlim (s : State) (n : Nat) (c : Core) : (s.setCore n c).pwrlim = s.pwrlim := by unfold State.setCore; split <;> rfl
@[simp] theorem State.setCore_pwrnow (s : State) (n : Nat) (c : Core) : (s.setCore n c).pwrnow = s.pwrnow := by unfold State.setCore; split <;> rfl
@[simp] theorem State.setCore_throt (s : State) (n : Nat) (c : Core) : (s.setCore n c).throt = s.throt := by unfold State.setCore; split <;> rfl
@[simp] theorem State.setCore_rate (s : State) (n : Nat) (c : Core) : (s.setCore n c).rate = s.rate := by unfold State.setCore; split <;> rfl
@[simp] theorem State.setCore_temps (s : State) (n : Nat) (c : Core) : (s.setCore n c).temps = s.temps := by unfold State.setCore; split <;> rfl
@[simp] theorem State.setCore_trains (s : State) (n : Nat) (c : Core) : (s.setCore n c).trains = s.trains := by unfold State.setCore; split <;> rfl
@[simp] theorem State.setCore_porten (s : State) (n : Nat) (c : Core) : (s.setCore n c).porten = s.porten := by unfold State.setCore; split <;> rfl
@[simp] theorem State.setCore_flitFails (s : State) (n : Nat) (c : Core) : (s.setCore n c).flitFails = s.flitFails := by unfold State.setCore; split <;> rfl
@[simp] theorem State.setCore_brixDown (s : State) (n : Nat) (c : Core) : (s.setCore n c).brixDown = s.brixDown := by unfold State.setCore; split <;> rfl
@[simp] theorem State.setCore_dark (s : State) (n : Nat) (c : Core) : (s.setCore n c).dark = s.dark := by unfold State.setCore; split <;> rfl

/-! ### A core, changed -/

@[simp] theorem State.modCore_agenda (s : State) (n : Nat) (f : Core → Core) : (s.modCore n f).agenda = s.agenda := by simp [State.modCore]
@[simp] theorem State.modCore_waiting (s : State) (n : Nat) (f : Core → Core) : (s.modCore n f).waiting = s.waiting := by simp [State.modCore]
@[simp] theorem State.modCore_tick (s : State) (n : Nat) (f : Core → Core) : (s.modCore n f).tick = s.tick := by simp [State.modCore]
@[simp] theorem State.modCore_clock (s : State) (n : Nat) (f : Core → Core) : (s.modCore n f).clock = s.clock := by simp [State.modCore]
@[simp] theorem State.modCore_ref24 (s : State) (n : Nat) (f : Core → Core) : (s.modCore n f).ref24 = s.ref24 := by simp [State.modCore]
@[simp] theorem State.modCore_epoch (s : State) (n : Nat) (f : Core → Core) : (s.modCore n f).epoch = s.epoch := by simp [State.modCore]
@[simp] theorem State.modCore_focus (s : State) (n : Nat) (f : Core → Core) : (s.modCore n f).focus = s.focus := by simp [State.modCore]
@[simp] theorem State.modCore_mem (s : State) (n : Nat) (f : Core → Core) : (s.modCore n f).mem = s.mem := by simp [State.modCore]
@[simp] theorem State.modCore_flight (s : State) (n : Nat) (f : Core → Core) : (s.modCore n f).flight = s.flight := by simp [State.modCore]
@[simp] theorem State.modCore_lines (s : State) (n : Nat) (f : Core → Core) : (s.modCore n f).lines = s.lines := by simp [State.modCore]
@[simp] theorem State.modCore_decs (s : State) (n : Nat) (f : Core → Core) : (s.modCore n f).decs = s.decs := by simp [State.modCore]
@[simp] theorem State.modCore_flips (s : State) (n : Nat) (f : Core → Core) : (s.modCore n f).flips = s.flips := by simp [State.modCore]
@[simp] theorem State.modCore_jobs (s : State) (n : Nat) (f : Core → Core) : (s.modCore n f).jobs = s.jobs := by simp [State.modCore]
@[simp] theorem State.modCore_unpicks (s : State) (n : Nat) (f : Core → Core) : (s.modCore n f).unpicks = s.unpicks := by simp [State.modCore]
@[simp] theorem State.modCore_nextId (s : State) (n : Nat) (f : Core → Core) : (s.modCore n f).nextId = s.nextId := by simp [State.modCore]
@[simp] theorem State.modCore_reports (s : State) (n : Nat) (f : Core → Core) : (s.modCore n f).reports = s.reports := by simp [State.modCore]
@[simp] theorem State.modCore_tableWrites (s : State) (n : Nat) (f : Core → Core) : (s.modCore n f).tableWrites = s.tableWrites := by simp [State.modCore]
@[simp] theorem State.modCore_hemWait (s : State) (n : Nat) (f : Core → Core) : (s.modCore n f).hemWait = s.hemWait := by simp [State.modCore]
@[simp] theorem State.modCore_queues (s : State) (n : Nat) (f : Core → Core) : (s.modCore n f).queues = s.queues := by simp [State.modCore]
@[simp] theorem State.modCore_taken (s : State) (n : Nat) (f : Core → Core) : (s.modCore n f).taken = s.taken := by simp [State.modCore]
@[simp] theorem State.modCore_pending (s : State) (n : Nat) (f : Core → Core) : (s.modCore n f).pending = s.pending := by simp [State.modCore]
@[simp] theorem State.modCore_launches (s : State) (n : Nat) (f : Core → Core) : (s.modCore n f).launches = s.launches := by simp [State.modCore]
@[simp] theorem State.modCore_parts (s : State) (n : Nat) (f : Core → Core) : (s.modCore n f).parts = s.parts := by simp [State.modCore]
@[simp] theorem State.modCore_dies (s : State) (n : Nat) (f : Core → Core) : (s.modCore n f).dies = s.dies := by simp [State.modCore]
@[simp] theorem State.modCore_ptcs (s : State) (n : Nat) (f : Core → Core) : (s.modCore n f).ptcs = s.ptcs := by simp [State.modCore]
@[simp] theorem State.modCore_patterns (s : State) (n : Nat) (f : Core → Core) : (s.modCore n f).patterns = s.patterns := by simp [State.modCore]
@[simp] theorem State.modCore_posted (s : State) (n : Nat) (f : Core → Core) : (s.modCore n f).posted = s.posted := by simp [State.modCore]
@[simp] theorem State.modCore_seams (s : State) (n : Nat) (f : Core → Core) : (s.modCore n f).seams = s.seams := by simp [State.modCore]
@[simp] theorem State.modCore_strFit (s : State) (n : Nat) (f : Core → Core) : (s.modCore n f).strFit = s.strFit := by simp [State.modCore]
@[simp] theorem State.modCore_modnum (s : State) (n : Nat) (f : Core → Core) : (s.modCore n f).modnum = s.modnum := by simp [State.modCore]
@[simp] theorem State.modCore_reach (s : State) (n : Nat) (f : Core → Core) : (s.modCore n f).reach = s.reach := by simp [State.modCore]
@[simp] theorem State.modCore_hostIn (s : State) (n : Nat) (f : Core → Core) : (s.modCore n f).hostIn = s.hostIn := by simp [State.modCore]
@[simp] theorem State.modCore_sentOut (s : State) (n : Nat) (f : Core → Core) : (s.modCore n f).sentOut = s.sentOut := by simp [State.modCore]
@[simp] theorem State.modCore_flints (s : State) (n : Nat) (f : Core → Core) : (s.modCore n f).flints = s.flints := by simp [State.modCore]
@[simp] theorem State.modCore_flash (s : State) (n : Nat) (f : Core → Core) : (s.modCore n f).flash = s.flash := by simp [State.modCore]
@[simp] theorem State.modCore_fuses (s : State) (n : Nat) (f : Core → Core) : (s.modCore n f).fuses = s.fuses := by simp [State.modCore]
@[simp] theorem State.modCore_sec (s : State) (n : Nat) (f : Core → Core) : (s.modCore n f).sec = s.sec := by simp [State.modCore]
@[simp] theorem State.modCore_rails (s : State) (n : Nat) (f : Core → Core) : (s.modCore n f).rails = s.rails := by simp [State.modCore]
@[simp] theorem State.modCore_clkCur (s : State) (n : Nat) (f : Core → Core) : (s.modCore n f).clkCur = s.clkCur := by simp [State.modCore]
@[simp] theorem State.modCore_clkReq (s : State) (n : Nat) (f : Core → Core) : (s.modCore n f).clkReq = s.clkReq := by simp [State.modCore]
@[simp] theorem State.modCore_clkTo (s : State) (n : Nat) (f : Core → Core) : (s.modCore n f).clkTo = s.clkTo := by simp [State.modCore]
@[simp] theorem State.modCore_clkBusy (s : State) (n : Nat) (f : Core → Core) : (s.modCore n f).clkBusy = s.clkBusy := by simp [State.modCore]
@[simp] theorem State.modCore_pwrlim (s : State) (n : Nat) (f : Core → Core) : (s.modCore n f).pwrlim = s.pwrlim := by simp [State.modCore]
@[simp] theorem State.modCore_pwrnow (s : State) (n : Nat) (f : Core → Core) : (s.modCore n f).pwrnow = s.pwrnow := by simp [State.modCore]
@[simp] theorem State.modCore_throt (s : State) (n : Nat) (f : Core → Core) : (s.modCore n f).throt = s.throt := by simp [State.modCore]
@[simp] theorem State.modCore_rate (s : State) (n : Nat) (f : Core → Core) : (s.modCore n f).rate = s.rate := by simp [State.modCore]
@[simp] theorem State.modCore_temps (s : State) (n : Nat) (f : Core → Core) : (s.modCore n f).temps = s.temps := by simp [State.modCore]
@[simp] theorem State.modCore_trains (s : State) (n : Nat) (f : Core → Core) : (s.modCore n f).trains = s.trains := by simp [State.modCore]
@[simp] theorem State.modCore_porten (s : State) (n : Nat) (f : Core → Core) : (s.modCore n f).porten = s.porten := by simp [State.modCore]
@[simp] theorem State.modCore_flitFails (s : State) (n : Nat) (f : Core → Core) : (s.modCore n f).flitFails = s.flitFails := by simp [State.modCore]
@[simp] theorem State.modCore_brixDown (s : State) (n : Nat) (f : Core → Core) : (s.modCore n f).brixDown = s.brixDown := by simp [State.modCore]
@[simp] theorem State.modCore_dark (s : State) (n : Nat) (f : Core → Core) : (s.modCore n f).dark = s.dark := by simp [State.modCore]

/-! ### The core in focus -/

@[simp] theorem State.focusOn_agenda (s : State) (n : Nat) : (s.focusOn n).agenda = s.agenda := by unfold State.focusOn; split <;> rfl
@[simp] theorem State.focusOn_waiting (s : State) (n : Nat) : (s.focusOn n).waiting = s.waiting := by unfold State.focusOn; split <;> rfl
@[simp] theorem State.focusOn_tick (s : State) (n : Nat) : (s.focusOn n).tick = s.tick := by unfold State.focusOn; split <;> rfl
@[simp] theorem State.focusOn_clock (s : State) (n : Nat) : (s.focusOn n).clock = s.clock := by unfold State.focusOn; split <;> rfl
@[simp] theorem State.focusOn_ref24 (s : State) (n : Nat) : (s.focusOn n).ref24 = s.ref24 := by unfold State.focusOn; split <;> rfl
@[simp] theorem State.focusOn_epoch (s : State) (n : Nat) : (s.focusOn n).epoch = s.epoch := by unfold State.focusOn; split <;> rfl
@[simp] theorem State.focusOn_mem (s : State) (n : Nat) : (s.focusOn n).mem = s.mem := by unfold State.focusOn; split <;> rfl
@[simp] theorem State.focusOn_flight (s : State) (n : Nat) : (s.focusOn n).flight = s.flight := by unfold State.focusOn; split <;> rfl
@[simp] theorem State.focusOn_lines (s : State) (n : Nat) : (s.focusOn n).lines = s.lines := by unfold State.focusOn; split <;> rfl
@[simp] theorem State.focusOn_decs (s : State) (n : Nat) : (s.focusOn n).decs = s.decs := by unfold State.focusOn; split <;> rfl
@[simp] theorem State.focusOn_flips (s : State) (n : Nat) : (s.focusOn n).flips = s.flips := by unfold State.focusOn; split <;> rfl
@[simp] theorem State.focusOn_jobs (s : State) (n : Nat) : (s.focusOn n).jobs = s.jobs := by unfold State.focusOn; split <;> rfl
@[simp] theorem State.focusOn_unpicks (s : State) (n : Nat) : (s.focusOn n).unpicks = s.unpicks := by unfold State.focusOn; split <;> rfl
@[simp] theorem State.focusOn_nextId (s : State) (n : Nat) : (s.focusOn n).nextId = s.nextId := by unfold State.focusOn; split <;> rfl
@[simp] theorem State.focusOn_reports (s : State) (n : Nat) : (s.focusOn n).reports = s.reports := by unfold State.focusOn; split <;> rfl
@[simp] theorem State.focusOn_tableWrites (s : State) (n : Nat) : (s.focusOn n).tableWrites = s.tableWrites := by unfold State.focusOn; split <;> rfl
@[simp] theorem State.focusOn_hemWait (s : State) (n : Nat) : (s.focusOn n).hemWait = s.hemWait := by unfold State.focusOn; split <;> rfl
@[simp] theorem State.focusOn_queues (s : State) (n : Nat) : (s.focusOn n).queues = s.queues := by unfold State.focusOn; split <;> rfl
@[simp] theorem State.focusOn_taken (s : State) (n : Nat) : (s.focusOn n).taken = s.taken := by unfold State.focusOn; split <;> rfl
@[simp] theorem State.focusOn_pending (s : State) (n : Nat) : (s.focusOn n).pending = s.pending := by unfold State.focusOn; split <;> rfl
@[simp] theorem State.focusOn_launches (s : State) (n : Nat) : (s.focusOn n).launches = s.launches := by unfold State.focusOn; split <;> rfl
@[simp] theorem State.focusOn_parts (s : State) (n : Nat) : (s.focusOn n).parts = s.parts := by unfold State.focusOn; split <;> rfl
@[simp] theorem State.focusOn_dies (s : State) (n : Nat) : (s.focusOn n).dies = s.dies := by unfold State.focusOn; split <;> rfl
@[simp] theorem State.focusOn_ptcs (s : State) (n : Nat) : (s.focusOn n).ptcs = s.ptcs := by unfold State.focusOn; split <;> rfl
@[simp] theorem State.focusOn_patterns (s : State) (n : Nat) : (s.focusOn n).patterns = s.patterns := by unfold State.focusOn; split <;> rfl
@[simp] theorem State.focusOn_posted (s : State) (n : Nat) : (s.focusOn n).posted = s.posted := by unfold State.focusOn; split <;> rfl
@[simp] theorem State.focusOn_seams (s : State) (n : Nat) : (s.focusOn n).seams = s.seams := by unfold State.focusOn; split <;> rfl
@[simp] theorem State.focusOn_strFit (s : State) (n : Nat) : (s.focusOn n).strFit = s.strFit := by unfold State.focusOn; split <;> rfl
@[simp] theorem State.focusOn_modnum (s : State) (n : Nat) : (s.focusOn n).modnum = s.modnum := by unfold State.focusOn; split <;> rfl
@[simp] theorem State.focusOn_reach (s : State) (n : Nat) : (s.focusOn n).reach = s.reach := by unfold State.focusOn; split <;> rfl
@[simp] theorem State.focusOn_hostIn (s : State) (n : Nat) : (s.focusOn n).hostIn = s.hostIn := by unfold State.focusOn; split <;> rfl
@[simp] theorem State.focusOn_sentOut (s : State) (n : Nat) : (s.focusOn n).sentOut = s.sentOut := by unfold State.focusOn; split <;> rfl
@[simp] theorem State.focusOn_flints (s : State) (n : Nat) : (s.focusOn n).flints = s.flints := by unfold State.focusOn; split <;> rfl
@[simp] theorem State.focusOn_flash (s : State) (n : Nat) : (s.focusOn n).flash = s.flash := by unfold State.focusOn; split <;> rfl
@[simp] theorem State.focusOn_fuses (s : State) (n : Nat) : (s.focusOn n).fuses = s.fuses := by unfold State.focusOn; split <;> rfl
@[simp] theorem State.focusOn_sec (s : State) (n : Nat) : (s.focusOn n).sec = s.sec := by unfold State.focusOn; split <;> rfl
@[simp] theorem State.focusOn_rails (s : State) (n : Nat) : (s.focusOn n).rails = s.rails := by unfold State.focusOn; split <;> rfl
@[simp] theorem State.focusOn_clkCur (s : State) (n : Nat) : (s.focusOn n).clkCur = s.clkCur := by unfold State.focusOn; split <;> rfl
@[simp] theorem State.focusOn_clkReq (s : State) (n : Nat) : (s.focusOn n).clkReq = s.clkReq := by unfold State.focusOn; split <;> rfl
@[simp] theorem State.focusOn_clkTo (s : State) (n : Nat) : (s.focusOn n).clkTo = s.clkTo := by unfold State.focusOn; split <;> rfl
@[simp] theorem State.focusOn_clkBusy (s : State) (n : Nat) : (s.focusOn n).clkBusy = s.clkBusy := by unfold State.focusOn; split <;> rfl
@[simp] theorem State.focusOn_pwrlim (s : State) (n : Nat) : (s.focusOn n).pwrlim = s.pwrlim := by unfold State.focusOn; split <;> rfl
@[simp] theorem State.focusOn_pwrnow (s : State) (n : Nat) : (s.focusOn n).pwrnow = s.pwrnow := by unfold State.focusOn; split <;> rfl
@[simp] theorem State.focusOn_throt (s : State) (n : Nat) : (s.focusOn n).throt = s.throt := by unfold State.focusOn; split <;> rfl
@[simp] theorem State.focusOn_rate (s : State) (n : Nat) : (s.focusOn n).rate = s.rate := by unfold State.focusOn; split <;> rfl
@[simp] theorem State.focusOn_temps (s : State) (n : Nat) : (s.focusOn n).temps = s.temps := by unfold State.focusOn; split <;> rfl
@[simp] theorem State.focusOn_trains (s : State) (n : Nat) : (s.focusOn n).trains = s.trains := by unfold State.focusOn; split <;> rfl
@[simp] theorem State.focusOn_porten (s : State) (n : Nat) : (s.focusOn n).porten = s.porten := by unfold State.focusOn; split <;> rfl
@[simp] theorem State.focusOn_flitFails (s : State) (n : Nat) : (s.focusOn n).flitFails = s.flitFails := by unfold State.focusOn; split <;> rfl
@[simp] theorem State.focusOn_brixDown (s : State) (n : Nat) : (s.focusOn n).brixDown = s.brixDown := by unfold State.focusOn; split <;> rfl
@[simp] theorem State.focusOn_dark (s : State) (n : Nat) : (s.focusOn n).dark = s.dark := by unfold State.focusOn; split <;> rfl

/-! ### A report to a front end -/

@[simp] theorem State.report_agenda (s : State) (n p : Option Nat) (l : BitVec 16) (k c : Nat) : (s.report n p l k c).agenda = s.agenda := by cases p <;> cases n <;> simp [State.report]
@[simp] theorem State.report_waiting (s : State) (n p : Option Nat) (l : BitVec 16) (k c : Nat) : (s.report n p l k c).waiting = s.waiting := by cases p <;> cases n <;> simp [State.report]
@[simp] theorem State.report_tick (s : State) (n p : Option Nat) (l : BitVec 16) (k c : Nat) : (s.report n p l k c).tick = s.tick := by cases p <;> cases n <;> simp [State.report]
@[simp] theorem State.report_clock (s : State) (n p : Option Nat) (l : BitVec 16) (k c : Nat) : (s.report n p l k c).clock = s.clock := by cases p <;> cases n <;> simp [State.report]
@[simp] theorem State.report_ref24 (s : State) (n p : Option Nat) (l : BitVec 16) (k c : Nat) : (s.report n p l k c).ref24 = s.ref24 := by cases p <;> cases n <;> simp [State.report]
@[simp] theorem State.report_epoch (s : State) (n p : Option Nat) (l : BitVec 16) (k c : Nat) : (s.report n p l k c).epoch = s.epoch := by cases p <;> cases n <;> simp [State.report]
@[simp] theorem State.report_focus (s : State) (n p : Option Nat) (l : BitVec 16) (k c : Nat) : (s.report n p l k c).focus = s.focus := by cases p <;> cases n <;> simp [State.report]
@[simp] theorem State.report_mem (s : State) (n p : Option Nat) (l : BitVec 16) (k c : Nat) : (s.report n p l k c).mem = s.mem := by cases p <;> cases n <;> simp [State.report]
@[simp] theorem State.report_flight (s : State) (n p : Option Nat) (l : BitVec 16) (k c : Nat) : (s.report n p l k c).flight = s.flight := by cases p <;> cases n <;> simp [State.report]
@[simp] theorem State.report_lines (s : State) (n p : Option Nat) (l : BitVec 16) (k c : Nat) : (s.report n p l k c).lines = s.lines := by cases p <;> cases n <;> simp [State.report]
@[simp] theorem State.report_decs (s : State) (n p : Option Nat) (l : BitVec 16) (k c : Nat) : (s.report n p l k c).decs = s.decs := by cases p <;> cases n <;> simp [State.report]
@[simp] theorem State.report_flips (s : State) (n p : Option Nat) (l : BitVec 16) (k c : Nat) : (s.report n p l k c).flips = s.flips := by cases p <;> cases n <;> simp [State.report]
@[simp] theorem State.report_jobs (s : State) (n p : Option Nat) (l : BitVec 16) (k c : Nat) : (s.report n p l k c).jobs = s.jobs := by cases p <;> cases n <;> simp [State.report]
@[simp] theorem State.report_unpicks (s : State) (n p : Option Nat) (l : BitVec 16) (k c : Nat) : (s.report n p l k c).unpicks = s.unpicks := by cases p <;> cases n <;> simp [State.report]
@[simp] theorem State.report_nextId (s : State) (n p : Option Nat) (l : BitVec 16) (k c : Nat) : (s.report n p l k c).nextId = s.nextId := by cases p <;> cases n <;> simp [State.report]
@[simp] theorem State.report_tableWrites (s : State) (n p : Option Nat) (l : BitVec 16) (k c : Nat) : (s.report n p l k c).tableWrites = s.tableWrites := by cases p <;> cases n <;> simp [State.report]
@[simp] theorem State.report_hemWait (s : State) (n p : Option Nat) (l : BitVec 16) (k c : Nat) : (s.report n p l k c).hemWait = s.hemWait := by cases p <;> cases n <;> simp [State.report]
@[simp] theorem State.report_queues (s : State) (n p : Option Nat) (l : BitVec 16) (k c : Nat) : (s.report n p l k c).queues = s.queues := by cases p <;> cases n <;> simp [State.report]
@[simp] theorem State.report_taken (s : State) (n p : Option Nat) (l : BitVec 16) (k c : Nat) : (s.report n p l k c).taken = s.taken := by cases p <;> cases n <;> simp [State.report]
@[simp] theorem State.report_pending (s : State) (n p : Option Nat) (l : BitVec 16) (k c : Nat) : (s.report n p l k c).pending = s.pending := by cases p <;> cases n <;> simp [State.report]
@[simp] theorem State.report_launches (s : State) (n p : Option Nat) (l : BitVec 16) (k c : Nat) : (s.report n p l k c).launches = s.launches := by cases p <;> cases n <;> simp [State.report]
@[simp] theorem State.report_parts (s : State) (n p : Option Nat) (l : BitVec 16) (k c : Nat) : (s.report n p l k c).parts = s.parts := by cases p <;> cases n <;> simp [State.report]
@[simp] theorem State.report_dies (s : State) (n p : Option Nat) (l : BitVec 16) (k c : Nat) : (s.report n p l k c).dies = s.dies := by cases p <;> cases n <;> simp [State.report]
@[simp] theorem State.report_ptcs (s : State) (n p : Option Nat) (l : BitVec 16) (k c : Nat) : (s.report n p l k c).ptcs = s.ptcs := by cases p <;> cases n <;> simp [State.report]
@[simp] theorem State.report_patterns (s : State) (n p : Option Nat) (l : BitVec 16) (k c : Nat) : (s.report n p l k c).patterns = s.patterns := by cases p <;> cases n <;> simp [State.report]
@[simp] theorem State.report_posted (s : State) (n p : Option Nat) (l : BitVec 16) (k c : Nat) : (s.report n p l k c).posted = s.posted := by cases p <;> cases n <;> simp [State.report]
@[simp] theorem State.report_seams (s : State) (n p : Option Nat) (l : BitVec 16) (k c : Nat) : (s.report n p l k c).seams = s.seams := by cases p <;> cases n <;> simp [State.report]
@[simp] theorem State.report_strFit (s : State) (n p : Option Nat) (l : BitVec 16) (k c : Nat) : (s.report n p l k c).strFit = s.strFit := by cases p <;> cases n <;> simp [State.report]
@[simp] theorem State.report_modnum (s : State) (n p : Option Nat) (l : BitVec 16) (k c : Nat) : (s.report n p l k c).modnum = s.modnum := by cases p <;> cases n <;> simp [State.report]
@[simp] theorem State.report_reach (s : State) (n p : Option Nat) (l : BitVec 16) (k c : Nat) : (s.report n p l k c).reach = s.reach := by cases p <;> cases n <;> simp [State.report]
@[simp] theorem State.report_hostIn (s : State) (n p : Option Nat) (l : BitVec 16) (k c : Nat) : (s.report n p l k c).hostIn = s.hostIn := by cases p <;> cases n <;> simp [State.report]
@[simp] theorem State.report_sentOut (s : State) (n p : Option Nat) (l : BitVec 16) (k c : Nat) : (s.report n p l k c).sentOut = s.sentOut := by cases p <;> cases n <;> simp [State.report]
@[simp] theorem State.report_flints (s : State) (n p : Option Nat) (l : BitVec 16) (k c : Nat) : (s.report n p l k c).flints = s.flints := by cases p <;> cases n <;> simp [State.report]
@[simp] theorem State.report_flash (s : State) (n p : Option Nat) (l : BitVec 16) (k c : Nat) : (s.report n p l k c).flash = s.flash := by cases p <;> cases n <;> simp [State.report]
@[simp] theorem State.report_fuses (s : State) (n p : Option Nat) (l : BitVec 16) (k c : Nat) : (s.report n p l k c).fuses = s.fuses := by cases p <;> cases n <;> simp [State.report]
@[simp] theorem State.report_sec (s : State) (n p : Option Nat) (l : BitVec 16) (k c : Nat) : (s.report n p l k c).sec = s.sec := by cases p <;> cases n <;> simp [State.report]
@[simp] theorem State.report_rails (s : State) (n p : Option Nat) (l : BitVec 16) (k c : Nat) : (s.report n p l k c).rails = s.rails := by cases p <;> cases n <;> simp [State.report]
@[simp] theorem State.report_clkCur (s : State) (n p : Option Nat) (l : BitVec 16) (k c : Nat) : (s.report n p l k c).clkCur = s.clkCur := by cases p <;> cases n <;> simp [State.report]
@[simp] theorem State.report_clkReq (s : State) (n p : Option Nat) (l : BitVec 16) (k c : Nat) : (s.report n p l k c).clkReq = s.clkReq := by cases p <;> cases n <;> simp [State.report]
@[simp] theorem State.report_clkTo (s : State) (n p : Option Nat) (l : BitVec 16) (k c : Nat) : (s.report n p l k c).clkTo = s.clkTo := by cases p <;> cases n <;> simp [State.report]
@[simp] theorem State.report_clkBusy (s : State) (n p : Option Nat) (l : BitVec 16) (k c : Nat) : (s.report n p l k c).clkBusy = s.clkBusy := by cases p <;> cases n <;> simp [State.report]
@[simp] theorem State.report_pwrlim (s : State) (n p : Option Nat) (l : BitVec 16) (k c : Nat) : (s.report n p l k c).pwrlim = s.pwrlim := by cases p <;> cases n <;> simp [State.report]
@[simp] theorem State.report_pwrnow (s : State) (n p : Option Nat) (l : BitVec 16) (k c : Nat) : (s.report n p l k c).pwrnow = s.pwrnow := by cases p <;> cases n <;> simp [State.report]
@[simp] theorem State.report_throt (s : State) (n p : Option Nat) (l : BitVec 16) (k c : Nat) : (s.report n p l k c).throt = s.throt := by cases p <;> cases n <;> simp [State.report]
@[simp] theorem State.report_rate (s : State) (n p : Option Nat) (l : BitVec 16) (k c : Nat) : (s.report n p l k c).rate = s.rate := by cases p <;> cases n <;> simp [State.report]
@[simp] theorem State.report_temps (s : State) (n p : Option Nat) (l : BitVec 16) (k c : Nat) : (s.report n p l k c).temps = s.temps := by cases p <;> cases n <;> simp [State.report]
@[simp] theorem State.report_trains (s : State) (n p : Option Nat) (l : BitVec 16) (k c : Nat) : (s.report n p l k c).trains = s.trains := by cases p <;> cases n <;> simp [State.report]
@[simp] theorem State.report_porten (s : State) (n p : Option Nat) (l : BitVec 16) (k c : Nat) : (s.report n p l k c).porten = s.porten := by cases p <;> cases n <;> simp [State.report]
@[simp] theorem State.report_flitFails (s : State) (n p : Option Nat) (l : BitVec 16) (k c : Nat) : (s.report n p l k c).flitFails = s.flitFails := by cases p <;> cases n <;> simp [State.report]
@[simp] theorem State.report_brixDown (s : State) (n p : Option Nat) (l : BitVec 16) (k c : Nat) : (s.report n p l k c).brixDown = s.brixDown := by cases p <;> cases n <;> simp [State.report]
@[simp] theorem State.report_dark (s : State) (n p : Option Nat) (l : BitVec 16) (k c : Nat) : (s.report n p l k c).dark = s.dark := by cases p <;> cases n <;> simp [State.report]

/-! ### A register of the running bank -/

@[simp] theorem Core.setReg_pc (c : Core) (r : Reg) (v : Val) : (c.setReg r v).pc = c.pc := by unfold Core.setReg; split <;> [rfl; (split <;> rfl)]
@[simp] theorem Core.setReg_kpc (c : Core) (r : Reg) (v : Val) : (c.setReg r v).kpc = c.kpc := by unfold Core.setReg; split <;> [rfl; (split <;> rfl)]
@[simp] theorem Core.setReg_chn (c : Core) (r : Reg) (v : Val) : (c.setReg r v).chn = c.chn := by unfold Core.setReg; split <;> [rfl; (split <;> rfl)]
@[simp] theorem Core.setReg_csr (c : Core) (r : Reg) (v : Val) : (c.setReg r v).csr = c.csr := by unfold Core.setReg; split <;> [rfl; (split <;> rfl)]
@[simp] theorem Core.setReg_insn (c : Core) (r : Reg) (v : Val) : (c.setReg r v).insn = c.insn := by unfold Core.setReg; split <;> [rfl; (split <;> rfl)]
@[simp] theorem Core.setReg_stream (c : Core) (r : Reg) (v : Val) : (c.setReg r v).stream = c.stream := by unfold Core.setReg; split <;> [rfl; (split <;> rfl)]
@[simp] theorem Core.setReg_turn (c : Core) (r : Reg) (v : Val) : (c.setReg r v).turn = c.turn := by unfold Core.setReg; split <;> [rfl; (split <;> rfl)]
@[simp] theorem Core.setReg_task (c : Core) (r : Reg) (v : Val) : (c.setReg r v).task = c.task := by unfold Core.setReg; split <;> [rfl; (split <;> rfl)]
@[simp] theorem Core.setReg_svc (c : Core) (r : Reg) (v : Val) : (c.setReg r v).svc = c.svc := by unfold Core.setReg; split <;> [rfl; (split <;> rfl)]
@[simp] theorem Core.setReg_out (c : Core) (r : Reg) (v : Val) : (c.setReg r v).out = c.out := by unfold Core.setReg; split <;> [rfl; (split <;> rfl)]
@[simp] theorem Core.setReg_stalled (c : Core) (r : Reg) (v : Val) : (c.setReg r v).stalled = c.stalled := by unfold Core.setReg; split <;> [rfl; (split <;> rfl)]
@[simp] theorem Core.setReg_resetAt (c : Core) (r : Reg) (v : Val) : (c.setReg r v).resetAt = c.resetAt := by unfold Core.setReg; split <;> [rfl; (split <;> rfl)]
@[simp] theorem Core.setReg_tasks (c : Core) (r : Reg) (v : Val) : (c.setReg r v).tasks = c.tasks := by unfold Core.setReg; split <;> [rfl; (split <;> rfl)]
@[simp] theorem Core.setReg_binds (c : Core) (r : Reg) (v : Val) : (c.setReg r v).binds = c.binds := by unfold Core.setReg; split <;> [rfl; (split <;> rfl)]
@[simp] theorem Core.setReg_rep (c : Core) (r : Reg) (v : Val) : (c.setReg r v).rep = c.rep := by unfold Core.setReg; split <;> [rfl; (split <;> rfl)]
@[simp] theorem Core.setReg_aqs (c : Core) (r : Reg) (v : Val) : (c.setReg r v).aqs = c.aqs := by unfold Core.setReg; split <;> [rfl; (split <;> rfl)]
@[simp] theorem Core.setReg_link (c : Core) (r : Reg) (v : Val) : (c.setReg r v).link = c.link := by unfold Core.setReg; split <;> [rfl; (split <;> rfl)]
@[simp] theorem Core.setReg_stores (c : Core) (r : Reg) (v : Val) : (c.setReg r v).stores = c.stores := by unfold Core.setReg; split <;> [rfl; (split <;> rfl)]
@[simp] theorem Core.setReg_early (c : Core) (r : Reg) (v : Val) : (c.setReg r v).early = c.early := by unfold Core.setReg; split <;> [rfl; (split <;> rfl)]
@[simp] theorem Core.setReg_deps (c : Core) (r : Reg) (v : Val) : (c.setReg r v).deps = c.deps := by unfold Core.setReg; split <;> [rfl; (split <;> rfl)]
@[simp] theorem Core.setReg_loadAt (c : Core) (r : Reg) (v : Val) : (c.setReg r v).loadAt = c.loadAt := by unfold Core.setReg; split <;> [rfl; (split <;> rfl)]
@[simp] theorem Core.setReg_marked (c : Core) (r : Reg) (v : Val) : (c.setReg r v).marked = c.marked := by unfold Core.setReg; split <;> [rfl; (split <;> rfl)]
@[simp] theorem Core.setReg_pendRel (c : Core) (r : Reg) (v : Val) : (c.setReg r v).pendRel = c.pendRel := by unfold Core.setReg; split <;> [rfl; (split <;> rfl)]
@[simp] theorem Core.setReg_bodyRel (c : Core) (r : Reg) (v : Val) : (c.setReg r v).bodyRel = c.bodyRel := by unfold Core.setReg; split <;> [rfl; (split <;> rfl)]
@[simp] theorem Core.setReg_counters (c : Core) (r : Reg) (v : Val) : (c.setReg r v).counters = c.counters := by unfold Core.setReg; split <;> [rfl; (split <;> rfl)]
@[simp] theorem Core.setReg_handlers (c : Core) (r : Reg) (v : Val) : (c.setReg r v).handlers = c.handlers := by unfold Core.setReg; split <;> [rfl; (split <;> rfl)]
@[simp] theorem Core.setReg_windows (c : Core) (r : Reg) (v : Val) : (c.setReg r v).windows = c.windows := by unfold Core.setReg; split <;> [rfl; (split <;> rfl)]
@[simp] theorem Core.setReg_tblA (c : Core) (r : Reg) (v : Val) : (c.setReg r v).tblA = c.tblA := by unfold Core.setReg; split <;> [rfl; (split <;> rfl)]
@[simp] theorem Core.setReg_tblB (c : Core) (r : Reg) (v : Val) : (c.setReg r v).tblB = c.tblB := by unfold Core.setReg; split <;> [rfl; (split <;> rfl)]
@[simp] theorem Core.setReg_fit (c : Core) (r : Reg) (v : Val) : (c.setReg r v).fit = c.fit := by unfold Core.setReg; split <;> [rfl; (split <;> rfl)]
@[simp] theorem Core.setReg_wms (c : Core) (r : Reg) (v : Val) : (c.setReg r v).wms = c.wms := by unfold Core.setReg; split <;> [rfl; (split <;> rfl)]
@[simp] theorem Core.setReg_samples (c : Core) (r : Reg) (v : Val) : (c.setReg r v).samples = c.samples := by unfold Core.setReg; split <;> [rfl; (split <;> rfl)]
@[simp] theorem Core.setReg_lt (c : Core) (r : Reg) (v : Val) : (c.setReg r v).lt = c.lt := by unfold Core.setReg; split <;> [rfl; (split <;> rfl)]
@[simp] theorem Core.setReg_inbox (c : Core) (r : Reg) (v : Val) : (c.setReg r v).inbox = c.inbox := by unfold Core.setReg; split <;> [rfl; (split <;> rfl)]
@[simp] theorem Core.setReg_parked (c : Core) (r : Reg) (v : Val) : (c.setReg r v).parked = c.parked := by unfold Core.setReg; split <;> [rfl; (split <;> rfl)]
@[simp] theorem Core.setReg_evq (c : Core) (r : Reg) (v : Val) : (c.setReg r v).evq = c.evq := by unfold Core.setReg; split <;> [rfl; (split <;> rfl)]
@[simp] theorem Core.setReg_queues (c : Core) (r : Reg) (v : Val) : (c.setReg r v).queues = c.queues := by unfold Core.setReg; split <;> [rfl; (split <;> rfl)]
@[simp] theorem Core.setReg_kwork (c : Core) (r : Reg) (v : Val) : (c.setReg r v).kwork = c.kwork := by unfold Core.setReg; split <;> [rfl; (split <;> rfl)]
@[simp] theorem Core.setReg_sendBuf (c : Core) (r : Reg) (v : Val) : (c.setReg r v).sendBuf = c.sendBuf := by unfold Core.setReg; split <;> [rfl; (split <;> rfl)]
@[simp] theorem Core.setReg_ni (c : Core) (r : Reg) (v : Val) : (c.setReg r v).ni = c.ni := by unfold Core.setReg; split <;> [rfl; (split <;> rfl)]
@[simp] theorem Core.setReg_sendNo (c : Core) (r : Reg) (v : Val) : (c.setReg r v).sendNo = c.sendNo := by unfold Core.setReg; split <;> [rfl; (split <;> rfl)]
@[simp] theorem Core.setReg_orders (c : Core) (r : Reg) (v : Val) : (c.setReg r v).orders = c.orders := by unfold Core.setReg; split <;> [rfl; (split <;> rfl)]
@[simp] theorem Core.setReg_latch (c : Core) (r : Reg) (v : Val) : (c.setReg r v).latch = c.latch := by unfold Core.setReg; split <;> [rfl; (split <;> rfl)]
@[simp] theorem Core.setReg_inbound (c : Core) (r : Reg) (v : Val) : (c.setReg r v).inbound = c.inbound := by unfold Core.setReg; split <;> [rfl; (split <;> rfl)]
@[simp] theorem Core.setReg_loading (c : Core) (r : Reg) (v : Val) : (c.setReg r v).loading = c.loading := by unfold Core.setReg; split <;> [rfl; (split <;> rfl)]
@[simp] theorem Core.setReg_mxq (c : Core) (r : Reg) (v : Val) : (c.setReg r v).mxq = c.mxq := by unfold Core.setReg; split <;> [rfl; (split <;> rfl)]
@[simp] theorem Core.setReg_slots (c : Core) (r : Reg) (v : Val) : (c.setReg r v).slots = c.slots := by unfold Core.setReg; split <;> [rfl; (split <;> rfl)]
@[simp] theorem Core.setReg_weight (c : Core) (r : Reg) (v : Val) : (c.setReg r v).weight = c.weight := by unfold Core.setReg; split <;> [rfl; (split <;> rfl)]
@[simp] theorem Core.setReg_mxFault (c : Core) (r : Reg) (v : Val) : (c.setReg r v).mxFault = c.mxFault := by unfold Core.setReg; split <;> [rfl; (split <;> rfl)]
@[simp] theorem Core.setReg_sc (c : Core) (r : Reg) (v : Val) : (c.setReg r v).sc = c.sc := by unfold Core.setReg; split <;> [rfl; (split <;> rfl)]
@[simp] theorem Core.setReg_rread (c : Core) (r : Reg) (v : Val) : (c.setReg r v).rread = c.rread := by unfold Core.setReg; split <;> [rfl; (split <;> rfl)]
@[simp] theorem Core.setReg_unpick (c : Core) (r : Reg) (v : Val) : (c.setReg r v).unpick = c.unpick := by unfold Core.setReg; split <;> [rfl; (split <;> rfl)]
@[simp] theorem Core.setReg_routines (c : Core) (r : Reg) (v : Val) : (c.setReg r v).routines = c.routines := by unfold Core.setReg; split <;> [rfl; (split <;> rfl)]
@[simp] theorem Core.setReg_install (c : Core) (r : Reg) (v : Val) : (c.setReg r v).install = c.install := by unfold Core.setReg; split <;> [rfl; (split <;> rfl)]
@[simp] theorem Core.setReg_reported (c : Core) (r : Reg) (v : Val) : (c.setReg r v).reported = c.reported := by unfold Core.setReg; split <;> [rfl; (split <;> rfl)]
@[simp] theorem Core.setReg_hold (c : Core) (r : Reg) (v : Val) : (c.setReg r v).hold = c.hold := by unfold Core.setReg; split <;> [rfl; (split <;> rfl)]
@[simp] theorem Core.setReg_discards (c : Core) (r : Reg) (v : Val) : (c.setReg r v).discards = c.discards := by unfold Core.setReg; split <;> [rfl; (split <;> rfl)]

/-! ### Early loads of bytes dropped -/

@[simp] theorem Core.notEarly_regs (c : Core) (a n : Nat) : (c.notEarly a n).regs = c.regs := rfl
@[simp] theorem Core.notEarly_kregs (c : Core) (a n : Nat) : (c.notEarly a n).kregs = c.kregs := rfl
@[simp] theorem Core.notEarly_pc (c : Core) (a n : Nat) : (c.notEarly a n).pc = c.pc := rfl
@[simp] theorem Core.notEarly_kpc (c : Core) (a n : Nat) : (c.notEarly a n).kpc = c.kpc := rfl
@[simp] theorem Core.notEarly_chn (c : Core) (a n : Nat) : (c.notEarly a n).chn = c.chn := rfl
@[simp] theorem Core.notEarly_csr (c : Core) (a n : Nat) : (c.notEarly a n).csr = c.csr := rfl
@[simp] theorem Core.notEarly_insn (c : Core) (a n : Nat) : (c.notEarly a n).insn = c.insn := rfl
@[simp] theorem Core.notEarly_stream (c : Core) (a n : Nat) : (c.notEarly a n).stream = c.stream := rfl
@[simp] theorem Core.notEarly_turn (c : Core) (a n : Nat) : (c.notEarly a n).turn = c.turn := rfl
@[simp] theorem Core.notEarly_task (c : Core) (a n : Nat) : (c.notEarly a n).task = c.task := rfl
@[simp] theorem Core.notEarly_svc (c : Core) (a n : Nat) : (c.notEarly a n).svc = c.svc := rfl
@[simp] theorem Core.notEarly_out (c : Core) (a n : Nat) : (c.notEarly a n).out = c.out := rfl
@[simp] theorem Core.notEarly_stalled (c : Core) (a n : Nat) : (c.notEarly a n).stalled = c.stalled := rfl
@[simp] theorem Core.notEarly_resetAt (c : Core) (a n : Nat) : (c.notEarly a n).resetAt = c.resetAt := rfl
@[simp] theorem Core.notEarly_tasks (c : Core) (a n : Nat) : (c.notEarly a n).tasks = c.tasks := rfl
@[simp] theorem Core.notEarly_binds (c : Core) (a n : Nat) : (c.notEarly a n).binds = c.binds := rfl
@[simp] theorem Core.notEarly_rep (c : Core) (a n : Nat) : (c.notEarly a n).rep = c.rep := rfl
@[simp] theorem Core.notEarly_aqs (c : Core) (a n : Nat) : (c.notEarly a n).aqs = c.aqs := rfl
@[simp] theorem Core.notEarly_link (c : Core) (a n : Nat) : (c.notEarly a n).link = c.link := rfl
@[simp] theorem Core.notEarly_stores (c : Core) (a n : Nat) : (c.notEarly a n).stores = c.stores := rfl
@[simp] theorem Core.notEarly_deps (c : Core) (a n : Nat) : (c.notEarly a n).deps = c.deps := rfl
@[simp] theorem Core.notEarly_loadAt (c : Core) (a n : Nat) : (c.notEarly a n).loadAt = c.loadAt := rfl
@[simp] theorem Core.notEarly_marked (c : Core) (a n : Nat) : (c.notEarly a n).marked = c.marked := rfl
@[simp] theorem Core.notEarly_pendRel (c : Core) (a n : Nat) : (c.notEarly a n).pendRel = c.pendRel := rfl
@[simp] theorem Core.notEarly_bodyRel (c : Core) (a n : Nat) : (c.notEarly a n).bodyRel = c.bodyRel := rfl
@[simp] theorem Core.notEarly_counters (c : Core) (a n : Nat) : (c.notEarly a n).counters = c.counters := rfl
@[simp] theorem Core.notEarly_handlers (c : Core) (a n : Nat) : (c.notEarly a n).handlers = c.handlers := rfl
@[simp] theorem Core.notEarly_windows (c : Core) (a n : Nat) : (c.notEarly a n).windows = c.windows := rfl
@[simp] theorem Core.notEarly_tblA (c : Core) (a n : Nat) : (c.notEarly a n).tblA = c.tblA := rfl
@[simp] theorem Core.notEarly_tblB (c : Core) (a n : Nat) : (c.notEarly a n).tblB = c.tblB := rfl
@[simp] theorem Core.notEarly_fit (c : Core) (a n : Nat) : (c.notEarly a n).fit = c.fit := rfl
@[simp] theorem Core.notEarly_wms (c : Core) (a n : Nat) : (c.notEarly a n).wms = c.wms := rfl
@[simp] theorem Core.notEarly_samples (c : Core) (a n : Nat) : (c.notEarly a n).samples = c.samples := rfl
@[simp] theorem Core.notEarly_lt (c : Core) (a n : Nat) : (c.notEarly a n).lt = c.lt := rfl
@[simp] theorem Core.notEarly_inbox (c : Core) (a n : Nat) : (c.notEarly a n).inbox = c.inbox := rfl
@[simp] theorem Core.notEarly_parked (c : Core) (a n : Nat) : (c.notEarly a n).parked = c.parked := rfl
@[simp] theorem Core.notEarly_evq (c : Core) (a n : Nat) : (c.notEarly a n).evq = c.evq := rfl
@[simp] theorem Core.notEarly_queues (c : Core) (a n : Nat) : (c.notEarly a n).queues = c.queues := rfl
@[simp] theorem Core.notEarly_kwork (c : Core) (a n : Nat) : (c.notEarly a n).kwork = c.kwork := rfl
@[simp] theorem Core.notEarly_sendBuf (c : Core) (a n : Nat) : (c.notEarly a n).sendBuf = c.sendBuf := rfl
@[simp] theorem Core.notEarly_ni (c : Core) (a n : Nat) : (c.notEarly a n).ni = c.ni := rfl
@[simp] theorem Core.notEarly_sendNo (c : Core) (a n : Nat) : (c.notEarly a n).sendNo = c.sendNo := rfl
@[simp] theorem Core.notEarly_orders (c : Core) (a n : Nat) : (c.notEarly a n).orders = c.orders := rfl
@[simp] theorem Core.notEarly_latch (c : Core) (a n : Nat) : (c.notEarly a n).latch = c.latch := rfl
@[simp] theorem Core.notEarly_inbound (c : Core) (a n : Nat) : (c.notEarly a n).inbound = c.inbound := rfl
@[simp] theorem Core.notEarly_loading (c : Core) (a n : Nat) : (c.notEarly a n).loading = c.loading := rfl
@[simp] theorem Core.notEarly_mxq (c : Core) (a n : Nat) : (c.notEarly a n).mxq = c.mxq := rfl
@[simp] theorem Core.notEarly_slots (c : Core) (a n : Nat) : (c.notEarly a n).slots = c.slots := rfl
@[simp] theorem Core.notEarly_weight (c : Core) (a n : Nat) : (c.notEarly a n).weight = c.weight := rfl
@[simp] theorem Core.notEarly_mxFault (c : Core) (a n : Nat) : (c.notEarly a n).mxFault = c.mxFault := rfl
@[simp] theorem Core.notEarly_sc (c : Core) (a n : Nat) : (c.notEarly a n).sc = c.sc := rfl
@[simp] theorem Core.notEarly_rread (c : Core) (a n : Nat) : (c.notEarly a n).rread = c.rread := rfl
@[simp] theorem Core.notEarly_unpick (c : Core) (a n : Nat) : (c.notEarly a n).unpick = c.unpick := rfl
@[simp] theorem Core.notEarly_routines (c : Core) (a n : Nat) : (c.notEarly a n).routines = c.routines := rfl
@[simp] theorem Core.notEarly_install (c : Core) (a n : Nat) : (c.notEarly a n).install = c.install := rfl
@[simp] theorem Core.notEarly_reported (c : Core) (a n : Nat) : (c.notEarly a n).reported = c.reported := rfl
@[simp] theorem Core.notEarly_hold (c : Core) (a n : Nat) : (c.notEarly a n).hold = c.hold := rfl
@[simp] theorem Core.notEarly_discards (c : Core) (a n : Nat) : (c.notEarly a n).discards = c.discards := rfl

/-! ### An acquire -/

@[simp] theorem Core.acquires_regs (c : Core) : (c.acquires).regs = c.regs := rfl
@[simp] theorem Core.acquires_kregs (c : Core) : (c.acquires).kregs = c.kregs := rfl
@[simp] theorem Core.acquires_pc (c : Core) : (c.acquires).pc = c.pc := rfl
@[simp] theorem Core.acquires_kpc (c : Core) : (c.acquires).kpc = c.kpc := rfl
@[simp] theorem Core.acquires_chn (c : Core) : (c.acquires).chn = c.chn := rfl
@[simp] theorem Core.acquires_csr (c : Core) : (c.acquires).csr = c.csr := rfl
@[simp] theorem Core.acquires_insn (c : Core) : (c.acquires).insn = c.insn := rfl
@[simp] theorem Core.acquires_stream (c : Core) : (c.acquires).stream = c.stream := rfl
@[simp] theorem Core.acquires_turn (c : Core) : (c.acquires).turn = c.turn := rfl
@[simp] theorem Core.acquires_task (c : Core) : (c.acquires).task = c.task := rfl
@[simp] theorem Core.acquires_svc (c : Core) : (c.acquires).svc = c.svc := rfl
@[simp] theorem Core.acquires_out (c : Core) : (c.acquires).out = c.out := rfl
@[simp] theorem Core.acquires_stalled (c : Core) : (c.acquires).stalled = c.stalled := rfl
@[simp] theorem Core.acquires_resetAt (c : Core) : (c.acquires).resetAt = c.resetAt := rfl
@[simp] theorem Core.acquires_tasks (c : Core) : (c.acquires).tasks = c.tasks := rfl
@[simp] theorem Core.acquires_binds (c : Core) : (c.acquires).binds = c.binds := rfl
@[simp] theorem Core.acquires_rep (c : Core) : (c.acquires).rep = c.rep := rfl
@[simp] theorem Core.acquires_aqs (c : Core) : (c.acquires).aqs = c.aqs := rfl
@[simp] theorem Core.acquires_link (c : Core) : (c.acquires).link = c.link := rfl
@[simp] theorem Core.acquires_stores (c : Core) : (c.acquires).stores = c.stores := rfl
@[simp] theorem Core.acquires_deps (c : Core) : (c.acquires).deps = c.deps := rfl
@[simp] theorem Core.acquires_loadAt (c : Core) : (c.acquires).loadAt = c.loadAt := rfl
@[simp] theorem Core.acquires_marked (c : Core) : (c.acquires).marked = c.marked := rfl
@[simp] theorem Core.acquires_pendRel (c : Core) : (c.acquires).pendRel = c.pendRel := rfl
@[simp] theorem Core.acquires_bodyRel (c : Core) : (c.acquires).bodyRel = c.bodyRel := rfl
@[simp] theorem Core.acquires_counters (c : Core) : (c.acquires).counters = c.counters := rfl
@[simp] theorem Core.acquires_handlers (c : Core) : (c.acquires).handlers = c.handlers := rfl
@[simp] theorem Core.acquires_windows (c : Core) : (c.acquires).windows = c.windows := rfl
@[simp] theorem Core.acquires_tblA (c : Core) : (c.acquires).tblA = c.tblA := rfl
@[simp] theorem Core.acquires_tblB (c : Core) : (c.acquires).tblB = c.tblB := rfl
@[simp] theorem Core.acquires_fit (c : Core) : (c.acquires).fit = c.fit := rfl
@[simp] theorem Core.acquires_wms (c : Core) : (c.acquires).wms = c.wms := rfl
@[simp] theorem Core.acquires_samples (c : Core) : (c.acquires).samples = c.samples := rfl
@[simp] theorem Core.acquires_lt (c : Core) : (c.acquires).lt = c.lt := rfl
@[simp] theorem Core.acquires_inbox (c : Core) : (c.acquires).inbox = c.inbox := rfl
@[simp] theorem Core.acquires_parked (c : Core) : (c.acquires).parked = c.parked := rfl
@[simp] theorem Core.acquires_evq (c : Core) : (c.acquires).evq = c.evq := rfl
@[simp] theorem Core.acquires_queues (c : Core) : (c.acquires).queues = c.queues := rfl
@[simp] theorem Core.acquires_kwork (c : Core) : (c.acquires).kwork = c.kwork := rfl
@[simp] theorem Core.acquires_sendBuf (c : Core) : (c.acquires).sendBuf = c.sendBuf := rfl
@[simp] theorem Core.acquires_ni (c : Core) : (c.acquires).ni = c.ni := rfl
@[simp] theorem Core.acquires_sendNo (c : Core) : (c.acquires).sendNo = c.sendNo := rfl
@[simp] theorem Core.acquires_orders (c : Core) : (c.acquires).orders = c.orders := rfl
@[simp] theorem Core.acquires_latch (c : Core) : (c.acquires).latch = c.latch := rfl
@[simp] theorem Core.acquires_inbound (c : Core) : (c.acquires).inbound = c.inbound := rfl
@[simp] theorem Core.acquires_loading (c : Core) : (c.acquires).loading = c.loading := rfl
@[simp] theorem Core.acquires_mxq (c : Core) : (c.acquires).mxq = c.mxq := rfl
@[simp] theorem Core.acquires_slots (c : Core) : (c.acquires).slots = c.slots := rfl
@[simp] theorem Core.acquires_weight (c : Core) : (c.acquires).weight = c.weight := rfl
@[simp] theorem Core.acquires_mxFault (c : Core) : (c.acquires).mxFault = c.mxFault := rfl
@[simp] theorem Core.acquires_sc (c : Core) : (c.acquires).sc = c.sc := rfl
@[simp] theorem Core.acquires_rread (c : Core) : (c.acquires).rread = c.rread := rfl
@[simp] theorem Core.acquires_unpick (c : Core) : (c.acquires).unpick = c.unpick := rfl
@[simp] theorem Core.acquires_routines (c : Core) : (c.acquires).routines = c.routines := rfl
@[simp] theorem Core.acquires_install (c : Core) : (c.acquires).install = c.install := rfl
@[simp] theorem Core.acquires_reported (c : Core) : (c.acquires).reported = c.reported := rfl
@[simp] theorem Core.acquires_hold (c : Core) : (c.acquires).hold = c.hold := rfl
@[simp] theorem Core.acquires_discards (c : Core) : (c.acquires).discards = c.discards := rfl

/-! ### A stalled access that proceeds -/

@[simp] theorem Core.marksPassed_regs (c : Core) : (c.marksPassed).regs = c.regs := rfl
@[simp] theorem Core.marksPassed_kregs (c : Core) : (c.marksPassed).kregs = c.kregs := rfl
@[simp] theorem Core.marksPassed_pc (c : Core) : (c.marksPassed).pc = c.pc := rfl
@[simp] theorem Core.marksPassed_kpc (c : Core) : (c.marksPassed).kpc = c.kpc := rfl
@[simp] theorem Core.marksPassed_chn (c : Core) : (c.marksPassed).chn = c.chn := rfl
@[simp] theorem Core.marksPassed_csr (c : Core) : (c.marksPassed).csr = c.csr := rfl
@[simp] theorem Core.marksPassed_insn (c : Core) : (c.marksPassed).insn = c.insn := rfl
@[simp] theorem Core.marksPassed_stream (c : Core) : (c.marksPassed).stream = c.stream := rfl
@[simp] theorem Core.marksPassed_turn (c : Core) : (c.marksPassed).turn = c.turn := rfl
@[simp] theorem Core.marksPassed_task (c : Core) : (c.marksPassed).task = c.task := rfl
@[simp] theorem Core.marksPassed_svc (c : Core) : (c.marksPassed).svc = c.svc := rfl
@[simp] theorem Core.marksPassed_out (c : Core) : (c.marksPassed).out = c.out := rfl
@[simp] theorem Core.marksPassed_stalled (c : Core) : (c.marksPassed).stalled = c.stalled := rfl
@[simp] theorem Core.marksPassed_resetAt (c : Core) : (c.marksPassed).resetAt = c.resetAt := rfl
@[simp] theorem Core.marksPassed_tasks (c : Core) : (c.marksPassed).tasks = c.tasks := rfl
@[simp] theorem Core.marksPassed_binds (c : Core) : (c.marksPassed).binds = c.binds := rfl
@[simp] theorem Core.marksPassed_rep (c : Core) : (c.marksPassed).rep = c.rep := rfl
@[simp] theorem Core.marksPassed_aqs (c : Core) : (c.marksPassed).aqs = c.aqs := rfl
@[simp] theorem Core.marksPassed_link (c : Core) : (c.marksPassed).link = c.link := rfl
@[simp] theorem Core.marksPassed_stores (c : Core) : (c.marksPassed).stores = c.stores := rfl
@[simp] theorem Core.marksPassed_deps (c : Core) : (c.marksPassed).deps = c.deps := rfl
@[simp] theorem Core.marksPassed_loadAt (c : Core) : (c.marksPassed).loadAt = c.loadAt := rfl
@[simp] theorem Core.marksPassed_pendRel (c : Core) : (c.marksPassed).pendRel = c.pendRel := rfl
@[simp] theorem Core.marksPassed_bodyRel (c : Core) : (c.marksPassed).bodyRel = c.bodyRel := rfl
@[simp] theorem Core.marksPassed_counters (c : Core) : (c.marksPassed).counters = c.counters := rfl
@[simp] theorem Core.marksPassed_handlers (c : Core) : (c.marksPassed).handlers = c.handlers := rfl
@[simp] theorem Core.marksPassed_windows (c : Core) : (c.marksPassed).windows = c.windows := rfl
@[simp] theorem Core.marksPassed_tblA (c : Core) : (c.marksPassed).tblA = c.tblA := rfl
@[simp] theorem Core.marksPassed_tblB (c : Core) : (c.marksPassed).tblB = c.tblB := rfl
@[simp] theorem Core.marksPassed_fit (c : Core) : (c.marksPassed).fit = c.fit := rfl
@[simp] theorem Core.marksPassed_wms (c : Core) : (c.marksPassed).wms = c.wms := rfl
@[simp] theorem Core.marksPassed_samples (c : Core) : (c.marksPassed).samples = c.samples := rfl
@[simp] theorem Core.marksPassed_lt (c : Core) : (c.marksPassed).lt = c.lt := rfl
@[simp] theorem Core.marksPassed_inbox (c : Core) : (c.marksPassed).inbox = c.inbox := rfl
@[simp] theorem Core.marksPassed_parked (c : Core) : (c.marksPassed).parked = c.parked := rfl
@[simp] theorem Core.marksPassed_evq (c : Core) : (c.marksPassed).evq = c.evq := rfl
@[simp] theorem Core.marksPassed_queues (c : Core) : (c.marksPassed).queues = c.queues := rfl
@[simp] theorem Core.marksPassed_kwork (c : Core) : (c.marksPassed).kwork = c.kwork := rfl
@[simp] theorem Core.marksPassed_sendBuf (c : Core) : (c.marksPassed).sendBuf = c.sendBuf := rfl
@[simp] theorem Core.marksPassed_ni (c : Core) : (c.marksPassed).ni = c.ni := rfl
@[simp] theorem Core.marksPassed_sendNo (c : Core) : (c.marksPassed).sendNo = c.sendNo := rfl
@[simp] theorem Core.marksPassed_orders (c : Core) : (c.marksPassed).orders = c.orders := rfl
@[simp] theorem Core.marksPassed_latch (c : Core) : (c.marksPassed).latch = c.latch := rfl
@[simp] theorem Core.marksPassed_inbound (c : Core) : (c.marksPassed).inbound = c.inbound := rfl
@[simp] theorem Core.marksPassed_loading (c : Core) : (c.marksPassed).loading = c.loading := rfl
@[simp] theorem Core.marksPassed_mxq (c : Core) : (c.marksPassed).mxq = c.mxq := rfl
@[simp] theorem Core.marksPassed_slots (c : Core) : (c.marksPassed).slots = c.slots := rfl
@[simp] theorem Core.marksPassed_weight (c : Core) : (c.marksPassed).weight = c.weight := rfl
@[simp] theorem Core.marksPassed_mxFault (c : Core) : (c.marksPassed).mxFault = c.mxFault := rfl
@[simp] theorem Core.marksPassed_sc (c : Core) : (c.marksPassed).sc = c.sc := rfl
@[simp] theorem Core.marksPassed_rread (c : Core) : (c.marksPassed).rread = c.rread := rfl
@[simp] theorem Core.marksPassed_unpick (c : Core) : (c.marksPassed).unpick = c.unpick := rfl
@[simp] theorem Core.marksPassed_routines (c : Core) : (c.marksPassed).routines = c.routines := rfl
@[simp] theorem Core.marksPassed_install (c : Core) : (c.marksPassed).install = c.install := rfl
@[simp] theorem Core.marksPassed_reported (c : Core) : (c.marksPassed).reported = c.reported := rfl
@[simp] theorem Core.marksPassed_hold (c : Core) : (c.marksPassed).hold = c.hold := rfl
@[simp] theorem Core.marksPassed_discards (c : Core) : (c.marksPassed).discards = c.discards := rfl

/-! ### A load that is made -/

@[simp] theorem Core.loaded_regs (c : Core) (d a n t : Nat) : (c.loaded d a n t).regs = c.regs := rfl
@[simp] theorem Core.loaded_kregs (c : Core) (d a n t : Nat) : (c.loaded d a n t).kregs = c.kregs := rfl
@[simp] theorem Core.loaded_pc (c : Core) (d a n t : Nat) : (c.loaded d a n t).pc = c.pc := rfl
@[simp] theorem Core.loaded_kpc (c : Core) (d a n t : Nat) : (c.loaded d a n t).kpc = c.kpc := rfl
@[simp] theorem Core.loaded_chn (c : Core) (d a n t : Nat) : (c.loaded d a n t).chn = c.chn := rfl
@[simp] theorem Core.loaded_csr (c : Core) (d a n t : Nat) : (c.loaded d a n t).csr = c.csr := rfl
@[simp] theorem Core.loaded_insn (c : Core) (d a n t : Nat) : (c.loaded d a n t).insn = c.insn := rfl
@[simp] theorem Core.loaded_stream (c : Core) (d a n t : Nat) : (c.loaded d a n t).stream = c.stream := rfl
@[simp] theorem Core.loaded_turn (c : Core) (d a n t : Nat) : (c.loaded d a n t).turn = c.turn := rfl
@[simp] theorem Core.loaded_task (c : Core) (d a n t : Nat) : (c.loaded d a n t).task = c.task := rfl
@[simp] theorem Core.loaded_svc (c : Core) (d a n t : Nat) : (c.loaded d a n t).svc = c.svc := rfl
@[simp] theorem Core.loaded_out (c : Core) (d a n t : Nat) : (c.loaded d a n t).out = c.out := rfl
@[simp] theorem Core.loaded_stalled (c : Core) (d a n t : Nat) : (c.loaded d a n t).stalled = c.stalled := rfl
@[simp] theorem Core.loaded_resetAt (c : Core) (d a n t : Nat) : (c.loaded d a n t).resetAt = c.resetAt := rfl
@[simp] theorem Core.loaded_tasks (c : Core) (d a n t : Nat) : (c.loaded d a n t).tasks = c.tasks := rfl
@[simp] theorem Core.loaded_binds (c : Core) (d a n t : Nat) : (c.loaded d a n t).binds = c.binds := rfl
@[simp] theorem Core.loaded_rep (c : Core) (d a n t : Nat) : (c.loaded d a n t).rep = c.rep := rfl
@[simp] theorem Core.loaded_aqs (c : Core) (d a n t : Nat) : (c.loaded d a n t).aqs = c.aqs := rfl
@[simp] theorem Core.loaded_link (c : Core) (d a n t : Nat) : (c.loaded d a n t).link = c.link := rfl
@[simp] theorem Core.loaded_stores (c : Core) (d a n t : Nat) : (c.loaded d a n t).stores = c.stores := rfl
@[simp] theorem Core.loaded_deps (c : Core) (d a n t : Nat) : (c.loaded d a n t).deps = c.deps := rfl
@[simp] theorem Core.loaded_marked (c : Core) (d a n t : Nat) : (c.loaded d a n t).marked = c.marked := rfl
@[simp] theorem Core.loaded_pendRel (c : Core) (d a n t : Nat) : (c.loaded d a n t).pendRel = c.pendRel := rfl
@[simp] theorem Core.loaded_bodyRel (c : Core) (d a n t : Nat) : (c.loaded d a n t).bodyRel = c.bodyRel := rfl
@[simp] theorem Core.loaded_counters (c : Core) (d a n t : Nat) : (c.loaded d a n t).counters = c.counters := rfl
@[simp] theorem Core.loaded_handlers (c : Core) (d a n t : Nat) : (c.loaded d a n t).handlers = c.handlers := rfl
@[simp] theorem Core.loaded_windows (c : Core) (d a n t : Nat) : (c.loaded d a n t).windows = c.windows := rfl
@[simp] theorem Core.loaded_tblA (c : Core) (d a n t : Nat) : (c.loaded d a n t).tblA = c.tblA := rfl
@[simp] theorem Core.loaded_tblB (c : Core) (d a n t : Nat) : (c.loaded d a n t).tblB = c.tblB := rfl
@[simp] theorem Core.loaded_fit (c : Core) (d a n t : Nat) : (c.loaded d a n t).fit = c.fit := rfl
@[simp] theorem Core.loaded_wms (c : Core) (d a n t : Nat) : (c.loaded d a n t).wms = c.wms := rfl
@[simp] theorem Core.loaded_samples (c : Core) (d a n t : Nat) : (c.loaded d a n t).samples = c.samples := rfl
@[simp] theorem Core.loaded_lt (c : Core) (d a n t : Nat) : (c.loaded d a n t).lt = c.lt := rfl
@[simp] theorem Core.loaded_inbox (c : Core) (d a n t : Nat) : (c.loaded d a n t).inbox = c.inbox := rfl
@[simp] theorem Core.loaded_parked (c : Core) (d a n t : Nat) : (c.loaded d a n t).parked = c.parked := rfl
@[simp] theorem Core.loaded_evq (c : Core) (d a n t : Nat) : (c.loaded d a n t).evq = c.evq := rfl
@[simp] theorem Core.loaded_queues (c : Core) (d a n t : Nat) : (c.loaded d a n t).queues = c.queues := rfl
@[simp] theorem Core.loaded_kwork (c : Core) (d a n t : Nat) : (c.loaded d a n t).kwork = c.kwork := rfl
@[simp] theorem Core.loaded_sendBuf (c : Core) (d a n t : Nat) : (c.loaded d a n t).sendBuf = c.sendBuf := rfl
@[simp] theorem Core.loaded_ni (c : Core) (d a n t : Nat) : (c.loaded d a n t).ni = c.ni := rfl
@[simp] theorem Core.loaded_sendNo (c : Core) (d a n t : Nat) : (c.loaded d a n t).sendNo = c.sendNo := rfl
@[simp] theorem Core.loaded_orders (c : Core) (d a n t : Nat) : (c.loaded d a n t).orders = c.orders := rfl
@[simp] theorem Core.loaded_latch (c : Core) (d a n t : Nat) : (c.loaded d a n t).latch = c.latch := rfl
@[simp] theorem Core.loaded_inbound (c : Core) (d a n t : Nat) : (c.loaded d a n t).inbound = c.inbound := rfl
@[simp] theorem Core.loaded_loading (c : Core) (d a n t : Nat) : (c.loaded d a n t).loading = c.loading := rfl
@[simp] theorem Core.loaded_mxq (c : Core) (d a n t : Nat) : (c.loaded d a n t).mxq = c.mxq := rfl
@[simp] theorem Core.loaded_slots (c : Core) (d a n t : Nat) : (c.loaded d a n t).slots = c.slots := rfl
@[simp] theorem Core.loaded_weight (c : Core) (d a n t : Nat) : (c.loaded d a n t).weight = c.weight := rfl
@[simp] theorem Core.loaded_mxFault (c : Core) (d a n t : Nat) : (c.loaded d a n t).mxFault = c.mxFault := rfl
@[simp] theorem Core.loaded_sc (c : Core) (d a n t : Nat) : (c.loaded d a n t).sc = c.sc := rfl
@[simp] theorem Core.loaded_rread (c : Core) (d a n t : Nat) : (c.loaded d a n t).rread = c.rread := rfl
@[simp] theorem Core.loaded_unpick (c : Core) (d a n t : Nat) : (c.loaded d a n t).unpick = c.unpick := rfl
@[simp] theorem Core.loaded_routines (c : Core) (d a n t : Nat) : (c.loaded d a n t).routines = c.routines := rfl
@[simp] theorem Core.loaded_install (c : Core) (d a n t : Nat) : (c.loaded d a n t).install = c.install := rfl
@[simp] theorem Core.loaded_reported (c : Core) (d a n t : Nat) : (c.loaded d a n t).reported = c.reported := rfl
@[simp] theorem Core.loaded_hold (c : Core) (d a n t : Nat) : (c.loaded d a n t).hold = c.hold := rfl
@[simp] theorem Core.loaded_discards (c : Core) (d a n t : Nat) : (c.loaded d a n t).discards = c.discards := rfl

/-! ### The owed release -/

@[simp] theorem Core.setOwed_regs (c : Core) (r : Option Scope) : (c.setOwed r).regs = c.regs := by unfold Core.setOwed; split <;> rfl
@[simp] theorem Core.setOwed_kregs (c : Core) (r : Option Scope) : (c.setOwed r).kregs = c.kregs := by unfold Core.setOwed; split <;> rfl
@[simp] theorem Core.setOwed_pc (c : Core) (r : Option Scope) : (c.setOwed r).pc = c.pc := by unfold Core.setOwed; split <;> rfl
@[simp] theorem Core.setOwed_kpc (c : Core) (r : Option Scope) : (c.setOwed r).kpc = c.kpc := by unfold Core.setOwed; split <;> rfl
@[simp] theorem Core.setOwed_chn (c : Core) (r : Option Scope) : (c.setOwed r).chn = c.chn := by unfold Core.setOwed; split <;> rfl
@[simp] theorem Core.setOwed_csr (c : Core) (r : Option Scope) : (c.setOwed r).csr = c.csr := by unfold Core.setOwed; split <;> rfl
@[simp] theorem Core.setOwed_insn (c : Core) (r : Option Scope) : (c.setOwed r).insn = c.insn := by unfold Core.setOwed; split <;> rfl
@[simp] theorem Core.setOwed_stream (c : Core) (r : Option Scope) : (c.setOwed r).stream = c.stream := by unfold Core.setOwed; split <;> rfl
@[simp] theorem Core.setOwed_turn (c : Core) (r : Option Scope) : (c.setOwed r).turn = c.turn := by unfold Core.setOwed; split <;> rfl
@[simp] theorem Core.setOwed_task (c : Core) (r : Option Scope) : (c.setOwed r).task = c.task := by unfold Core.setOwed; split <;> rfl
@[simp] theorem Core.setOwed_svc (c : Core) (r : Option Scope) : (c.setOwed r).svc = c.svc := by unfold Core.setOwed; split <;> rfl
@[simp] theorem Core.setOwed_out (c : Core) (r : Option Scope) : (c.setOwed r).out = c.out := by unfold Core.setOwed; split <;> rfl
@[simp] theorem Core.setOwed_stalled (c : Core) (r : Option Scope) : (c.setOwed r).stalled = c.stalled := by unfold Core.setOwed; split <;> rfl
@[simp] theorem Core.setOwed_resetAt (c : Core) (r : Option Scope) : (c.setOwed r).resetAt = c.resetAt := by unfold Core.setOwed; split <;> rfl
@[simp] theorem Core.setOwed_tasks (c : Core) (r : Option Scope) : (c.setOwed r).tasks = c.tasks := by unfold Core.setOwed; split <;> rfl
@[simp] theorem Core.setOwed_binds (c : Core) (r : Option Scope) : (c.setOwed r).binds = c.binds := by unfold Core.setOwed; split <;> rfl
@[simp] theorem Core.setOwed_rep (c : Core) (r : Option Scope) : (c.setOwed r).rep = c.rep := by unfold Core.setOwed; split <;> rfl
@[simp] theorem Core.setOwed_aqs (c : Core) (r : Option Scope) : (c.setOwed r).aqs = c.aqs := by unfold Core.setOwed; split <;> rfl
@[simp] theorem Core.setOwed_link (c : Core) (r : Option Scope) : (c.setOwed r).link = c.link := by unfold Core.setOwed; split <;> rfl
@[simp] theorem Core.setOwed_stores (c : Core) (r : Option Scope) : (c.setOwed r).stores = c.stores := by unfold Core.setOwed; split <;> rfl
@[simp] theorem Core.setOwed_early (c : Core) (r : Option Scope) : (c.setOwed r).early = c.early := by unfold Core.setOwed; split <;> rfl
@[simp] theorem Core.setOwed_deps (c : Core) (r : Option Scope) : (c.setOwed r).deps = c.deps := by unfold Core.setOwed; split <;> rfl
@[simp] theorem Core.setOwed_loadAt (c : Core) (r : Option Scope) : (c.setOwed r).loadAt = c.loadAt := by unfold Core.setOwed; split <;> rfl
@[simp] theorem Core.setOwed_marked (c : Core) (r : Option Scope) : (c.setOwed r).marked = c.marked := by unfold Core.setOwed; split <;> rfl
@[simp] theorem Core.setOwed_counters (c : Core) (r : Option Scope) : (c.setOwed r).counters = c.counters := by unfold Core.setOwed; split <;> rfl
@[simp] theorem Core.setOwed_handlers (c : Core) (r : Option Scope) : (c.setOwed r).handlers = c.handlers := by unfold Core.setOwed; split <;> rfl
@[simp] theorem Core.setOwed_windows (c : Core) (r : Option Scope) : (c.setOwed r).windows = c.windows := by unfold Core.setOwed; split <;> rfl
@[simp] theorem Core.setOwed_tblA (c : Core) (r : Option Scope) : (c.setOwed r).tblA = c.tblA := by unfold Core.setOwed; split <;> rfl
@[simp] theorem Core.setOwed_tblB (c : Core) (r : Option Scope) : (c.setOwed r).tblB = c.tblB := by unfold Core.setOwed; split <;> rfl
@[simp] theorem Core.setOwed_fit (c : Core) (r : Option Scope) : (c.setOwed r).fit = c.fit := by unfold Core.setOwed; split <;> rfl
@[simp] theorem Core.setOwed_wms (c : Core) (r : Option Scope) : (c.setOwed r).wms = c.wms := by unfold Core.setOwed; split <;> rfl
@[simp] theorem Core.setOwed_samples (c : Core) (r : Option Scope) : (c.setOwed r).samples = c.samples := by unfold Core.setOwed; split <;> rfl
@[simp] theorem Core.setOwed_lt (c : Core) (r : Option Scope) : (c.setOwed r).lt = c.lt := by unfold Core.setOwed; split <;> rfl
@[simp] theorem Core.setOwed_inbox (c : Core) (r : Option Scope) : (c.setOwed r).inbox = c.inbox := by unfold Core.setOwed; split <;> rfl
@[simp] theorem Core.setOwed_parked (c : Core) (r : Option Scope) : (c.setOwed r).parked = c.parked := by unfold Core.setOwed; split <;> rfl
@[simp] theorem Core.setOwed_evq (c : Core) (r : Option Scope) : (c.setOwed r).evq = c.evq := by unfold Core.setOwed; split <;> rfl
@[simp] theorem Core.setOwed_queues (c : Core) (r : Option Scope) : (c.setOwed r).queues = c.queues := by unfold Core.setOwed; split <;> rfl
@[simp] theorem Core.setOwed_kwork (c : Core) (r : Option Scope) : (c.setOwed r).kwork = c.kwork := by unfold Core.setOwed; split <;> rfl
@[simp] theorem Core.setOwed_sendBuf (c : Core) (r : Option Scope) : (c.setOwed r).sendBuf = c.sendBuf := by unfold Core.setOwed; split <;> rfl
@[simp] theorem Core.setOwed_ni (c : Core) (r : Option Scope) : (c.setOwed r).ni = c.ni := by unfold Core.setOwed; split <;> rfl
@[simp] theorem Core.setOwed_sendNo (c : Core) (r : Option Scope) : (c.setOwed r).sendNo = c.sendNo := by unfold Core.setOwed; split <;> rfl
@[simp] theorem Core.setOwed_orders (c : Core) (r : Option Scope) : (c.setOwed r).orders = c.orders := by unfold Core.setOwed; split <;> rfl
@[simp] theorem Core.setOwed_latch (c : Core) (r : Option Scope) : (c.setOwed r).latch = c.latch := by unfold Core.setOwed; split <;> rfl
@[simp] theorem Core.setOwed_inbound (c : Core) (r : Option Scope) : (c.setOwed r).inbound = c.inbound := by unfold Core.setOwed; split <;> rfl
@[simp] theorem Core.setOwed_loading (c : Core) (r : Option Scope) : (c.setOwed r).loading = c.loading := by unfold Core.setOwed; split <;> rfl
@[simp] theorem Core.setOwed_mxq (c : Core) (r : Option Scope) : (c.setOwed r).mxq = c.mxq := by unfold Core.setOwed; split <;> rfl
@[simp] theorem Core.setOwed_slots (c : Core) (r : Option Scope) : (c.setOwed r).slots = c.slots := by unfold Core.setOwed; split <;> rfl
@[simp] theorem Core.setOwed_weight (c : Core) (r : Option Scope) : (c.setOwed r).weight = c.weight := by unfold Core.setOwed; split <;> rfl
@[simp] theorem Core.setOwed_mxFault (c : Core) (r : Option Scope) : (c.setOwed r).mxFault = c.mxFault := by unfold Core.setOwed; split <;> rfl
@[simp] theorem Core.setOwed_sc (c : Core) (r : Option Scope) : (c.setOwed r).sc = c.sc := by unfold Core.setOwed; split <;> rfl
@[simp] theorem Core.setOwed_rread (c : Core) (r : Option Scope) : (c.setOwed r).rread = c.rread := by unfold Core.setOwed; split <;> rfl
@[simp] theorem Core.setOwed_unpick (c : Core) (r : Option Scope) : (c.setOwed r).unpick = c.unpick := by unfold Core.setOwed; split <;> rfl
@[simp] theorem Core.setOwed_routines (c : Core) (r : Option Scope) : (c.setOwed r).routines = c.routines := by unfold Core.setOwed; split <;> rfl
@[simp] theorem Core.setOwed_install (c : Core) (r : Option Scope) : (c.setOwed r).install = c.install := by unfold Core.setOwed; split <;> rfl
@[simp] theorem Core.setOwed_reported (c : Core) (r : Option Scope) : (c.setOwed r).reported = c.reported := by unfold Core.setOwed; split <;> rfl
@[simp] theorem Core.setOwed_hold (c : Core) (r : Option Scope) : (c.setOwed r).hold = c.hold := by unfold Core.setOwed; split <;> rfl
@[simp] theorem Core.setOwed_discards (c : Core) (r : Option Scope) : (c.setOwed r).discards = c.discards := by unfold Core.setOwed; split <;> rfl

/-! ### A queued task taken elsewhere -/

@[simp] theorem Core.moved_regs (c : Core) (i : Nat) : (c.moved i).regs = c.regs := rfl
@[simp] theorem Core.moved_kregs (c : Core) (i : Nat) : (c.moved i).kregs = c.kregs := rfl
@[simp] theorem Core.moved_pc (c : Core) (i : Nat) : (c.moved i).pc = c.pc := rfl
@[simp] theorem Core.moved_kpc (c : Core) (i : Nat) : (c.moved i).kpc = c.kpc := rfl
@[simp] theorem Core.moved_chn (c : Core) (i : Nat) : (c.moved i).chn = c.chn := rfl
@[simp] theorem Core.moved_csr (c : Core) (i : Nat) : (c.moved i).csr = c.csr := rfl
@[simp] theorem Core.moved_insn (c : Core) (i : Nat) : (c.moved i).insn = c.insn := rfl
@[simp] theorem Core.moved_stream (c : Core) (i : Nat) : (c.moved i).stream = c.stream := rfl
@[simp] theorem Core.moved_turn (c : Core) (i : Nat) : (c.moved i).turn = c.turn := rfl
@[simp] theorem Core.moved_task (c : Core) (i : Nat) : (c.moved i).task = c.task := rfl
@[simp] theorem Core.moved_svc (c : Core) (i : Nat) : (c.moved i).svc = c.svc := rfl
@[simp] theorem Core.moved_out (c : Core) (i : Nat) : (c.moved i).out = c.out := rfl
@[simp] theorem Core.moved_stalled (c : Core) (i : Nat) : (c.moved i).stalled = c.stalled := rfl
@[simp] theorem Core.moved_resetAt (c : Core) (i : Nat) : (c.moved i).resetAt = c.resetAt := rfl
@[simp] theorem Core.moved_tasks (c : Core) (i : Nat) : (c.moved i).tasks = c.tasks := rfl
@[simp] theorem Core.moved_binds (c : Core) (i : Nat) : (c.moved i).binds = c.binds := rfl
@[simp] theorem Core.moved_rep (c : Core) (i : Nat) : (c.moved i).rep = c.rep := rfl
@[simp] theorem Core.moved_aqs (c : Core) (i : Nat) : (c.moved i).aqs = c.aqs := rfl
@[simp] theorem Core.moved_link (c : Core) (i : Nat) : (c.moved i).link = c.link := rfl
@[simp] theorem Core.moved_stores (c : Core) (i : Nat) : (c.moved i).stores = c.stores := rfl
@[simp] theorem Core.moved_early (c : Core) (i : Nat) : (c.moved i).early = c.early := rfl
@[simp] theorem Core.moved_deps (c : Core) (i : Nat) : (c.moved i).deps = c.deps := rfl
@[simp] theorem Core.moved_loadAt (c : Core) (i : Nat) : (c.moved i).loadAt = c.loadAt := rfl
@[simp] theorem Core.moved_marked (c : Core) (i : Nat) : (c.moved i).marked = c.marked := rfl
@[simp] theorem Core.moved_pendRel (c : Core) (i : Nat) : (c.moved i).pendRel = c.pendRel := rfl
@[simp] theorem Core.moved_bodyRel (c : Core) (i : Nat) : (c.moved i).bodyRel = c.bodyRel := rfl
@[simp] theorem Core.moved_counters (c : Core) (i : Nat) : (c.moved i).counters = c.counters := rfl
@[simp] theorem Core.moved_handlers (c : Core) (i : Nat) : (c.moved i).handlers = c.handlers := rfl
@[simp] theorem Core.moved_windows (c : Core) (i : Nat) : (c.moved i).windows = c.windows := rfl
@[simp] theorem Core.moved_tblA (c : Core) (i : Nat) : (c.moved i).tblA = c.tblA := rfl
@[simp] theorem Core.moved_tblB (c : Core) (i : Nat) : (c.moved i).tblB = c.tblB := rfl
@[simp] theorem Core.moved_fit (c : Core) (i : Nat) : (c.moved i).fit = c.fit := rfl
@[simp] theorem Core.moved_wms (c : Core) (i : Nat) : (c.moved i).wms = c.wms := rfl
@[simp] theorem Core.moved_samples (c : Core) (i : Nat) : (c.moved i).samples = c.samples := rfl
@[simp] theorem Core.moved_lt (c : Core) (i : Nat) : (c.moved i).lt = c.lt := rfl
@[simp] theorem Core.moved_parked (c : Core) (i : Nat) : (c.moved i).parked = c.parked := rfl
@[simp] theorem Core.moved_evq (c : Core) (i : Nat) : (c.moved i).evq = c.evq := rfl
@[simp] theorem Core.moved_kwork (c : Core) (i : Nat) : (c.moved i).kwork = c.kwork := rfl
@[simp] theorem Core.moved_sendBuf (c : Core) (i : Nat) : (c.moved i).sendBuf = c.sendBuf := rfl
@[simp] theorem Core.moved_ni (c : Core) (i : Nat) : (c.moved i).ni = c.ni := rfl
@[simp] theorem Core.moved_sendNo (c : Core) (i : Nat) : (c.moved i).sendNo = c.sendNo := rfl
@[simp] theorem Core.moved_orders (c : Core) (i : Nat) : (c.moved i).orders = c.orders := rfl
@[simp] theorem Core.moved_latch (c : Core) (i : Nat) : (c.moved i).latch = c.latch := rfl
@[simp] theorem Core.moved_inbound (c : Core) (i : Nat) : (c.moved i).inbound = c.inbound := rfl
@[simp] theorem Core.moved_loading (c : Core) (i : Nat) : (c.moved i).loading = c.loading := rfl
@[simp] theorem Core.moved_mxq (c : Core) (i : Nat) : (c.moved i).mxq = c.mxq := rfl
@[simp] theorem Core.moved_slots (c : Core) (i : Nat) : (c.moved i).slots = c.slots := rfl
@[simp] theorem Core.moved_weight (c : Core) (i : Nat) : (c.moved i).weight = c.weight := rfl
@[simp] theorem Core.moved_mxFault (c : Core) (i : Nat) : (c.moved i).mxFault = c.mxFault := rfl
@[simp] theorem Core.moved_sc (c : Core) (i : Nat) : (c.moved i).sc = c.sc := rfl
@[simp] theorem Core.moved_rread (c : Core) (i : Nat) : (c.moved i).rread = c.rread := rfl
@[simp] theorem Core.moved_unpick (c : Core) (i : Nat) : (c.moved i).unpick = c.unpick := rfl
@[simp] theorem Core.moved_routines (c : Core) (i : Nat) : (c.moved i).routines = c.routines := rfl
@[simp] theorem Core.moved_install (c : Core) (i : Nat) : (c.moved i).install = c.install := rfl
@[simp] theorem Core.moved_reported (c : Core) (i : Nat) : (c.moved i).reported = c.reported := rfl
@[simp] theorem Core.moved_hold (c : Core) (i : Nat) : (c.moved i).hold = c.hold := rfl
@[simp] theorem Core.moved_discards (c : Core) (i : Nat) : (c.moved i).discards = c.discards := rfl

/-! ### A counter -/

@[simp] theorem Core.setCounter_regs (c : Core) (k : Nat) (e : Counter) : (c.setCounter k e).regs = c.regs := rfl
@[simp] theorem Core.setCounter_kregs (c : Core) (k : Nat) (e : Counter) : (c.setCounter k e).kregs = c.kregs := rfl
@[simp] theorem Core.setCounter_pc (c : Core) (k : Nat) (e : Counter) : (c.setCounter k e).pc = c.pc := rfl
@[simp] theorem Core.setCounter_kpc (c : Core) (k : Nat) (e : Counter) : (c.setCounter k e).kpc = c.kpc := rfl
@[simp] theorem Core.setCounter_chn (c : Core) (k : Nat) (e : Counter) : (c.setCounter k e).chn = c.chn := rfl
@[simp] theorem Core.setCounter_csr (c : Core) (k : Nat) (e : Counter) : (c.setCounter k e).csr = c.csr := rfl
@[simp] theorem Core.setCounter_insn (c : Core) (k : Nat) (e : Counter) : (c.setCounter k e).insn = c.insn := rfl
@[simp] theorem Core.setCounter_stream (c : Core) (k : Nat) (e : Counter) : (c.setCounter k e).stream = c.stream := rfl
@[simp] theorem Core.setCounter_turn (c : Core) (k : Nat) (e : Counter) : (c.setCounter k e).turn = c.turn := rfl
@[simp] theorem Core.setCounter_task (c : Core) (k : Nat) (e : Counter) : (c.setCounter k e).task = c.task := rfl
@[simp] theorem Core.setCounter_svc (c : Core) (k : Nat) (e : Counter) : (c.setCounter k e).svc = c.svc := rfl
@[simp] theorem Core.setCounter_out (c : Core) (k : Nat) (e : Counter) : (c.setCounter k e).out = c.out := rfl
@[simp] theorem Core.setCounter_stalled (c : Core) (k : Nat) (e : Counter) : (c.setCounter k e).stalled = c.stalled := rfl
@[simp] theorem Core.setCounter_resetAt (c : Core) (k : Nat) (e : Counter) : (c.setCounter k e).resetAt = c.resetAt := rfl
@[simp] theorem Core.setCounter_tasks (c : Core) (k : Nat) (e : Counter) : (c.setCounter k e).tasks = c.tasks := rfl
@[simp] theorem Core.setCounter_binds (c : Core) (k : Nat) (e : Counter) : (c.setCounter k e).binds = c.binds := rfl
@[simp] theorem Core.setCounter_rep (c : Core) (k : Nat) (e : Counter) : (c.setCounter k e).rep = c.rep := rfl
@[simp] theorem Core.setCounter_aqs (c : Core) (k : Nat) (e : Counter) : (c.setCounter k e).aqs = c.aqs := rfl
@[simp] theorem Core.setCounter_link (c : Core) (k : Nat) (e : Counter) : (c.setCounter k e).link = c.link := rfl
@[simp] theorem Core.setCounter_stores (c : Core) (k : Nat) (e : Counter) : (c.setCounter k e).stores = c.stores := rfl
@[simp] theorem Core.setCounter_early (c : Core) (k : Nat) (e : Counter) : (c.setCounter k e).early = c.early := rfl
@[simp] theorem Core.setCounter_deps (c : Core) (k : Nat) (e : Counter) : (c.setCounter k e).deps = c.deps := rfl
@[simp] theorem Core.setCounter_loadAt (c : Core) (k : Nat) (e : Counter) : (c.setCounter k e).loadAt = c.loadAt := rfl
@[simp] theorem Core.setCounter_marked (c : Core) (k : Nat) (e : Counter) : (c.setCounter k e).marked = c.marked := rfl
@[simp] theorem Core.setCounter_pendRel (c : Core) (k : Nat) (e : Counter) : (c.setCounter k e).pendRel = c.pendRel := rfl
@[simp] theorem Core.setCounter_bodyRel (c : Core) (k : Nat) (e : Counter) : (c.setCounter k e).bodyRel = c.bodyRel := rfl
@[simp] theorem Core.setCounter_handlers (c : Core) (k : Nat) (e : Counter) : (c.setCounter k e).handlers = c.handlers := rfl
@[simp] theorem Core.setCounter_windows (c : Core) (k : Nat) (e : Counter) : (c.setCounter k e).windows = c.windows := rfl
@[simp] theorem Core.setCounter_tblA (c : Core) (k : Nat) (e : Counter) : (c.setCounter k e).tblA = c.tblA := rfl
@[simp] theorem Core.setCounter_tblB (c : Core) (k : Nat) (e : Counter) : (c.setCounter k e).tblB = c.tblB := rfl
@[simp] theorem Core.setCounter_fit (c : Core) (k : Nat) (e : Counter) : (c.setCounter k e).fit = c.fit := rfl
@[simp] theorem Core.setCounter_wms (c : Core) (k : Nat) (e : Counter) : (c.setCounter k e).wms = c.wms := rfl
@[simp] theorem Core.setCounter_samples (c : Core) (k : Nat) (e : Counter) : (c.setCounter k e).samples = c.samples := rfl
@[simp] theorem Core.setCounter_lt (c : Core) (k : Nat) (e : Counter) : (c.setCounter k e).lt = c.lt := rfl
@[simp] theorem Core.setCounter_inbox (c : Core) (k : Nat) (e : Counter) : (c.setCounter k e).inbox = c.inbox := rfl
@[simp] theorem Core.setCounter_parked (c : Core) (k : Nat) (e : Counter) : (c.setCounter k e).parked = c.parked := rfl
@[simp] theorem Core.setCounter_evq (c : Core) (k : Nat) (e : Counter) : (c.setCounter k e).evq = c.evq := rfl
@[simp] theorem Core.setCounter_queues (c : Core) (k : Nat) (e : Counter) : (c.setCounter k e).queues = c.queues := rfl
@[simp] theorem Core.setCounter_kwork (c : Core) (k : Nat) (e : Counter) : (c.setCounter k e).kwork = c.kwork := rfl
@[simp] theorem Core.setCounter_sendBuf (c : Core) (k : Nat) (e : Counter) : (c.setCounter k e).sendBuf = c.sendBuf := rfl
@[simp] theorem Core.setCounter_ni (c : Core) (k : Nat) (e : Counter) : (c.setCounter k e).ni = c.ni := rfl
@[simp] theorem Core.setCounter_sendNo (c : Core) (k : Nat) (e : Counter) : (c.setCounter k e).sendNo = c.sendNo := rfl
@[simp] theorem Core.setCounter_orders (c : Core) (k : Nat) (e : Counter) : (c.setCounter k e).orders = c.orders := rfl
@[simp] theorem Core.setCounter_latch (c : Core) (k : Nat) (e : Counter) : (c.setCounter k e).latch = c.latch := rfl
@[simp] theorem Core.setCounter_inbound (c : Core) (k : Nat) (e : Counter) : (c.setCounter k e).inbound = c.inbound := rfl
@[simp] theorem Core.setCounter_loading (c : Core) (k : Nat) (e : Counter) : (c.setCounter k e).loading = c.loading := rfl
@[simp] theorem Core.setCounter_mxq (c : Core) (k : Nat) (e : Counter) : (c.setCounter k e).mxq = c.mxq := rfl
@[simp] theorem Core.setCounter_slots (c : Core) (k : Nat) (e : Counter) : (c.setCounter k e).slots = c.slots := rfl
@[simp] theorem Core.setCounter_weight (c : Core) (k : Nat) (e : Counter) : (c.setCounter k e).weight = c.weight := rfl
@[simp] theorem Core.setCounter_mxFault (c : Core) (k : Nat) (e : Counter) : (c.setCounter k e).mxFault = c.mxFault := rfl
@[simp] theorem Core.setCounter_sc (c : Core) (k : Nat) (e : Counter) : (c.setCounter k e).sc = c.sc := rfl
@[simp] theorem Core.setCounter_rread (c : Core) (k : Nat) (e : Counter) : (c.setCounter k e).rread = c.rread := rfl
@[simp] theorem Core.setCounter_unpick (c : Core) (k : Nat) (e : Counter) : (c.setCounter k e).unpick = c.unpick := rfl
@[simp] theorem Core.setCounter_routines (c : Core) (k : Nat) (e : Counter) : (c.setCounter k e).routines = c.routines := rfl
@[simp] theorem Core.setCounter_install (c : Core) (k : Nat) (e : Counter) : (c.setCounter k e).install = c.install := rfl
@[simp] theorem Core.setCounter_reported (c : Core) (k : Nat) (e : Counter) : (c.setCounter k e).reported = c.reported := rfl
@[simp] theorem Core.setCounter_hold (c : Core) (k : Nat) (e : Counter) : (c.setCounter k e).hold = c.hold := rfl
@[simp] theorem Core.setCounter_discards (c : Core) (k : Nat) (e : Counter) : (c.setCounter k e).discards = c.discards := rfl

/-! ### The tail of a queue -/

@[simp] theorem Core.enqueue_regs (c : Core) (q : Nat) (t : Trigger) (n : Nat) : (c.enqueue q t n).regs = c.regs := rfl
@[simp] theorem Core.enqueue_kregs (c : Core) (q : Nat) (t : Trigger) (n : Nat) : (c.enqueue q t n).kregs = c.kregs := rfl
@[simp] theorem Core.enqueue_pc (c : Core) (q : Nat) (t : Trigger) (n : Nat) : (c.enqueue q t n).pc = c.pc := rfl
@[simp] theorem Core.enqueue_kpc (c : Core) (q : Nat) (t : Trigger) (n : Nat) : (c.enqueue q t n).kpc = c.kpc := rfl
@[simp] theorem Core.enqueue_chn (c : Core) (q : Nat) (t : Trigger) (n : Nat) : (c.enqueue q t n).chn = c.chn := rfl
@[simp] theorem Core.enqueue_csr (c : Core) (q : Nat) (t : Trigger) (n : Nat) : (c.enqueue q t n).csr = c.csr := rfl
@[simp] theorem Core.enqueue_insn (c : Core) (q : Nat) (t : Trigger) (n : Nat) : (c.enqueue q t n).insn = c.insn := rfl
@[simp] theorem Core.enqueue_stream (c : Core) (q : Nat) (t : Trigger) (n : Nat) : (c.enqueue q t n).stream = c.stream := rfl
@[simp] theorem Core.enqueue_turn (c : Core) (q : Nat) (t : Trigger) (n : Nat) : (c.enqueue q t n).turn = c.turn := rfl
@[simp] theorem Core.enqueue_task (c : Core) (q : Nat) (t : Trigger) (n : Nat) : (c.enqueue q t n).task = c.task := rfl
@[simp] theorem Core.enqueue_svc (c : Core) (q : Nat) (t : Trigger) (n : Nat) : (c.enqueue q t n).svc = c.svc := rfl
@[simp] theorem Core.enqueue_out (c : Core) (q : Nat) (t : Trigger) (n : Nat) : (c.enqueue q t n).out = c.out := rfl
@[simp] theorem Core.enqueue_stalled (c : Core) (q : Nat) (t : Trigger) (n : Nat) : (c.enqueue q t n).stalled = c.stalled := rfl
@[simp] theorem Core.enqueue_resetAt (c : Core) (q : Nat) (t : Trigger) (n : Nat) : (c.enqueue q t n).resetAt = c.resetAt := rfl
@[simp] theorem Core.enqueue_tasks (c : Core) (q : Nat) (t : Trigger) (n : Nat) : (c.enqueue q t n).tasks = c.tasks := rfl
@[simp] theorem Core.enqueue_binds (c : Core) (q : Nat) (t : Trigger) (n : Nat) : (c.enqueue q t n).binds = c.binds := rfl
@[simp] theorem Core.enqueue_rep (c : Core) (q : Nat) (t : Trigger) (n : Nat) : (c.enqueue q t n).rep = c.rep := rfl
@[simp] theorem Core.enqueue_aqs (c : Core) (q : Nat) (t : Trigger) (n : Nat) : (c.enqueue q t n).aqs = c.aqs := rfl
@[simp] theorem Core.enqueue_link (c : Core) (q : Nat) (t : Trigger) (n : Nat) : (c.enqueue q t n).link = c.link := rfl
@[simp] theorem Core.enqueue_stores (c : Core) (q : Nat) (t : Trigger) (n : Nat) : (c.enqueue q t n).stores = c.stores := rfl
@[simp] theorem Core.enqueue_early (c : Core) (q : Nat) (t : Trigger) (n : Nat) : (c.enqueue q t n).early = c.early := rfl
@[simp] theorem Core.enqueue_deps (c : Core) (q : Nat) (t : Trigger) (n : Nat) : (c.enqueue q t n).deps = c.deps := rfl
@[simp] theorem Core.enqueue_loadAt (c : Core) (q : Nat) (t : Trigger) (n : Nat) : (c.enqueue q t n).loadAt = c.loadAt := rfl
@[simp] theorem Core.enqueue_marked (c : Core) (q : Nat) (t : Trigger) (n : Nat) : (c.enqueue q t n).marked = c.marked := rfl
@[simp] theorem Core.enqueue_pendRel (c : Core) (q : Nat) (t : Trigger) (n : Nat) : (c.enqueue q t n).pendRel = c.pendRel := rfl
@[simp] theorem Core.enqueue_bodyRel (c : Core) (q : Nat) (t : Trigger) (n : Nat) : (c.enqueue q t n).bodyRel = c.bodyRel := rfl
@[simp] theorem Core.enqueue_counters (c : Core) (q : Nat) (t : Trigger) (n : Nat) : (c.enqueue q t n).counters = c.counters := rfl
@[simp] theorem Core.enqueue_handlers (c : Core) (q : Nat) (t : Trigger) (n : Nat) : (c.enqueue q t n).handlers = c.handlers := rfl
@[simp] theorem Core.enqueue_windows (c : Core) (q : Nat) (t : Trigger) (n : Nat) : (c.enqueue q t n).windows = c.windows := rfl
@[simp] theorem Core.enqueue_tblA (c : Core) (q : Nat) (t : Trigger) (n : Nat) : (c.enqueue q t n).tblA = c.tblA := rfl
@[simp] theorem Core.enqueue_tblB (c : Core) (q : Nat) (t : Trigger) (n : Nat) : (c.enqueue q t n).tblB = c.tblB := rfl
@[simp] theorem Core.enqueue_fit (c : Core) (q : Nat) (t : Trigger) (n : Nat) : (c.enqueue q t n).fit = c.fit := rfl
@[simp] theorem Core.enqueue_wms (c : Core) (q : Nat) (t : Trigger) (n : Nat) : (c.enqueue q t n).wms = c.wms := rfl
@[simp] theorem Core.enqueue_samples (c : Core) (q : Nat) (t : Trigger) (n : Nat) : (c.enqueue q t n).samples = c.samples := rfl
@[simp] theorem Core.enqueue_lt (c : Core) (q : Nat) (t : Trigger) (n : Nat) : (c.enqueue q t n).lt = c.lt := rfl
@[simp] theorem Core.enqueue_inbox (c : Core) (q : Nat) (t : Trigger) (n : Nat) : (c.enqueue q t n).inbox = c.inbox := rfl
@[simp] theorem Core.enqueue_parked (c : Core) (q : Nat) (t : Trigger) (n : Nat) : (c.enqueue q t n).parked = c.parked := rfl
@[simp] theorem Core.enqueue_evq (c : Core) (q : Nat) (t : Trigger) (n : Nat) : (c.enqueue q t n).evq = c.evq := rfl
@[simp] theorem Core.enqueue_kwork (c : Core) (q : Nat) (t : Trigger) (n : Nat) : (c.enqueue q t n).kwork = c.kwork := rfl
@[simp] theorem Core.enqueue_sendBuf (c : Core) (q : Nat) (t : Trigger) (n : Nat) : (c.enqueue q t n).sendBuf = c.sendBuf := rfl
@[simp] theorem Core.enqueue_ni (c : Core) (q : Nat) (t : Trigger) (n : Nat) : (c.enqueue q t n).ni = c.ni := rfl
@[simp] theorem Core.enqueue_sendNo (c : Core) (q : Nat) (t : Trigger) (n : Nat) : (c.enqueue q t n).sendNo = c.sendNo := rfl
@[simp] theorem Core.enqueue_orders (c : Core) (q : Nat) (t : Trigger) (n : Nat) : (c.enqueue q t n).orders = c.orders := rfl
@[simp] theorem Core.enqueue_latch (c : Core) (q : Nat) (t : Trigger) (n : Nat) : (c.enqueue q t n).latch = c.latch := rfl
@[simp] theorem Core.enqueue_inbound (c : Core) (q : Nat) (t : Trigger) (n : Nat) : (c.enqueue q t n).inbound = c.inbound := rfl
@[simp] theorem Core.enqueue_loading (c : Core) (q : Nat) (t : Trigger) (n : Nat) : (c.enqueue q t n).loading = c.loading := rfl
@[simp] theorem Core.enqueue_mxq (c : Core) (q : Nat) (t : Trigger) (n : Nat) : (c.enqueue q t n).mxq = c.mxq := rfl
@[simp] theorem Core.enqueue_slots (c : Core) (q : Nat) (t : Trigger) (n : Nat) : (c.enqueue q t n).slots = c.slots := rfl
@[simp] theorem Core.enqueue_weight (c : Core) (q : Nat) (t : Trigger) (n : Nat) : (c.enqueue q t n).weight = c.weight := rfl
@[simp] theorem Core.enqueue_mxFault (c : Core) (q : Nat) (t : Trigger) (n : Nat) : (c.enqueue q t n).mxFault = c.mxFault := rfl
@[simp] theorem Core.enqueue_sc (c : Core) (q : Nat) (t : Trigger) (n : Nat) : (c.enqueue q t n).sc = c.sc := rfl
@[simp] theorem Core.enqueue_rread (c : Core) (q : Nat) (t : Trigger) (n : Nat) : (c.enqueue q t n).rread = c.rread := rfl
@[simp] theorem Core.enqueue_unpick (c : Core) (q : Nat) (t : Trigger) (n : Nat) : (c.enqueue q t n).unpick = c.unpick := rfl
@[simp] theorem Core.enqueue_routines (c : Core) (q : Nat) (t : Trigger) (n : Nat) : (c.enqueue q t n).routines = c.routines := rfl
@[simp] theorem Core.enqueue_install (c : Core) (q : Nat) (t : Trigger) (n : Nat) : (c.enqueue q t n).install = c.install := rfl
@[simp] theorem Core.enqueue_reported (c : Core) (q : Nat) (t : Trigger) (n : Nat) : (c.enqueue q t n).reported = c.reported := rfl
@[simp] theorem Core.enqueue_hold (c : Core) (q : Nat) (t : Trigger) (n : Nat) : (c.enqueue q t n).hold = c.hold := rfl
@[simp] theorem Core.enqueue_discards (c : Core) (q : Nat) (t : Trigger) (n : Nat) : (c.enqueue q t n).discards = c.discards := rfl

/-! ### The head of a queue -/

@[simp] theorem Core.enqueueHead_regs (c : Core) (q : Nat) (t : Trigger) (n : Nat) : (c.enqueueHead q t n).regs = c.regs := rfl
@[simp] theorem Core.enqueueHead_kregs (c : Core) (q : Nat) (t : Trigger) (n : Nat) : (c.enqueueHead q t n).kregs = c.kregs := rfl
@[simp] theorem Core.enqueueHead_pc (c : Core) (q : Nat) (t : Trigger) (n : Nat) : (c.enqueueHead q t n).pc = c.pc := rfl
@[simp] theorem Core.enqueueHead_kpc (c : Core) (q : Nat) (t : Trigger) (n : Nat) : (c.enqueueHead q t n).kpc = c.kpc := rfl
@[simp] theorem Core.enqueueHead_chn (c : Core) (q : Nat) (t : Trigger) (n : Nat) : (c.enqueueHead q t n).chn = c.chn := rfl
@[simp] theorem Core.enqueueHead_csr (c : Core) (q : Nat) (t : Trigger) (n : Nat) : (c.enqueueHead q t n).csr = c.csr := rfl
@[simp] theorem Core.enqueueHead_insn (c : Core) (q : Nat) (t : Trigger) (n : Nat) : (c.enqueueHead q t n).insn = c.insn := rfl
@[simp] theorem Core.enqueueHead_stream (c : Core) (q : Nat) (t : Trigger) (n : Nat) : (c.enqueueHead q t n).stream = c.stream := rfl
@[simp] theorem Core.enqueueHead_turn (c : Core) (q : Nat) (t : Trigger) (n : Nat) : (c.enqueueHead q t n).turn = c.turn := rfl
@[simp] theorem Core.enqueueHead_task (c : Core) (q : Nat) (t : Trigger) (n : Nat) : (c.enqueueHead q t n).task = c.task := rfl
@[simp] theorem Core.enqueueHead_svc (c : Core) (q : Nat) (t : Trigger) (n : Nat) : (c.enqueueHead q t n).svc = c.svc := rfl
@[simp] theorem Core.enqueueHead_out (c : Core) (q : Nat) (t : Trigger) (n : Nat) : (c.enqueueHead q t n).out = c.out := rfl
@[simp] theorem Core.enqueueHead_stalled (c : Core) (q : Nat) (t : Trigger) (n : Nat) : (c.enqueueHead q t n).stalled = c.stalled := rfl
@[simp] theorem Core.enqueueHead_resetAt (c : Core) (q : Nat) (t : Trigger) (n : Nat) : (c.enqueueHead q t n).resetAt = c.resetAt := rfl
@[simp] theorem Core.enqueueHead_tasks (c : Core) (q : Nat) (t : Trigger) (n : Nat) : (c.enqueueHead q t n).tasks = c.tasks := rfl
@[simp] theorem Core.enqueueHead_binds (c : Core) (q : Nat) (t : Trigger) (n : Nat) : (c.enqueueHead q t n).binds = c.binds := rfl
@[simp] theorem Core.enqueueHead_rep (c : Core) (q : Nat) (t : Trigger) (n : Nat) : (c.enqueueHead q t n).rep = c.rep := rfl
@[simp] theorem Core.enqueueHead_aqs (c : Core) (q : Nat) (t : Trigger) (n : Nat) : (c.enqueueHead q t n).aqs = c.aqs := rfl
@[simp] theorem Core.enqueueHead_link (c : Core) (q : Nat) (t : Trigger) (n : Nat) : (c.enqueueHead q t n).link = c.link := rfl
@[simp] theorem Core.enqueueHead_stores (c : Core) (q : Nat) (t : Trigger) (n : Nat) : (c.enqueueHead q t n).stores = c.stores := rfl
@[simp] theorem Core.enqueueHead_early (c : Core) (q : Nat) (t : Trigger) (n : Nat) : (c.enqueueHead q t n).early = c.early := rfl
@[simp] theorem Core.enqueueHead_deps (c : Core) (q : Nat) (t : Trigger) (n : Nat) : (c.enqueueHead q t n).deps = c.deps := rfl
@[simp] theorem Core.enqueueHead_loadAt (c : Core) (q : Nat) (t : Trigger) (n : Nat) : (c.enqueueHead q t n).loadAt = c.loadAt := rfl
@[simp] theorem Core.enqueueHead_marked (c : Core) (q : Nat) (t : Trigger) (n : Nat) : (c.enqueueHead q t n).marked = c.marked := rfl
@[simp] theorem Core.enqueueHead_pendRel (c : Core) (q : Nat) (t : Trigger) (n : Nat) : (c.enqueueHead q t n).pendRel = c.pendRel := rfl
@[simp] theorem Core.enqueueHead_bodyRel (c : Core) (q : Nat) (t : Trigger) (n : Nat) : (c.enqueueHead q t n).bodyRel = c.bodyRel := rfl
@[simp] theorem Core.enqueueHead_counters (c : Core) (q : Nat) (t : Trigger) (n : Nat) : (c.enqueueHead q t n).counters = c.counters := rfl
@[simp] theorem Core.enqueueHead_handlers (c : Core) (q : Nat) (t : Trigger) (n : Nat) : (c.enqueueHead q t n).handlers = c.handlers := rfl
@[simp] theorem Core.enqueueHead_windows (c : Core) (q : Nat) (t : Trigger) (n : Nat) : (c.enqueueHead q t n).windows = c.windows := rfl
@[simp] theorem Core.enqueueHead_tblA (c : Core) (q : Nat) (t : Trigger) (n : Nat) : (c.enqueueHead q t n).tblA = c.tblA := rfl
@[simp] theorem Core.enqueueHead_tblB (c : Core) (q : Nat) (t : Trigger) (n : Nat) : (c.enqueueHead q t n).tblB = c.tblB := rfl
@[simp] theorem Core.enqueueHead_fit (c : Core) (q : Nat) (t : Trigger) (n : Nat) : (c.enqueueHead q t n).fit = c.fit := rfl
@[simp] theorem Core.enqueueHead_wms (c : Core) (q : Nat) (t : Trigger) (n : Nat) : (c.enqueueHead q t n).wms = c.wms := rfl
@[simp] theorem Core.enqueueHead_samples (c : Core) (q : Nat) (t : Trigger) (n : Nat) : (c.enqueueHead q t n).samples = c.samples := rfl
@[simp] theorem Core.enqueueHead_lt (c : Core) (q : Nat) (t : Trigger) (n : Nat) : (c.enqueueHead q t n).lt = c.lt := rfl
@[simp] theorem Core.enqueueHead_inbox (c : Core) (q : Nat) (t : Trigger) (n : Nat) : (c.enqueueHead q t n).inbox = c.inbox := rfl
@[simp] theorem Core.enqueueHead_parked (c : Core) (q : Nat) (t : Trigger) (n : Nat) : (c.enqueueHead q t n).parked = c.parked := rfl
@[simp] theorem Core.enqueueHead_evq (c : Core) (q : Nat) (t : Trigger) (n : Nat) : (c.enqueueHead q t n).evq = c.evq := rfl
@[simp] theorem Core.enqueueHead_kwork (c : Core) (q : Nat) (t : Trigger) (n : Nat) : (c.enqueueHead q t n).kwork = c.kwork := rfl
@[simp] theorem Core.enqueueHead_sendBuf (c : Core) (q : Nat) (t : Trigger) (n : Nat) : (c.enqueueHead q t n).sendBuf = c.sendBuf := rfl
@[simp] theorem Core.enqueueHead_ni (c : Core) (q : Nat) (t : Trigger) (n : Nat) : (c.enqueueHead q t n).ni = c.ni := rfl
@[simp] theorem Core.enqueueHead_sendNo (c : Core) (q : Nat) (t : Trigger) (n : Nat) : (c.enqueueHead q t n).sendNo = c.sendNo := rfl
@[simp] theorem Core.enqueueHead_orders (c : Core) (q : Nat) (t : Trigger) (n : Nat) : (c.enqueueHead q t n).orders = c.orders := rfl
@[simp] theorem Core.enqueueHead_latch (c : Core) (q : Nat) (t : Trigger) (n : Nat) : (c.enqueueHead q t n).latch = c.latch := rfl
@[simp] theorem Core.enqueueHead_inbound (c : Core) (q : Nat) (t : Trigger) (n : Nat) : (c.enqueueHead q t n).inbound = c.inbound := rfl
@[simp] theorem Core.enqueueHead_loading (c : Core) (q : Nat) (t : Trigger) (n : Nat) : (c.enqueueHead q t n).loading = c.loading := rfl
@[simp] theorem Core.enqueueHead_mxq (c : Core) (q : Nat) (t : Trigger) (n : Nat) : (c.enqueueHead q t n).mxq = c.mxq := rfl
@[simp] theorem Core.enqueueHead_slots (c : Core) (q : Nat) (t : Trigger) (n : Nat) : (c.enqueueHead q t n).slots = c.slots := rfl
@[simp] theorem Core.enqueueHead_weight (c : Core) (q : Nat) (t : Trigger) (n : Nat) : (c.enqueueHead q t n).weight = c.weight := rfl
@[simp] theorem Core.enqueueHead_mxFault (c : Core) (q : Nat) (t : Trigger) (n : Nat) : (c.enqueueHead q t n).mxFault = c.mxFault := rfl
@[simp] theorem Core.enqueueHead_sc (c : Core) (q : Nat) (t : Trigger) (n : Nat) : (c.enqueueHead q t n).sc = c.sc := rfl
@[simp] theorem Core.enqueueHead_rread (c : Core) (q : Nat) (t : Trigger) (n : Nat) : (c.enqueueHead q t n).rread = c.rread := rfl
@[simp] theorem Core.enqueueHead_unpick (c : Core) (q : Nat) (t : Trigger) (n : Nat) : (c.enqueueHead q t n).unpick = c.unpick := rfl
@[simp] theorem Core.enqueueHead_routines (c : Core) (q : Nat) (t : Trigger) (n : Nat) : (c.enqueueHead q t n).routines = c.routines := rfl
@[simp] theorem Core.enqueueHead_install (c : Core) (q : Nat) (t : Trigger) (n : Nat) : (c.enqueueHead q t n).install = c.install := rfl
@[simp] theorem Core.enqueueHead_reported (c : Core) (q : Nat) (t : Trigger) (n : Nat) : (c.enqueueHead q t n).reported = c.reported := rfl
@[simp] theorem Core.enqueueHead_hold (c : Core) (q : Nat) (t : Trigger) (n : Nat) : (c.enqueueHead q t n).hold = c.hold := rfl
@[simp] theorem Core.enqueueHead_discards (c : Core) (q : Nat) (t : Trigger) (n : Nat) : (c.enqueueHead q t n).discards = c.discards := rfl

/-! ### Work taken out of the queues -/

@[simp] theorem Core.dequeue_regs (c : Core) (t : Trigger) : (c.dequeue t).regs = c.regs := rfl
@[simp] theorem Core.dequeue_kregs (c : Core) (t : Trigger) : (c.dequeue t).kregs = c.kregs := rfl
@[simp] theorem Core.dequeue_pc (c : Core) (t : Trigger) : (c.dequeue t).pc = c.pc := rfl
@[simp] theorem Core.dequeue_kpc (c : Core) (t : Trigger) : (c.dequeue t).kpc = c.kpc := rfl
@[simp] theorem Core.dequeue_chn (c : Core) (t : Trigger) : (c.dequeue t).chn = c.chn := rfl
@[simp] theorem Core.dequeue_csr (c : Core) (t : Trigger) : (c.dequeue t).csr = c.csr := rfl
@[simp] theorem Core.dequeue_insn (c : Core) (t : Trigger) : (c.dequeue t).insn = c.insn := rfl
@[simp] theorem Core.dequeue_stream (c : Core) (t : Trigger) : (c.dequeue t).stream = c.stream := rfl
@[simp] theorem Core.dequeue_turn (c : Core) (t : Trigger) : (c.dequeue t).turn = c.turn := rfl
@[simp] theorem Core.dequeue_task (c : Core) (t : Trigger) : (c.dequeue t).task = c.task := rfl
@[simp] theorem Core.dequeue_svc (c : Core) (t : Trigger) : (c.dequeue t).svc = c.svc := rfl
@[simp] theorem Core.dequeue_out (c : Core) (t : Trigger) : (c.dequeue t).out = c.out := rfl
@[simp] theorem Core.dequeue_stalled (c : Core) (t : Trigger) : (c.dequeue t).stalled = c.stalled := rfl
@[simp] theorem Core.dequeue_resetAt (c : Core) (t : Trigger) : (c.dequeue t).resetAt = c.resetAt := rfl
@[simp] theorem Core.dequeue_tasks (c : Core) (t : Trigger) : (c.dequeue t).tasks = c.tasks := rfl
@[simp] theorem Core.dequeue_binds (c : Core) (t : Trigger) : (c.dequeue t).binds = c.binds := rfl
@[simp] theorem Core.dequeue_rep (c : Core) (t : Trigger) : (c.dequeue t).rep = c.rep := rfl
@[simp] theorem Core.dequeue_aqs (c : Core) (t : Trigger) : (c.dequeue t).aqs = c.aqs := rfl
@[simp] theorem Core.dequeue_link (c : Core) (t : Trigger) : (c.dequeue t).link = c.link := rfl
@[simp] theorem Core.dequeue_stores (c : Core) (t : Trigger) : (c.dequeue t).stores = c.stores := rfl
@[simp] theorem Core.dequeue_early (c : Core) (t : Trigger) : (c.dequeue t).early = c.early := rfl
@[simp] theorem Core.dequeue_deps (c : Core) (t : Trigger) : (c.dequeue t).deps = c.deps := rfl
@[simp] theorem Core.dequeue_loadAt (c : Core) (t : Trigger) : (c.dequeue t).loadAt = c.loadAt := rfl
@[simp] theorem Core.dequeue_marked (c : Core) (t : Trigger) : (c.dequeue t).marked = c.marked := rfl
@[simp] theorem Core.dequeue_pendRel (c : Core) (t : Trigger) : (c.dequeue t).pendRel = c.pendRel := rfl
@[simp] theorem Core.dequeue_bodyRel (c : Core) (t : Trigger) : (c.dequeue t).bodyRel = c.bodyRel := rfl
@[simp] theorem Core.dequeue_counters (c : Core) (t : Trigger) : (c.dequeue t).counters = c.counters := rfl
@[simp] theorem Core.dequeue_handlers (c : Core) (t : Trigger) : (c.dequeue t).handlers = c.handlers := rfl
@[simp] theorem Core.dequeue_windows (c : Core) (t : Trigger) : (c.dequeue t).windows = c.windows := rfl
@[simp] theorem Core.dequeue_tblA (c : Core) (t : Trigger) : (c.dequeue t).tblA = c.tblA := rfl
@[simp] theorem Core.dequeue_tblB (c : Core) (t : Trigger) : (c.dequeue t).tblB = c.tblB := rfl
@[simp] theorem Core.dequeue_fit (c : Core) (t : Trigger) : (c.dequeue t).fit = c.fit := rfl
@[simp] theorem Core.dequeue_wms (c : Core) (t : Trigger) : (c.dequeue t).wms = c.wms := rfl
@[simp] theorem Core.dequeue_samples (c : Core) (t : Trigger) : (c.dequeue t).samples = c.samples := rfl
@[simp] theorem Core.dequeue_lt (c : Core) (t : Trigger) : (c.dequeue t).lt = c.lt := rfl
@[simp] theorem Core.dequeue_inbox (c : Core) (t : Trigger) : (c.dequeue t).inbox = c.inbox := rfl
@[simp] theorem Core.dequeue_parked (c : Core) (t : Trigger) : (c.dequeue t).parked = c.parked := rfl
@[simp] theorem Core.dequeue_evq (c : Core) (t : Trigger) : (c.dequeue t).evq = c.evq := rfl
@[simp] theorem Core.dequeue_kwork (c : Core) (t : Trigger) : (c.dequeue t).kwork = c.kwork := rfl
@[simp] theorem Core.dequeue_sendBuf (c : Core) (t : Trigger) : (c.dequeue t).sendBuf = c.sendBuf := rfl
@[simp] theorem Core.dequeue_ni (c : Core) (t : Trigger) : (c.dequeue t).ni = c.ni := rfl
@[simp] theorem Core.dequeue_sendNo (c : Core) (t : Trigger) : (c.dequeue t).sendNo = c.sendNo := rfl
@[simp] theorem Core.dequeue_orders (c : Core) (t : Trigger) : (c.dequeue t).orders = c.orders := rfl
@[simp] theorem Core.dequeue_latch (c : Core) (t : Trigger) : (c.dequeue t).latch = c.latch := rfl
@[simp] theorem Core.dequeue_inbound (c : Core) (t : Trigger) : (c.dequeue t).inbound = c.inbound := rfl
@[simp] theorem Core.dequeue_loading (c : Core) (t : Trigger) : (c.dequeue t).loading = c.loading := rfl
@[simp] theorem Core.dequeue_mxq (c : Core) (t : Trigger) : (c.dequeue t).mxq = c.mxq := rfl
@[simp] theorem Core.dequeue_slots (c : Core) (t : Trigger) : (c.dequeue t).slots = c.slots := rfl
@[simp] theorem Core.dequeue_weight (c : Core) (t : Trigger) : (c.dequeue t).weight = c.weight := rfl
@[simp] theorem Core.dequeue_mxFault (c : Core) (t : Trigger) : (c.dequeue t).mxFault = c.mxFault := rfl
@[simp] theorem Core.dequeue_sc (c : Core) (t : Trigger) : (c.dequeue t).sc = c.sc := rfl
@[simp] theorem Core.dequeue_rread (c : Core) (t : Trigger) : (c.dequeue t).rread = c.rread := rfl
@[simp] theorem Core.dequeue_unpick (c : Core) (t : Trigger) : (c.dequeue t).unpick = c.unpick := rfl
@[simp] theorem Core.dequeue_routines (c : Core) (t : Trigger) : (c.dequeue t).routines = c.routines := rfl
@[simp] theorem Core.dequeue_install (c : Core) (t : Trigger) : (c.dequeue t).install = c.install := rfl
@[simp] theorem Core.dequeue_reported (c : Core) (t : Trigger) : (c.dequeue t).reported = c.reported := rfl
@[simp] theorem Core.dequeue_hold (c : Core) (t : Trigger) : (c.dequeue t).hold = c.hold := rfl
@[simp] theorem Core.dequeue_discards (c : Core) (t : Trigger) : (c.dequeue t).discards = c.discards := rfl

/-! ### The pc moved on -/

@[simp] theorem Core.pcOn_regs (c : Core) (n : Nat) : (c.pcOn n).regs = c.regs := by unfold Core.pcOn; split <;> rfl
@[simp] theorem Core.pcOn_kregs (c : Core) (n : Nat) : (c.pcOn n).kregs = c.kregs := by unfold Core.pcOn; split <;> rfl
@[simp] theorem Core.pcOn_chn (c : Core) (n : Nat) : (c.pcOn n).chn = c.chn := by unfold Core.pcOn; split <;> rfl
@[simp] theorem Core.pcOn_csr (c : Core) (n : Nat) : (c.pcOn n).csr = c.csr := by unfold Core.pcOn; split <;> rfl
@[simp] theorem Core.pcOn_insn (c : Core) (n : Nat) : (c.pcOn n).insn = c.insn := by unfold Core.pcOn; split <;> rfl
@[simp] theorem Core.pcOn_stream (c : Core) (n : Nat) : (c.pcOn n).stream = c.stream := by unfold Core.pcOn; split <;> rfl
@[simp] theorem Core.pcOn_turn (c : Core) (n : Nat) : (c.pcOn n).turn = c.turn := by unfold Core.pcOn; split <;> rfl
@[simp] theorem Core.pcOn_task (c : Core) (n : Nat) : (c.pcOn n).task = c.task := by unfold Core.pcOn; split <;> rfl
@[simp] theorem Core.pcOn_svc (c : Core) (n : Nat) : (c.pcOn n).svc = c.svc := by unfold Core.pcOn; split <;> rfl
@[simp] theorem Core.pcOn_out (c : Core) (n : Nat) : (c.pcOn n).out = c.out := by unfold Core.pcOn; split <;> rfl
@[simp] theorem Core.pcOn_stalled (c : Core) (n : Nat) : (c.pcOn n).stalled = c.stalled := by unfold Core.pcOn; split <;> rfl
@[simp] theorem Core.pcOn_resetAt (c : Core) (n : Nat) : (c.pcOn n).resetAt = c.resetAt := by unfold Core.pcOn; split <;> rfl
@[simp] theorem Core.pcOn_tasks (c : Core) (n : Nat) : (c.pcOn n).tasks = c.tasks := by unfold Core.pcOn; split <;> rfl
@[simp] theorem Core.pcOn_binds (c : Core) (n : Nat) : (c.pcOn n).binds = c.binds := by unfold Core.pcOn; split <;> rfl
@[simp] theorem Core.pcOn_rep (c : Core) (n : Nat) : (c.pcOn n).rep = c.rep := by unfold Core.pcOn; split <;> rfl
@[simp] theorem Core.pcOn_aqs (c : Core) (n : Nat) : (c.pcOn n).aqs = c.aqs := by unfold Core.pcOn; split <;> rfl
@[simp] theorem Core.pcOn_link (c : Core) (n : Nat) : (c.pcOn n).link = c.link := by unfold Core.pcOn; split <;> rfl
@[simp] theorem Core.pcOn_stores (c : Core) (n : Nat) : (c.pcOn n).stores = c.stores := by unfold Core.pcOn; split <;> rfl
@[simp] theorem Core.pcOn_early (c : Core) (n : Nat) : (c.pcOn n).early = c.early := by unfold Core.pcOn; split <;> rfl
@[simp] theorem Core.pcOn_deps (c : Core) (n : Nat) : (c.pcOn n).deps = c.deps := by unfold Core.pcOn; split <;> rfl
@[simp] theorem Core.pcOn_loadAt (c : Core) (n : Nat) : (c.pcOn n).loadAt = c.loadAt := by unfold Core.pcOn; split <;> rfl
@[simp] theorem Core.pcOn_marked (c : Core) (n : Nat) : (c.pcOn n).marked = c.marked := by unfold Core.pcOn; split <;> rfl
@[simp] theorem Core.pcOn_pendRel (c : Core) (n : Nat) : (c.pcOn n).pendRel = c.pendRel := by unfold Core.pcOn; split <;> rfl
@[simp] theorem Core.pcOn_bodyRel (c : Core) (n : Nat) : (c.pcOn n).bodyRel = c.bodyRel := by unfold Core.pcOn; split <;> rfl
@[simp] theorem Core.pcOn_counters (c : Core) (n : Nat) : (c.pcOn n).counters = c.counters := by unfold Core.pcOn; split <;> rfl
@[simp] theorem Core.pcOn_handlers (c : Core) (n : Nat) : (c.pcOn n).handlers = c.handlers := by unfold Core.pcOn; split <;> rfl
@[simp] theorem Core.pcOn_windows (c : Core) (n : Nat) : (c.pcOn n).windows = c.windows := by unfold Core.pcOn; split <;> rfl
@[simp] theorem Core.pcOn_tblA (c : Core) (n : Nat) : (c.pcOn n).tblA = c.tblA := by unfold Core.pcOn; split <;> rfl
@[simp] theorem Core.pcOn_tblB (c : Core) (n : Nat) : (c.pcOn n).tblB = c.tblB := by unfold Core.pcOn; split <;> rfl
@[simp] theorem Core.pcOn_fit (c : Core) (n : Nat) : (c.pcOn n).fit = c.fit := by unfold Core.pcOn; split <;> rfl
@[simp] theorem Core.pcOn_wms (c : Core) (n : Nat) : (c.pcOn n).wms = c.wms := by unfold Core.pcOn; split <;> rfl
@[simp] theorem Core.pcOn_samples (c : Core) (n : Nat) : (c.pcOn n).samples = c.samples := by unfold Core.pcOn; split <;> rfl
@[simp] theorem Core.pcOn_lt (c : Core) (n : Nat) : (c.pcOn n).lt = c.lt := by unfold Core.pcOn; split <;> rfl
@[simp] theorem Core.pcOn_inbox (c : Core) (n : Nat) : (c.pcOn n).inbox = c.inbox := by unfold Core.pcOn; split <;> rfl
@[simp] theorem Core.pcOn_parked (c : Core) (n : Nat) : (c.pcOn n).parked = c.parked := by unfold Core.pcOn; split <;> rfl
@[simp] theorem Core.pcOn_evq (c : Core) (n : Nat) : (c.pcOn n).evq = c.evq := by unfold Core.pcOn; split <;> rfl
@[simp] theorem Core.pcOn_queues (c : Core) (n : Nat) : (c.pcOn n).queues = c.queues := by unfold Core.pcOn; split <;> rfl
@[simp] theorem Core.pcOn_kwork (c : Core) (n : Nat) : (c.pcOn n).kwork = c.kwork := by unfold Core.pcOn; split <;> rfl
@[simp] theorem Core.pcOn_sendBuf (c : Core) (n : Nat) : (c.pcOn n).sendBuf = c.sendBuf := by unfold Core.pcOn; split <;> rfl
@[simp] theorem Core.pcOn_ni (c : Core) (n : Nat) : (c.pcOn n).ni = c.ni := by unfold Core.pcOn; split <;> rfl
@[simp] theorem Core.pcOn_sendNo (c : Core) (n : Nat) : (c.pcOn n).sendNo = c.sendNo := by unfold Core.pcOn; split <;> rfl
@[simp] theorem Core.pcOn_orders (c : Core) (n : Nat) : (c.pcOn n).orders = c.orders := by unfold Core.pcOn; split <;> rfl
@[simp] theorem Core.pcOn_latch (c : Core) (n : Nat) : (c.pcOn n).latch = c.latch := by unfold Core.pcOn; split <;> rfl
@[simp] theorem Core.pcOn_inbound (c : Core) (n : Nat) : (c.pcOn n).inbound = c.inbound := by unfold Core.pcOn; split <;> rfl
@[simp] theorem Core.pcOn_loading (c : Core) (n : Nat) : (c.pcOn n).loading = c.loading := by unfold Core.pcOn; split <;> rfl
@[simp] theorem Core.pcOn_mxq (c : Core) (n : Nat) : (c.pcOn n).mxq = c.mxq := by unfold Core.pcOn; split <;> rfl
@[simp] theorem Core.pcOn_slots (c : Core) (n : Nat) : (c.pcOn n).slots = c.slots := by unfold Core.pcOn; split <;> rfl
@[simp] theorem Core.pcOn_weight (c : Core) (n : Nat) : (c.pcOn n).weight = c.weight := by unfold Core.pcOn; split <;> rfl
@[simp] theorem Core.pcOn_mxFault (c : Core) (n : Nat) : (c.pcOn n).mxFault = c.mxFault := by unfold Core.pcOn; split <;> rfl
@[simp] theorem Core.pcOn_sc (c : Core) (n : Nat) : (c.pcOn n).sc = c.sc := by unfold Core.pcOn; split <;> rfl
@[simp] theorem Core.pcOn_rread (c : Core) (n : Nat) : (c.pcOn n).rread = c.rread := by unfold Core.pcOn; split <;> rfl
@[simp] theorem Core.pcOn_unpick (c : Core) (n : Nat) : (c.pcOn n).unpick = c.unpick := by unfold Core.pcOn; split <;> rfl
@[simp] theorem Core.pcOn_routines (c : Core) (n : Nat) : (c.pcOn n).routines = c.routines := by unfold Core.pcOn; split <;> rfl
@[simp] theorem Core.pcOn_install (c : Core) (n : Nat) : (c.pcOn n).install = c.install := by unfold Core.pcOn; split <;> rfl
@[simp] theorem Core.pcOn_reported (c : Core) (n : Nat) : (c.pcOn n).reported = c.reported := by unfold Core.pcOn; split <;> rfl
@[simp] theorem Core.pcOn_hold (c : Core) (n : Nat) : (c.pcOn n).hold = c.hold := by unfold Core.pcOn; split <;> rfl
@[simp] theorem Core.pcOn_discards (c : Core) (n : Nat) : (c.pcOn n).discards = c.discards := by unfold Core.pcOn; split <;> rfl

/-! ### The pc moved elsewhere -/

@[simp] theorem Core.pcTo_regs (c : Core) (p : BitVec 12) : (c.pcTo p).regs = c.regs := by unfold Core.pcTo; split <;> rfl
@[simp] theorem Core.pcTo_kregs (c : Core) (p : BitVec 12) : (c.pcTo p).kregs = c.kregs := by unfold Core.pcTo; split <;> rfl
@[simp] theorem Core.pcTo_chn (c : Core) (p : BitVec 12) : (c.pcTo p).chn = c.chn := by unfold Core.pcTo; split <;> rfl
@[simp] theorem Core.pcTo_csr (c : Core) (p : BitVec 12) : (c.pcTo p).csr = c.csr := by unfold Core.pcTo; split <;> rfl
@[simp] theorem Core.pcTo_insn (c : Core) (p : BitVec 12) : (c.pcTo p).insn = c.insn := by unfold Core.pcTo; split <;> rfl
@[simp] theorem Core.pcTo_stream (c : Core) (p : BitVec 12) : (c.pcTo p).stream = c.stream := by unfold Core.pcTo; split <;> rfl
@[simp] theorem Core.pcTo_turn (c : Core) (p : BitVec 12) : (c.pcTo p).turn = c.turn := by unfold Core.pcTo; split <;> rfl
@[simp] theorem Core.pcTo_task (c : Core) (p : BitVec 12) : (c.pcTo p).task = c.task := by unfold Core.pcTo; split <;> rfl
@[simp] theorem Core.pcTo_svc (c : Core) (p : BitVec 12) : (c.pcTo p).svc = c.svc := by unfold Core.pcTo; split <;> rfl
@[simp] theorem Core.pcTo_out (c : Core) (p : BitVec 12) : (c.pcTo p).out = c.out := by unfold Core.pcTo; split <;> rfl
@[simp] theorem Core.pcTo_stalled (c : Core) (p : BitVec 12) : (c.pcTo p).stalled = c.stalled := by unfold Core.pcTo; split <;> rfl
@[simp] theorem Core.pcTo_resetAt (c : Core) (p : BitVec 12) : (c.pcTo p).resetAt = c.resetAt := by unfold Core.pcTo; split <;> rfl
@[simp] theorem Core.pcTo_tasks (c : Core) (p : BitVec 12) : (c.pcTo p).tasks = c.tasks := by unfold Core.pcTo; split <;> rfl
@[simp] theorem Core.pcTo_binds (c : Core) (p : BitVec 12) : (c.pcTo p).binds = c.binds := by unfold Core.pcTo; split <;> rfl
@[simp] theorem Core.pcTo_rep (c : Core) (p : BitVec 12) : (c.pcTo p).rep = c.rep := by unfold Core.pcTo; split <;> rfl
@[simp] theorem Core.pcTo_aqs (c : Core) (p : BitVec 12) : (c.pcTo p).aqs = c.aqs := by unfold Core.pcTo; split <;> rfl
@[simp] theorem Core.pcTo_link (c : Core) (p : BitVec 12) : (c.pcTo p).link = c.link := by unfold Core.pcTo; split <;> rfl
@[simp] theorem Core.pcTo_stores (c : Core) (p : BitVec 12) : (c.pcTo p).stores = c.stores := by unfold Core.pcTo; split <;> rfl
@[simp] theorem Core.pcTo_early (c : Core) (p : BitVec 12) : (c.pcTo p).early = c.early := by unfold Core.pcTo; split <;> rfl
@[simp] theorem Core.pcTo_deps (c : Core) (p : BitVec 12) : (c.pcTo p).deps = c.deps := by unfold Core.pcTo; split <;> rfl
@[simp] theorem Core.pcTo_loadAt (c : Core) (p : BitVec 12) : (c.pcTo p).loadAt = c.loadAt := by unfold Core.pcTo; split <;> rfl
@[simp] theorem Core.pcTo_marked (c : Core) (p : BitVec 12) : (c.pcTo p).marked = c.marked := by unfold Core.pcTo; split <;> rfl
@[simp] theorem Core.pcTo_pendRel (c : Core) (p : BitVec 12) : (c.pcTo p).pendRel = c.pendRel := by unfold Core.pcTo; split <;> rfl
@[simp] theorem Core.pcTo_bodyRel (c : Core) (p : BitVec 12) : (c.pcTo p).bodyRel = c.bodyRel := by unfold Core.pcTo; split <;> rfl
@[simp] theorem Core.pcTo_counters (c : Core) (p : BitVec 12) : (c.pcTo p).counters = c.counters := by unfold Core.pcTo; split <;> rfl
@[simp] theorem Core.pcTo_handlers (c : Core) (p : BitVec 12) : (c.pcTo p).handlers = c.handlers := by unfold Core.pcTo; split <;> rfl
@[simp] theorem Core.pcTo_windows (c : Core) (p : BitVec 12) : (c.pcTo p).windows = c.windows := by unfold Core.pcTo; split <;> rfl
@[simp] theorem Core.pcTo_tblA (c : Core) (p : BitVec 12) : (c.pcTo p).tblA = c.tblA := by unfold Core.pcTo; split <;> rfl
@[simp] theorem Core.pcTo_tblB (c : Core) (p : BitVec 12) : (c.pcTo p).tblB = c.tblB := by unfold Core.pcTo; split <;> rfl
@[simp] theorem Core.pcTo_fit (c : Core) (p : BitVec 12) : (c.pcTo p).fit = c.fit := by unfold Core.pcTo; split <;> rfl
@[simp] theorem Core.pcTo_wms (c : Core) (p : BitVec 12) : (c.pcTo p).wms = c.wms := by unfold Core.pcTo; split <;> rfl
@[simp] theorem Core.pcTo_samples (c : Core) (p : BitVec 12) : (c.pcTo p).samples = c.samples := by unfold Core.pcTo; split <;> rfl
@[simp] theorem Core.pcTo_lt (c : Core) (p : BitVec 12) : (c.pcTo p).lt = c.lt := by unfold Core.pcTo; split <;> rfl
@[simp] theorem Core.pcTo_inbox (c : Core) (p : BitVec 12) : (c.pcTo p).inbox = c.inbox := by unfold Core.pcTo; split <;> rfl
@[simp] theorem Core.pcTo_parked (c : Core) (p : BitVec 12) : (c.pcTo p).parked = c.parked := by unfold Core.pcTo; split <;> rfl
@[simp] theorem Core.pcTo_evq (c : Core) (p : BitVec 12) : (c.pcTo p).evq = c.evq := by unfold Core.pcTo; split <;> rfl
@[simp] theorem Core.pcTo_queues (c : Core) (p : BitVec 12) : (c.pcTo p).queues = c.queues := by unfold Core.pcTo; split <;> rfl
@[simp] theorem Core.pcTo_kwork (c : Core) (p : BitVec 12) : (c.pcTo p).kwork = c.kwork := by unfold Core.pcTo; split <;> rfl
@[simp] theorem Core.pcTo_sendBuf (c : Core) (p : BitVec 12) : (c.pcTo p).sendBuf = c.sendBuf := by unfold Core.pcTo; split <;> rfl
@[simp] theorem Core.pcTo_ni (c : Core) (p : BitVec 12) : (c.pcTo p).ni = c.ni := by unfold Core.pcTo; split <;> rfl
@[simp] theorem Core.pcTo_sendNo (c : Core) (p : BitVec 12) : (c.pcTo p).sendNo = c.sendNo := by unfold Core.pcTo; split <;> rfl
@[simp] theorem Core.pcTo_orders (c : Core) (p : BitVec 12) : (c.pcTo p).orders = c.orders := by unfold Core.pcTo; split <;> rfl
@[simp] theorem Core.pcTo_latch (c : Core) (p : BitVec 12) : (c.pcTo p).latch = c.latch := by unfold Core.pcTo; split <;> rfl
@[simp] theorem Core.pcTo_inbound (c : Core) (p : BitVec 12) : (c.pcTo p).inbound = c.inbound := by unfold Core.pcTo; split <;> rfl
@[simp] theorem Core.pcTo_loading (c : Core) (p : BitVec 12) : (c.pcTo p).loading = c.loading := by unfold Core.pcTo; split <;> rfl
@[simp] theorem Core.pcTo_mxq (c : Core) (p : BitVec 12) : (c.pcTo p).mxq = c.mxq := by unfold Core.pcTo; split <;> rfl
@[simp] theorem Core.pcTo_slots (c : Core) (p : BitVec 12) : (c.pcTo p).slots = c.slots := by unfold Core.pcTo; split <;> rfl
@[simp] theorem Core.pcTo_weight (c : Core) (p : BitVec 12) : (c.pcTo p).weight = c.weight := by unfold Core.pcTo; split <;> rfl
@[simp] theorem Core.pcTo_mxFault (c : Core) (p : BitVec 12) : (c.pcTo p).mxFault = c.mxFault := by unfold Core.pcTo; split <;> rfl
@[simp] theorem Core.pcTo_sc (c : Core) (p : BitVec 12) : (c.pcTo p).sc = c.sc := by unfold Core.pcTo; split <;> rfl
@[simp] theorem Core.pcTo_rread (c : Core) (p : BitVec 12) : (c.pcTo p).rread = c.rread := by unfold Core.pcTo; split <;> rfl
@[simp] theorem Core.pcTo_unpick (c : Core) (p : BitVec 12) : (c.pcTo p).unpick = c.unpick := by unfold Core.pcTo; split <;> rfl
@[simp] theorem Core.pcTo_routines (c : Core) (p : BitVec 12) : (c.pcTo p).routines = c.routines := by unfold Core.pcTo; split <;> rfl
@[simp] theorem Core.pcTo_install (c : Core) (p : BitVec 12) : (c.pcTo p).install = c.install := by unfold Core.pcTo; split <;> rfl
@[simp] theorem Core.pcTo_reported (c : Core) (p : BitVec 12) : (c.pcTo p).reported = c.reported := by unfold Core.pcTo; split <;> rfl
@[simp] theorem Core.pcTo_hold (c : Core) (p : BitVec 12) : (c.pcTo p).hold = c.hold := by unfold Core.pcTo; split <;> rfl
@[simp] theorem Core.pcTo_discards (c : Core) (p : BitVec 12) : (c.pcTo p).discards = c.discards := by unfold Core.pcTo; split <;> rfl

/-! ### An instruction retired -/

@[simp] theorem Core.retired_regs (c : Core) : (c.retired).regs = c.regs := rfl
@[simp] theorem Core.retired_kregs (c : Core) : (c.retired).kregs = c.kregs := rfl
@[simp] theorem Core.retired_pc (c : Core) : (c.retired).pc = c.pc := rfl
@[simp] theorem Core.retired_kpc (c : Core) : (c.retired).kpc = c.kpc := rfl
@[simp] theorem Core.retired_chn (c : Core) : (c.retired).chn = c.chn := rfl
@[simp] theorem Core.retired_insn (c : Core) : (c.retired).insn = c.insn := rfl
@[simp] theorem Core.retired_stream (c : Core) : (c.retired).stream = c.stream := rfl
@[simp] theorem Core.retired_turn (c : Core) : (c.retired).turn = c.turn := rfl
@[simp] theorem Core.retired_task (c : Core) : (c.retired).task = c.task := rfl
@[simp] theorem Core.retired_svc (c : Core) : (c.retired).svc = c.svc := rfl
@[simp] theorem Core.retired_out (c : Core) : (c.retired).out = c.out := rfl
@[simp] theorem Core.retired_resetAt (c : Core) : (c.retired).resetAt = c.resetAt := rfl
@[simp] theorem Core.retired_tasks (c : Core) : (c.retired).tasks = c.tasks := rfl
@[simp] theorem Core.retired_binds (c : Core) : (c.retired).binds = c.binds := rfl
@[simp] theorem Core.retired_rep (c : Core) : (c.retired).rep = c.rep := rfl
@[simp] theorem Core.retired_aqs (c : Core) : (c.retired).aqs = c.aqs := rfl
@[simp] theorem Core.retired_link (c : Core) : (c.retired).link = c.link := rfl
@[simp] theorem Core.retired_stores (c : Core) : (c.retired).stores = c.stores := rfl
@[simp] theorem Core.retired_early (c : Core) : (c.retired).early = c.early := rfl
@[simp] theorem Core.retired_deps (c : Core) : (c.retired).deps = c.deps := rfl
@[simp] theorem Core.retired_loadAt (c : Core) : (c.retired).loadAt = c.loadAt := rfl
@[simp] theorem Core.retired_marked (c : Core) : (c.retired).marked = c.marked := rfl
@[simp] theorem Core.retired_pendRel (c : Core) : (c.retired).pendRel = c.pendRel := rfl
@[simp] theorem Core.retired_bodyRel (c : Core) : (c.retired).bodyRel = c.bodyRel := rfl
@[simp] theorem Core.retired_counters (c : Core) : (c.retired).counters = c.counters := rfl
@[simp] theorem Core.retired_handlers (c : Core) : (c.retired).handlers = c.handlers := rfl
@[simp] theorem Core.retired_windows (c : Core) : (c.retired).windows = c.windows := rfl
@[simp] theorem Core.retired_tblA (c : Core) : (c.retired).tblA = c.tblA := rfl
@[simp] theorem Core.retired_tblB (c : Core) : (c.retired).tblB = c.tblB := rfl
@[simp] theorem Core.retired_fit (c : Core) : (c.retired).fit = c.fit := rfl
@[simp] theorem Core.retired_wms (c : Core) : (c.retired).wms = c.wms := rfl
@[simp] theorem Core.retired_samples (c : Core) : (c.retired).samples = c.samples := rfl
@[simp] theorem Core.retired_lt (c : Core) : (c.retired).lt = c.lt := rfl
@[simp] theorem Core.retired_inbox (c : Core) : (c.retired).inbox = c.inbox := rfl
@[simp] theorem Core.retired_parked (c : Core) : (c.retired).parked = c.parked := rfl
@[simp] theorem Core.retired_evq (c : Core) : (c.retired).evq = c.evq := rfl
@[simp] theorem Core.retired_queues (c : Core) : (c.retired).queues = c.queues := rfl
@[simp] theorem Core.retired_kwork (c : Core) : (c.retired).kwork = c.kwork := rfl
@[simp] theorem Core.retired_sendBuf (c : Core) : (c.retired).sendBuf = c.sendBuf := rfl
@[simp] theorem Core.retired_ni (c : Core) : (c.retired).ni = c.ni := rfl
@[simp] theorem Core.retired_sendNo (c : Core) : (c.retired).sendNo = c.sendNo := rfl
@[simp] theorem Core.retired_orders (c : Core) : (c.retired).orders = c.orders := rfl
@[simp] theorem Core.retired_latch (c : Core) : (c.retired).latch = c.latch := rfl
@[simp] theorem Core.retired_inbound (c : Core) : (c.retired).inbound = c.inbound := rfl
@[simp] theorem Core.retired_loading (c : Core) : (c.retired).loading = c.loading := rfl
@[simp] theorem Core.retired_mxq (c : Core) : (c.retired).mxq = c.mxq := rfl
@[simp] theorem Core.retired_slots (c : Core) : (c.retired).slots = c.slots := rfl
@[simp] theorem Core.retired_weight (c : Core) : (c.retired).weight = c.weight := rfl
@[simp] theorem Core.retired_mxFault (c : Core) : (c.retired).mxFault = c.mxFault := rfl
@[simp] theorem Core.retired_sc (c : Core) : (c.retired).sc = c.sc := rfl
@[simp] theorem Core.retired_rread (c : Core) : (c.retired).rread = c.rread := rfl
@[simp] theorem Core.retired_unpick (c : Core) : (c.retired).unpick = c.unpick := rfl
@[simp] theorem Core.retired_routines (c : Core) : (c.retired).routines = c.routines := rfl
@[simp] theorem Core.retired_install (c : Core) : (c.retired).install = c.install := rfl
@[simp] theorem Core.retired_reported (c : Core) : (c.retired).reported = c.reported := rfl
@[simp] theorem Core.retired_hold (c : Core) : (c.retired).hold = c.hold := rfl
@[simp] theorem Core.retired_discards (c : Core) : (c.retired).discards = c.discards := rfl

/-! ### Bindings released -/

@[simp] theorem Core.unbindAll_regs (c : Core) : (c.unbindAll).regs = c.regs := rfl
@[simp] theorem Core.unbindAll_kregs (c : Core) : (c.unbindAll).kregs = c.kregs := rfl
@[simp] theorem Core.unbindAll_pc (c : Core) : (c.unbindAll).pc = c.pc := rfl
@[simp] theorem Core.unbindAll_kpc (c : Core) : (c.unbindAll).kpc = c.kpc := rfl
@[simp] theorem Core.unbindAll_chn (c : Core) : (c.unbindAll).chn = c.chn := rfl
@[simp] theorem Core.unbindAll_csr (c : Core) : (c.unbindAll).csr = c.csr := rfl
@[simp] theorem Core.unbindAll_insn (c : Core) : (c.unbindAll).insn = c.insn := rfl
@[simp] theorem Core.unbindAll_task (c : Core) : (c.unbindAll).task = c.task := rfl
@[simp] theorem Core.unbindAll_svc (c : Core) : (c.unbindAll).svc = c.svc := rfl
@[simp] theorem Core.unbindAll_out (c : Core) : (c.unbindAll).out = c.out := rfl
@[simp] theorem Core.unbindAll_stalled (c : Core) : (c.unbindAll).stalled = c.stalled := rfl
@[simp] theorem Core.unbindAll_resetAt (c : Core) : (c.unbindAll).resetAt = c.resetAt := rfl
@[simp] theorem Core.unbindAll_tasks (c : Core) : (c.unbindAll).tasks = c.tasks := rfl
@[simp] theorem Core.unbindAll_link (c : Core) : (c.unbindAll).link = c.link := rfl
@[simp] theorem Core.unbindAll_stores (c : Core) : (c.unbindAll).stores = c.stores := rfl
@[simp] theorem Core.unbindAll_deps (c : Core) : (c.unbindAll).deps = c.deps := rfl
@[simp] theorem Core.unbindAll_loadAt (c : Core) : (c.unbindAll).loadAt = c.loadAt := rfl
@[simp] theorem Core.unbindAll_pendRel (c : Core) : (c.unbindAll).pendRel = c.pendRel := rfl
@[simp] theorem Core.unbindAll_bodyRel (c : Core) : (c.unbindAll).bodyRel = c.bodyRel := rfl
@[simp] theorem Core.unbindAll_counters (c : Core) : (c.unbindAll).counters = c.counters := rfl
@[simp] theorem Core.unbindAll_handlers (c : Core) : (c.unbindAll).handlers = c.handlers := rfl
@[simp] theorem Core.unbindAll_windows (c : Core) : (c.unbindAll).windows = c.windows := rfl
@[simp] theorem Core.unbindAll_tblA (c : Core) : (c.unbindAll).tblA = c.tblA := rfl
@[simp] theorem Core.unbindAll_tblB (c : Core) : (c.unbindAll).tblB = c.tblB := rfl
@[simp] theorem Core.unbindAll_fit (c : Core) : (c.unbindAll).fit = c.fit := rfl
@[simp] theorem Core.unbindAll_wms (c : Core) : (c.unbindAll).wms = c.wms := rfl
@[simp] theorem Core.unbindAll_samples (c : Core) : (c.unbindAll).samples = c.samples := rfl
@[simp] theorem Core.unbindAll_lt (c : Core) : (c.unbindAll).lt = c.lt := rfl
@[simp] theorem Core.unbindAll_inbox (c : Core) : (c.unbindAll).inbox = c.inbox := rfl
@[simp] theorem Core.unbindAll_parked (c : Core) : (c.unbindAll).parked = c.parked := rfl
@[simp] theorem Core.unbindAll_evq (c : Core) : (c.unbindAll).evq = c.evq := rfl
@[simp] theorem Core.unbindAll_queues (c : Core) : (c.unbindAll).queues = c.queues := rfl
@[simp] theorem Core.unbindAll_kwork (c : Core) : (c.unbindAll).kwork = c.kwork := rfl
@[simp] theorem Core.unbindAll_sendBuf (c : Core) : (c.unbindAll).sendBuf = c.sendBuf := rfl
@[simp] theorem Core.unbindAll_ni (c : Core) : (c.unbindAll).ni = c.ni := rfl
@[simp] theorem Core.unbindAll_sendNo (c : Core) : (c.unbindAll).sendNo = c.sendNo := rfl
@[simp] theorem Core.unbindAll_orders (c : Core) : (c.unbindAll).orders = c.orders := rfl
@[simp] theorem Core.unbindAll_latch (c : Core) : (c.unbindAll).latch = c.latch := rfl
@[simp] theorem Core.unbindAll_inbound (c : Core) : (c.unbindAll).inbound = c.inbound := rfl
@[simp] theorem Core.unbindAll_mxq (c : Core) : (c.unbindAll).mxq = c.mxq := rfl
@[simp] theorem Core.unbindAll_slots (c : Core) : (c.unbindAll).slots = c.slots := rfl
@[simp] theorem Core.unbindAll_weight (c : Core) : (c.unbindAll).weight = c.weight := rfl
@[simp] theorem Core.unbindAll_mxFault (c : Core) : (c.unbindAll).mxFault = c.mxFault := rfl
@[simp] theorem Core.unbindAll_unpick (c : Core) : (c.unbindAll).unpick = c.unpick := rfl
@[simp] theorem Core.unbindAll_routines (c : Core) : (c.unbindAll).routines = c.routines := rfl
@[simp] theorem Core.unbindAll_install (c : Core) : (c.unbindAll).install = c.install := rfl
@[simp] theorem Core.unbindAll_reported (c : Core) : (c.unbindAll).reported = c.reported := rfl
@[simp] theorem Core.unbindAll_hold (c : Core) : (c.unbindAll).hold = c.hold := rfl
@[simp] theorem Core.unbindAll_discards (c : Core) : (c.unbindAll).discards = c.discards := rfl

/-! ### Sends discarded -/

@[simp] theorem Core.dropSends_regs (c : Core) : (c.dropSends).regs = c.regs := rfl
@[simp] theorem Core.dropSends_kregs (c : Core) : (c.dropSends).kregs = c.kregs := rfl
@[simp] theorem Core.dropSends_pc (c : Core) : (c.dropSends).pc = c.pc := rfl
@[simp] theorem Core.dropSends_kpc (c : Core) : (c.dropSends).kpc = c.kpc := rfl
@[simp] theorem Core.dropSends_chn (c : Core) : (c.dropSends).chn = c.chn := rfl
@[simp] theorem Core.dropSends_csr (c : Core) : (c.dropSends).csr = c.csr := rfl
@[simp] theorem Core.dropSends_insn (c : Core) : (c.dropSends).insn = c.insn := rfl
@[simp] theorem Core.dropSends_stream (c : Core) : (c.dropSends).stream = c.stream := rfl
@[simp] theorem Core.dropSends_turn (c : Core) : (c.dropSends).turn = c.turn := rfl
@[simp] theorem Core.dropSends_task (c : Core) : (c.dropSends).task = c.task := rfl
@[simp] theorem Core.dropSends_svc (c : Core) : (c.dropSends).svc = c.svc := rfl
@[simp] theorem Core.dropSends_out (c : Core) : (c.dropSends).out = c.out := rfl
@[simp] theorem Core.dropSends_stalled (c : Core) : (c.dropSends).stalled = c.stalled := rfl
@[simp] theorem Core.dropSends_resetAt (c : Core) : (c.dropSends).resetAt = c.resetAt := rfl
@[simp] theorem Core.dropSends_tasks (c : Core) : (c.dropSends).tasks = c.tasks := rfl
@[simp] theorem Core.dropSends_binds (c : Core) : (c.dropSends).binds = c.binds := rfl
@[simp] theorem Core.dropSends_rep (c : Core) : (c.dropSends).rep = c.rep := rfl
@[simp] theorem Core.dropSends_aqs (c : Core) : (c.dropSends).aqs = c.aqs := rfl
@[simp] theorem Core.dropSends_link (c : Core) : (c.dropSends).link = c.link := rfl
@[simp] theorem Core.dropSends_stores (c : Core) : (c.dropSends).stores = c.stores := rfl
@[simp] theorem Core.dropSends_early (c : Core) : (c.dropSends).early = c.early := rfl
@[simp] theorem Core.dropSends_deps (c : Core) : (c.dropSends).deps = c.deps := rfl
@[simp] theorem Core.dropSends_loadAt (c : Core) : (c.dropSends).loadAt = c.loadAt := rfl
@[simp] theorem Core.dropSends_marked (c : Core) : (c.dropSends).marked = c.marked := rfl
@[simp] theorem Core.dropSends_pendRel (c : Core) : (c.dropSends).pendRel = c.pendRel := rfl
@[simp] theorem Core.dropSends_bodyRel (c : Core) : (c.dropSends).bodyRel = c.bodyRel := rfl
@[simp] theorem Core.dropSends_counters (c : Core) : (c.dropSends).counters = c.counters := rfl
@[simp] theorem Core.dropSends_handlers (c : Core) : (c.dropSends).handlers = c.handlers := rfl
@[simp] theorem Core.dropSends_windows (c : Core) : (c.dropSends).windows = c.windows := rfl
@[simp] theorem Core.dropSends_tblA (c : Core) : (c.dropSends).tblA = c.tblA := rfl
@[simp] theorem Core.dropSends_tblB (c : Core) : (c.dropSends).tblB = c.tblB := rfl
@[simp] theorem Core.dropSends_fit (c : Core) : (c.dropSends).fit = c.fit := rfl
@[simp] theorem Core.dropSends_wms (c : Core) : (c.dropSends).wms = c.wms := rfl
@[simp] theorem Core.dropSends_samples (c : Core) : (c.dropSends).samples = c.samples := rfl
@[simp] theorem Core.dropSends_lt (c : Core) : (c.dropSends).lt = c.lt := rfl
@[simp] theorem Core.dropSends_inbox (c : Core) : (c.dropSends).inbox = c.inbox := rfl
@[simp] theorem Core.dropSends_parked (c : Core) : (c.dropSends).parked = c.parked := rfl
@[simp] theorem Core.dropSends_evq (c : Core) : (c.dropSends).evq = c.evq := rfl
@[simp] theorem Core.dropSends_queues (c : Core) : (c.dropSends).queues = c.queues := rfl
@[simp] theorem Core.dropSends_kwork (c : Core) : (c.dropSends).kwork = c.kwork := rfl
@[simp] theorem Core.dropSends_ni (c : Core) : (c.dropSends).ni = c.ni := rfl
@[simp] theorem Core.dropSends_sendNo (c : Core) : (c.dropSends).sendNo = c.sendNo := rfl
@[simp] theorem Core.dropSends_orders (c : Core) : (c.dropSends).orders = c.orders := rfl
@[simp] theorem Core.dropSends_latch (c : Core) : (c.dropSends).latch = c.latch := rfl
@[simp] theorem Core.dropSends_inbound (c : Core) : (c.dropSends).inbound = c.inbound := rfl
@[simp] theorem Core.dropSends_loading (c : Core) : (c.dropSends).loading = c.loading := rfl
@[simp] theorem Core.dropSends_mxq (c : Core) : (c.dropSends).mxq = c.mxq := rfl
@[simp] theorem Core.dropSends_slots (c : Core) : (c.dropSends).slots = c.slots := rfl
@[simp] theorem Core.dropSends_weight (c : Core) : (c.dropSends).weight = c.weight := rfl
@[simp] theorem Core.dropSends_mxFault (c : Core) : (c.dropSends).mxFault = c.mxFault := rfl
@[simp] theorem Core.dropSends_sc (c : Core) : (c.dropSends).sc = c.sc := rfl
@[simp] theorem Core.dropSends_rread (c : Core) : (c.dropSends).rread = c.rread := rfl
@[simp] theorem Core.dropSends_unpick (c : Core) : (c.dropSends).unpick = c.unpick := rfl
@[simp] theorem Core.dropSends_routines (c : Core) : (c.dropSends).routines = c.routines := rfl
@[simp] theorem Core.dropSends_install (c : Core) : (c.dropSends).install = c.install := rfl
@[simp] theorem Core.dropSends_reported (c : Core) : (c.dropSends).reported = c.reported := rfl
@[simp] theorem Core.dropSends_hold (c : Core) : (c.dropSends).hold = c.hold := rfl
@[simp] theorem Core.dropSends_discards (c : Core) : (c.dropSends).discards = c.discards := rfl

/-! ### A message of the network interface -/

@[simp] theorem Core.niPost_regs (c : Core) (m : Msg) (d : List (Nat × Nat)) : (c.niPost m d).regs = c.regs := rfl
@[simp] theorem Core.niPost_kregs (c : Core) (m : Msg) (d : List (Nat × Nat)) : (c.niPost m d).kregs = c.kregs := rfl
@[simp] theorem Core.niPost_pc (c : Core) (m : Msg) (d : List (Nat × Nat)) : (c.niPost m d).pc = c.pc := rfl
@[simp] theorem Core.niPost_kpc (c : Core) (m : Msg) (d : List (Nat × Nat)) : (c.niPost m d).kpc = c.kpc := rfl
@[simp] theorem Core.niPost_chn (c : Core) (m : Msg) (d : List (Nat × Nat)) : (c.niPost m d).chn = c.chn := rfl
@[simp] theorem Core.niPost_csr (c : Core) (m : Msg) (d : List (Nat × Nat)) : (c.niPost m d).csr = c.csr := rfl
@[simp] theorem Core.niPost_insn (c : Core) (m : Msg) (d : List (Nat × Nat)) : (c.niPost m d).insn = c.insn := rfl
@[simp] theorem Core.niPost_stream (c : Core) (m : Msg) (d : List (Nat × Nat)) : (c.niPost m d).stream = c.stream := rfl
@[simp] theorem Core.niPost_turn (c : Core) (m : Msg) (d : List (Nat × Nat)) : (c.niPost m d).turn = c.turn := rfl
@[simp] theorem Core.niPost_task (c : Core) (m : Msg) (d : List (Nat × Nat)) : (c.niPost m d).task = c.task := rfl
@[simp] theorem Core.niPost_svc (c : Core) (m : Msg) (d : List (Nat × Nat)) : (c.niPost m d).svc = c.svc := rfl
@[simp] theorem Core.niPost_out (c : Core) (m : Msg) (d : List (Nat × Nat)) : (c.niPost m d).out = c.out := rfl
@[simp] theorem Core.niPost_stalled (c : Core) (m : Msg) (d : List (Nat × Nat)) : (c.niPost m d).stalled = c.stalled := rfl
@[simp] theorem Core.niPost_resetAt (c : Core) (m : Msg) (d : List (Nat × Nat)) : (c.niPost m d).resetAt = c.resetAt := rfl
@[simp] theorem Core.niPost_tasks (c : Core) (m : Msg) (d : List (Nat × Nat)) : (c.niPost m d).tasks = c.tasks := rfl
@[simp] theorem Core.niPost_binds (c : Core) (m : Msg) (d : List (Nat × Nat)) : (c.niPost m d).binds = c.binds := rfl
@[simp] theorem Core.niPost_rep (c : Core) (m : Msg) (d : List (Nat × Nat)) : (c.niPost m d).rep = c.rep := rfl
@[simp] theorem Core.niPost_aqs (c : Core) (m : Msg) (d : List (Nat × Nat)) : (c.niPost m d).aqs = c.aqs := rfl
@[simp] theorem Core.niPost_link (c : Core) (m : Msg) (d : List (Nat × Nat)) : (c.niPost m d).link = c.link := rfl
@[simp] theorem Core.niPost_stores (c : Core) (m : Msg) (d : List (Nat × Nat)) : (c.niPost m d).stores = c.stores := rfl
@[simp] theorem Core.niPost_early (c : Core) (m : Msg) (d : List (Nat × Nat)) : (c.niPost m d).early = c.early := rfl
@[simp] theorem Core.niPost_deps (c : Core) (m : Msg) (d : List (Nat × Nat)) : (c.niPost m d).deps = c.deps := rfl
@[simp] theorem Core.niPost_loadAt (c : Core) (m : Msg) (d : List (Nat × Nat)) : (c.niPost m d).loadAt = c.loadAt := rfl
@[simp] theorem Core.niPost_marked (c : Core) (m : Msg) (d : List (Nat × Nat)) : (c.niPost m d).marked = c.marked := rfl
@[simp] theorem Core.niPost_pendRel (c : Core) (m : Msg) (d : List (Nat × Nat)) : (c.niPost m d).pendRel = c.pendRel := rfl
@[simp] theorem Core.niPost_bodyRel (c : Core) (m : Msg) (d : List (Nat × Nat)) : (c.niPost m d).bodyRel = c.bodyRel := rfl
@[simp] theorem Core.niPost_counters (c : Core) (m : Msg) (d : List (Nat × Nat)) : (c.niPost m d).counters = c.counters := rfl
@[simp] theorem Core.niPost_handlers (c : Core) (m : Msg) (d : List (Nat × Nat)) : (c.niPost m d).handlers = c.handlers := rfl
@[simp] theorem Core.niPost_windows (c : Core) (m : Msg) (d : List (Nat × Nat)) : (c.niPost m d).windows = c.windows := rfl
@[simp] theorem Core.niPost_tblA (c : Core) (m : Msg) (d : List (Nat × Nat)) : (c.niPost m d).tblA = c.tblA := rfl
@[simp] theorem Core.niPost_tblB (c : Core) (m : Msg) (d : List (Nat × Nat)) : (c.niPost m d).tblB = c.tblB := rfl
@[simp] theorem Core.niPost_fit (c : Core) (m : Msg) (d : List (Nat × Nat)) : (c.niPost m d).fit = c.fit := rfl
@[simp] theorem Core.niPost_wms (c : Core) (m : Msg) (d : List (Nat × Nat)) : (c.niPost m d).wms = c.wms := rfl
@[simp] theorem Core.niPost_samples (c : Core) (m : Msg) (d : List (Nat × Nat)) : (c.niPost m d).samples = c.samples := rfl
@[simp] theorem Core.niPost_lt (c : Core) (m : Msg) (d : List (Nat × Nat)) : (c.niPost m d).lt = c.lt := rfl
@[simp] theorem Core.niPost_inbox (c : Core) (m : Msg) (d : List (Nat × Nat)) : (c.niPost m d).inbox = c.inbox := rfl
@[simp] theorem Core.niPost_parked (c : Core) (m : Msg) (d : List (Nat × Nat)) : (c.niPost m d).parked = c.parked := rfl
@[simp] theorem Core.niPost_evq (c : Core) (m : Msg) (d : List (Nat × Nat)) : (c.niPost m d).evq = c.evq := rfl
@[simp] theorem Core.niPost_queues (c : Core) (m : Msg) (d : List (Nat × Nat)) : (c.niPost m d).queues = c.queues := rfl
@[simp] theorem Core.niPost_kwork (c : Core) (m : Msg) (d : List (Nat × Nat)) : (c.niPost m d).kwork = c.kwork := rfl
@[simp] theorem Core.niPost_sendBuf (c : Core) (m : Msg) (d : List (Nat × Nat)) : (c.niPost m d).sendBuf = c.sendBuf := rfl
@[simp] theorem Core.niPost_latch (c : Core) (m : Msg) (d : List (Nat × Nat)) : (c.niPost m d).latch = c.latch := rfl
@[simp] theorem Core.niPost_inbound (c : Core) (m : Msg) (d : List (Nat × Nat)) : (c.niPost m d).inbound = c.inbound := rfl
@[simp] theorem Core.niPost_loading (c : Core) (m : Msg) (d : List (Nat × Nat)) : (c.niPost m d).loading = c.loading := rfl
@[simp] theorem Core.niPost_mxq (c : Core) (m : Msg) (d : List (Nat × Nat)) : (c.niPost m d).mxq = c.mxq := rfl
@[simp] theorem Core.niPost_slots (c : Core) (m : Msg) (d : List (Nat × Nat)) : (c.niPost m d).slots = c.slots := rfl
@[simp] theorem Core.niPost_weight (c : Core) (m : Msg) (d : List (Nat × Nat)) : (c.niPost m d).weight = c.weight := rfl
@[simp] theorem Core.niPost_mxFault (c : Core) (m : Msg) (d : List (Nat × Nat)) : (c.niPost m d).mxFault = c.mxFault := rfl
@[simp] theorem Core.niPost_sc (c : Core) (m : Msg) (d : List (Nat × Nat)) : (c.niPost m d).sc = c.sc := rfl
@[simp] theorem Core.niPost_rread (c : Core) (m : Msg) (d : List (Nat × Nat)) : (c.niPost m d).rread = c.rread := rfl
@[simp] theorem Core.niPost_unpick (c : Core) (m : Msg) (d : List (Nat × Nat)) : (c.niPost m d).unpick = c.unpick := rfl
@[simp] theorem Core.niPost_routines (c : Core) (m : Msg) (d : List (Nat × Nat)) : (c.niPost m d).routines = c.routines := rfl
@[simp] theorem Core.niPost_install (c : Core) (m : Msg) (d : List (Nat × Nat)) : (c.niPost m d).install = c.install := rfl
@[simp] theorem Core.niPost_reported (c : Core) (m : Msg) (d : List (Nat × Nat)) : (c.niPost m d).reported = c.reported := rfl
@[simp] theorem Core.niPost_hold (c : Core) (m : Msg) (d : List (Nat × Nat)) : (c.niPost m d).hold = c.hold := rfl
@[simp] theorem Core.niPost_discards (c : Core) (m : Msg) (d : List (Nat × Nat)) : (c.niPost m d).discards = c.discards := rfl

/-! ### Sparse tables -/

/-- A table written at a key reads so there, and as before elsewhere. -/
theorem alookup_aset {α : Type} (k j : Nat) (v : α) : ∀ l : List (Nat × α), (l.map Prod.fst).Pairwise (· < ·) →
    alookup j (aset k v l) = if k = j then some v else alookup j l
  | [], _ => by simp [aset, alookup]
  | (i, w) :: r, h => by
    rw [List.map_cons, List.pairwise_cons] at h
    unfold aset
    split
    · simp only [alookup]
    · split
      · rename_i e; subst e; simp only [alookup]; split <;> rfl
      · simp only [alookup, alookup_aset k j v r h.2]
        by_cases h1 : i = j
        · subst h1; rw [if_pos rfl, if_neg (by omega)]; simp
        · simp [h1]

/-- The keys after a write: those before and the one written. -/
theorem mem_keys_aset {α : Type} (k j : Nat) (v : α) : ∀ l : List (Nat × α),
    j ∈ (aset k v l).map Prod.fst ↔ j = k ∨ j ∈ l.map Prod.fst
  | [] => by simp [aset]
  | (i, w) :: r => by
    unfold aset
    split
    · simp
    · split
      · rename_i e; subst e; simp
      · simp only [List.map_cons, List.mem_cons, mem_keys_aset k j v r]
        tauto

/-- A rising table stays rising. -/
theorem aset_rising {α : Type} (k : Nat) (v : α) : ∀ l : List (Nat × α), (l.map Prod.fst).Pairwise (· < ·) →
    ((aset k v l).map Prod.fst).Pairwise (· < ·)
  | [], _ => by simp [aset]
  | (i, w) :: r, h => by
    rw [List.map_cons, List.pairwise_cons] at h
    unfold aset
    split
    · simp only [List.map_cons, List.pairwise_cons, List.mem_cons]
      refine ⟨fun a ha => ?_, h⟩
      rcases ha with rfl | ha
      · assumption
      · exact Nat.lt_trans ‹_› (h.1 a ha)
    · split
      · rename_i e; subst e; simpa [List.pairwise_cons] using h
      · simp only [List.map_cons, List.pairwise_cons]
        refine ⟨fun a ha => ?_, aset_rising k v r h.2⟩
        rcases (mem_keys_aset k a v r).mp ha with rfl | ha
        · omega
        · exact h.1 a ha

/-- The keys that an erased table keeps. -/
theorem mem_of_mem_aerase {α : Type} (k j : Nat) : ∀ l : List (Nat × α),
    j ∈ (aerase k l).map Prod.fst → j ∈ l.map Prod.fst
  | [], h => h
  | (i, w) :: r, h => by
    unfold aerase at h
    split at h
    · exact List.mem_cons_of_mem _ h
    · rw [List.map_cons, List.mem_cons] at h ⊢
      exact h.imp id (mem_of_mem_aerase k j r)

/-- A rising table without a key stays rising. -/
theorem aerase_rising {α : Type} (k : Nat) : ∀ l : List (Nat × α), (l.map Prod.fst).Pairwise (· < ·) →
    ((aerase k l).map Prod.fst).Pairwise (· < ·)
  | [], _ => by simp [aerase]
  | (i, w) :: r, h => by
    rw [List.map_cons, List.pairwise_cons] at h
    unfold aerase
    split
    · exact h.2
    · rw [List.map_cons, List.pairwise_cons]
      exact ⟨fun a ha => h.1 a (mem_of_mem_aerase k a r ha), aerase_rising k r h.2⟩

/-- An erased key is gone. -/
theorem not_mem_aerase {α : Type} (k : Nat) : ∀ l : List (Nat × α), (l.map Prod.fst).Pairwise (· < ·) →
    k ∉ (aerase k l).map Prod.fst
  | [], _ => by simp [aerase]
  | (i, w) :: r, h => by
    rw [List.map_cons, List.pairwise_cons] at h
    unfold aerase
    split
    · rename_i e; subst e; exact fun hm => Nat.lt_irrefl _ (h.1 _ hm)
    · rw [List.map_cons, List.mem_cons]
      rintro (e | hm)
      · omega
      · exact not_mem_aerase k r h.2 hm

/-! ### Cores -/

/-- A core written reads so, and every other core as before. -/
theorem State.getCore_setCore (s : State) (n m : Nat) (c : Core) (h : (s.others.map Prod.fst).Pairwise (· < ·)) :
    (s.setCore n c).getCore m = if n = m then c else s.getCore m := by
  unfold State.setCore State.getCore
  by_cases hn : n = s.focus
  · subst hn
    by_cases hm : m = s.focus
    · subst hm; simp
    · have : s.focus ≠ m := fun e => hm e.symm
      simp [hm, this]
  · simp only [hn, if_false]
    by_cases hm : m = s.focus
    · subst hm; simp [hn]
    · simp only [hm, if_false, alookup_aset n m c s.others h]
      by_cases e : n = m <;> simp [e]

/-- A core changed. -/
theorem State.getCore_modCore (s : State) (n m : Nat) (f : Core → Core) (h : (s.others.map Prod.fst).Pairwise (· < ·)) :
    (s.modCore n f).getCore m = if n = m then f (s.getCore n) else s.getCore m := State.getCore_setCore s n m _ h

/-- The core in focus is core `focus`. -/
@[simp] theorem State.getCore_focus (s : State) : s.getCore s.focus = s.core := by simp [State.getCore]

/-- Bringing a core into focus makes it the core. -/
theorem State.focusOn_core (s : State) (n : Nat) : (s.focusOn n).core = s.getCore n ∧ (s.focusOn n).focus = n := by
  unfold State.focusOn
  split
  · rename_i e; subst e; simp
  · exact ⟨rfl, rfl⟩

/-- A write of a core keeps the form of the list of cores. -/
theorem State.setCore_cores (s : State) (n : Nat) (c : Core) (h : (s.others.map Prod.fst).Pairwise (· < ·))
    (hf : s.focus ∉ s.others.map Prod.fst) :
    ((s.setCore n c).others.map Prod.fst).Pairwise (· < ·) ∧ (s.setCore n c).focus ∉ (s.setCore n c).others.map Prod.fst := by
  unfold State.setCore
  split
  · exact ⟨h, hf⟩
  · refine ⟨aset_rising _ _ _ h, fun hm => ?_⟩
    rcases (mem_keys_aset _ _ _ _).mp hm with e | hm
    · exact absurd e.symm ‹_›
    · exact hf hm

/-- A change of focus keeps the form of the list of cores. -/
theorem State.focusOn_cores (s : State) (n : Nat) (h : (s.others.map Prod.fst).Pairwise (· < ·))
    (hf : s.focus ∉ s.others.map Prod.fst) :
    ((s.focusOn n).others.map Prod.fst).Pairwise (· < ·) ∧ (s.focusOn n).focus ∉ (s.focusOn n).others.map Prod.fst := by
  unfold State.focusOn
  split
  · exact ⟨h, hf⟩
  · refine ⟨aset_rising _ _ _ (aerase_rising _ _ h), fun hm => ?_⟩
    rcases (mem_keys_aset _ _ _ _).mp hm with e | hm
    · exact ‹¬ n = s.focus› e
    · exact not_mem_aerase _ _ h hm

/-! ### Releases owed -/

/-- The owed release of the running stream, set, reads so. -/
@[simp] theorem Core.owedRel_setOwed (c : Core) (r : Option Scope) : (c.setOwed r).owedRel = r := by
  unfold Core.owedRel Core.setOwed
  by_cases h : c.stream = .body <;> simp [h]

/-- Setting the owed release of the control stream leaves that of the body. -/
theorem Core.setOwed_control (c : Core) (r : Option Scope) (h : c.stream = .control) :
    (c.setOwed r).pendRel = r ∧ (c.setOwed r).bodyRel = c.bodyRel := by
  unfold Core.setOwed
  rw [h]
  exact ⟨rfl, rfl⟩

/-- Setting the owed release of the body leaves that of the control stream. -/
theorem Core.setOwed_body (c : Core) (r : Option Scope) (h : c.stream = .body) :
    (c.setOwed r).bodyRel = r ∧ (c.setOwed r).pendRel = c.pendRel := by
  unfold Core.setOwed
  rw [h]
  exact ⟨rfl, rfl⟩

/-! ### Counters and partitions -/

/-- A partition changed reads so, and every other one as before. -/
theorem State.part_modPart (s : State) (p q : Nat) (f : Part → Part) (h : (s.parts.map Prod.fst).Pairwise (· < ·)) :
    (s.modPart p f).part q = if p = q then f (s.part p) else s.part q := by
  unfold State.modPart State.part
  simp only [alookup_aset p q _ s.parts h]
  by_cases e : p = q <;> simp [e]

/-- A counter written reads so. -/
theorem Core.counter_setCounter_same (c : Core) {k : Nat} (e : Counter) (h : k < 64) : (c.setCounter k e).counter k = e := by
  simp [Core.setCounter, Core.counter, h]

/-- Every other counter stays. -/
theorem Core.counter_setCounter_ne (c : Core) {k j : Nat} (e : Counter) (h : k ≠ j) :
    (c.setCounter k e).counter j = c.counter j := by
  simp [Core.setCounter, Core.counter, Vector.getElem?_setIfInBounds_ne h]

/-- Where the state holds die `d`, a change of it reads so. -/
theorem State.die_modDie (s : State) (d e : Nat) (f : Die → Die) (h : d < 4) :
    (s.modDie d f).die e = if d = e then f (s.die d) else s.die e := by
  unfold State.modDie State.die
  by_cases he : d = e
  · subst he; simp [h]
  · simp [he, Vector.getElem?_setIfInBounds_ne he]

end Sys2Proof.Machine
end

