-- ==== Sys2Proof/Laws/Ops.lean ====
section
/-! SUPPORT. What the instruction monad and the shared operations of Machine/Ops.lean and Machine/Operands.lean can do, said
once. -/

namespace Sys2Proof.Machine

/-! ### The instruction monad -/

theorem Ex.bind_eq {α β : Type} (m : Ex α) (f : α → Ex β) (s : State) :
    (m >>= f) s = (match m s with
      | .ok (a, t) => f a t
      | .error e => .error e) := by
  show (StateT.bind m f) s = _
  unfold StateT.bind
  cases m s with
  | error e => simp [bind, Except.bind]
  | ok p => simp [bind, Except.bind]

theorem Ex.pure_eq {α : Type} (a : α) (s : State) : (pure a : Ex α) s = .ok (a, s) := rfl

/-- What comes after a part that answers. -/
theorem bind_ok {α β : Type} {m : Ex α} {f : α → Ex β} {s t : State} {a : α} (h : m s = .ok (a, t)) :
    (m >>= f) s = f a t := by rw [Ex.bind_eq, h]

/-- What comes after a part that stops. -/
theorem bind_error {α β : Type} {m : Ex α} {f : α → Ex β} {s : State} {e : Stop} (h : m s = .error e) :
    (m >>= f) s = .error e := by rw [Ex.bind_eq, h]

/-- A sequence that answers is two answers. -/
theorem of_bind_ok {α β : Type} {m : Ex α} {f : α → Ex β} {s u : State} {b : β} (h : (m >>= f) s = .ok (b, u)) :
    ∃ a t, m s = .ok (a, t) ∧ f a t = .ok (b, u) := by
  rw [Ex.bind_eq] at h
  cases hm : m s with
  | error e => simp [hm] at h
  | ok p => exact ⟨p.1, p.2, rfl, by simpa [hm] using h⟩

@[simp] theorem getS_eq (s : State) : getS s = .ok (s, s) := rfl
@[simp] theorem getC_eq (s : State) : getC s = .ok (s.core, s) := rfl
@[simp] theorem modS_eq (f : State → State) (s : State) : modS f s = .ok ((), f s) := rfl
@[simp] theorem modC_eq (f : Core → Core) (s : State) : modC f s = .ok ((), { s with core := f s.core }) := rfl
@[simp] theorem raise_eq {α : Type} (c : Cause) (e : DWord) (s : State) :
    (raise c e : Ex α) s = .error (.trap ⟨c.code, e, none, none, none⟩) := rfl
@[simp] theorem raiseReg_eq {α : Type} (c : Cause) (r : Reg) (s : State) :
    (raiseReg c r : Ex α) s = .error (.trap ⟨c.code, r.setWidth 64, none, none, none⟩) := rfl
@[simp] theorem stall_eq {α : Type} (s : State) : (stall : Ex α) s = .error (.stall false) := rfl
@[simp] theorem stallQueue_eq {α : Type} (s : State) : (stallQueue : Ex α) s = .error (.stall true) := rfl

theorem check_true {ok : Bool} {c : Cause} {e : DWord} {s : State} (h : ok = true) : check ok c e s = .ok ((), s) := by
  simp [check, h, Ex.pure_eq]
theorem check_false {ok : Bool} {c : Cause} {e : DWord} {s : State} (h : ok = false) :
    check ok c e s = .error (.trap ⟨c.code, e, none, none, none⟩) := by simp [check, h]
theorem checkReg_true {ok : Bool} {c : Cause} {r : Reg} {s : State} (h : ok = true) : checkReg ok c r s = .ok ((), s) :=
  check_true h
theorem checkReg_false {ok : Bool} {c : Cause} {r : Reg} {s : State} (h : ok = false) :
    checkReg ok c r s = .error (.trap ⟨c.code, r.setWidth 64, none, none, none⟩) := check_false h

/-! ### How an instruction ends -/

/-- An effect that answers completes the instruction. -/
theorem finish_ok {m : Ex Flow} {s t : State} {f : Flow} {len : Nat} (h : m s = .ok (f, t)) :
    finish len m s = .next (t.complete len f) := by
  unfold finish; rw [h]

/-- An effect that traps takes the trap from the state before it (R58). -/
theorem finish_trap {m : Ex Flow} {s : State} {i : TrapInfo} {len : Nat} (h : m s = .error (.trap i)) :
    finish len m s = .next (takeTrap i s) := by
  unfold finish; rw [h]

/-- An effect that waits leaves nothing done. -/
theorem finish_stall {m : Ex Flow} {s : State} {q : Bool} {len : Nat} (h : m s = .error (.stall q)) :
    finish len m s = .next (s.stalledOn q) := by
  unfold finish; rw [h]

/-- The end of an instruction of the control stream. -/
theorem complete_seq {s : State} {len : Nat} (h : s.core.stream = .control) :
    s.complete len .seq = { s with core := { (s.core.retired).pcOn len with turn := .body } } := by
  simp only [State.complete, Core.retired_stream, h]

/-- A jump. -/
theorem complete_jump (s : State) (len : Nat) (p : BitVec 12) :
    s.complete len (.jump p) = { s with core := { s.core.retired.pcTo p with turn := .body } } := rfl

/-- No operand form, no wait and no end of an instruction leaves exec without an answer. -/
theorem finish_next (len : Nat) (m : Ex Flow) (s : State) : ∃ t, finish len m s = .next t := by
  unfold finish; split <;> exact ⟨_, rfl⟩

/-! ### Registers -/

/-- g0 reads as zero (R11). -/
@[simp] theorem Core.reg_zero (c : Core) : c.reg 0 = Val.zero := rfl

/-- A write to g0 is discarded (R11). -/
@[simp] theorem Core.setReg_zero (c : Core) (v : Val) : c.setReg 0 v = c := rfl

/-- A register written reads as it was written. -/
theorem Core.reg_setReg_same (c : Core) {r : Reg} (v : Val) (h : r ≠ 0) : (c.setReg r v).reg r = v := by
  unfold Core.setReg Core.reg
  simp only [h, if_false]
  cases hk : c.csr.km <;> simp [Core.km, hk]

/-- Every other register stays. -/
theorem Core.reg_setReg_ne (c : Core) {r q : Reg} (v : Val) (h : q ≠ r) : (c.setReg r v).reg q = c.reg q := by
  unfold Core.setReg Core.reg
  have hn : r.toNat ≠ q.toNat := fun e => h (BitVec.eq_of_toNat_eq e.symm)
  by_cases hr : r = 0
  · simp [hr]
  · simp only [hr, if_false]
    cases hk : c.csr.km <;> simp [Core.km, hk, hn]

/-- Writing a register changes nothing else of the core. -/
theorem Core.setReg_frame (c : Core) (r : Reg) (v : Val) :
    (c.setReg r v).csr = c.csr ∧ (c.setReg r v).pc = c.pc ∧ (c.setReg r v).kpc = c.kpc ∧ (c.setReg r v).chn = c.chn ∧
      (c.setReg r v).binds = c.binds ∧ (c.setReg r v).rep = c.rep ∧ (c.setReg r v).stream = c.stream ∧
      (c.setReg r v).stores = c.stores ∧ (c.setReg r v).task = c.task := by
  unfold Core.setReg
  split
  · simp
  · split <;> simp

theorem alookup_none_of_bound {c : Core} {r : Reg} (h : c.bound r = false) : alookup r.toNat c.binds = none := by
  simpa [Core.bound] using h

/-- A register that is not bound and that no repetition holds back is read without an effect. -/
theorem readReg_free {s : State} {r : Reg} (hb : s.core.bound r = false) (hw : awaitBody r false s = .ok ((), s)) :
    readReg r s = .ok (s.core.reg r, s) := by
  unfold readReg
  rw [bind_ok (getC_eq s)]
  simp only [alookup_none_of_bound hb]
  rw [bind_ok hw]; rfl

/-- A register that is not bound and that no repetition holds back is written. -/
theorem writeReg_free {s : State} {r : Reg} {v : Val} (hb : s.core.bound r = false)
    (hw : awaitBody r true s = .ok ((), s)) : writeReg r v s = .ok ((), { s with core := s.core.setReg r v }) := by
  unfold writeReg
  rw [bind_ok (getC_eq s)]
  simp only [alookup_none_of_bound hb]
  rw [bind_ok hw]; rfl

/-- The control stream waits for no body where no repetition is active. -/
theorem awaitBody_plain {s : State} {r : Reg} {w : Bool} (h : s.core.rep = none) : awaitBody r w s = .ok ((), s) := by
  unfold awaitBody
  rw [bind_ok (getC_eq s)]
  simp [h, Ex.pure_eq]

end Sys2Proof.Machine
end

