-- ==== Sys2Proof/Laws/Alu.lean ====
section
/-! SUPPORT. The results of the integer instructions as the tables of R174 and R175 write them. -/

namespace Sys2Proof.Machine

/-- SRA and SRAI divide a signed value by a power of two, rounding down (R174). -/
theorem sshiftRight_eq_div (x : DWord) (k : Nat) : x.sshiftRight k = BitVec.ofInt 64 (x.toInt / 2 ^ k) := by
  rw [BitVec.sshiftRight_eq]; simp [Int.shiftRight_eq_div_pow]

/-- MIN takes the lesser signed value (R174). -/
theorem minWord_eq (x y : DWord) : minWord x y = BitVec.ofInt 64 (Min.min x.toInt y.toInt) := by
  unfold minWord BitVec.slt
  rcases lt_or_ge x.toInt y.toInt with h | h
  · simp [h, min_eq_left h.le]
  · simp [not_lt.mpr h, min_eq_right h]

/-- MAX takes the greater signed value. -/
theorem maxWord_eq (x y : DWord) : maxWord x y = BitVec.ofInt 64 (Max.max x.toInt y.toInt) := by
  unfold maxWord BitVec.slt
  rcases lt_or_ge x.toInt y.toInt with h | h
  · simp [h, max_eq_right h.le]
  · simp [not_lt.mpr h, max_eq_left h]

/-- MINU takes the lesser value. -/
theorem minuWord_eq (x y : DWord) : minuWord x y = BitVec.ofNat 64 (Min.min x.toNat y.toNat) := by
  unfold minuWord BitVec.ult
  rcases lt_or_ge x.toNat y.toNat with h | h
  · simp [h, min_eq_left h.le]
  · simp [not_lt.mpr h, min_eq_right h]

/-- MAXU takes the greater value. -/
theorem maxuWord_eq (x y : DWord) : maxuWord x y = BitVec.ofNat 64 (Max.max x.toNat y.toNat) := by
  unfold maxuWord BitVec.ult
  rcases lt_or_ge x.toNat y.toNat with h | h
  · simp [h, max_eq_right h.le]
  · simp [not_lt.mpr h, max_eq_left h]

/-- A rotation by less than the width. -/
theorem rotateLeft_eq (x : DWord) (k : Nat) (h : k < 64) : x.rotateLeft k = (x <<< k ||| x >>> (64 - k)) := by
  rw [BitVec.rotateLeft_def, Nat.mod_eq_of_lt h]

/-- DIV truncates toward zero; a zero divisor gives all ones (R175). -/
theorem divWord_eq (x y : DWord) : divWord x y = if y = 0 then BitVec.allOnes 64 else BitVec.ofInt 64 (x.toInt.tdiv y.toInt) := by
  unfold divWord; split
  · rfl
  · rw [← BitVec.toInt_inj, BitVec.toInt_sdiv, BitVec.toInt_ofInt]

/-- REM takes what DIV leaves; a zero divisor gives the dividend (R175). -/
theorem srem_eq (x y : DWord) : x.srem y = if y = 0 then x else BitVec.ofInt 64 (x.toInt - y.toInt * x.toInt.tdiv y.toInt) := by
  split
  · rename_i h; subst h; exact BitVec.srem_zero
  · rw [← Int.tmod_def, ← BitVec.toInt_srem, BitVec.ofInt_toInt]

/-- DIVU rounds down (R175). -/
theorem divuWord_eq (x y : DWord) : divuWord x y = if y = 0 then BitVec.allOnes 64 else BitVec.ofNat 64 (x.toNat / y.toNat) := by
  unfold divuWord; split
  · rfl
  · apply BitVec.eq_of_toNat_eq; simp [BitVec.toNat_udiv]
    exact (Nat.mod_eq_of_lt (Nat.lt_of_le_of_lt (Nat.div_le_self _ _) x.isLt)).symm

/-- REMU (R175). -/
theorem umod_eq (x y : DWord) : x % y = if y = 0 then x else BitVec.ofNat 64 (x.toNat % y.toNat) := by
  split
  · rename_i h; subst h; simp
  · apply BitVec.eq_of_toNat_eq; simp [BitVec.toNat_umod]
    exact (Nat.mod_eq_of_lt (Nat.lt_of_le_of_lt (Nat.mod_le _ _) x.isLt)).symm

/-- The length of a run. -/
theorem takeWhile_range_length (p : Nat → Bool) (n k : Nat) (h1 : k ≤ n) (h2 : ∀ j < k, p j = true) (h3 : k < n → p k = false) :
    ((List.range n).takeWhile p).length = k := by
  have hs : List.range n = List.range k ++ (List.range (n - k)).map (k + ·) := by
    rw [← List.range_add]; congr; omega
  rw [hs, List.takeWhile_append_of_pos (by simpa using h2)]
  rcases Nat.lt_or_ge k n with h | h
  · obtain ⟨m, hm⟩ : ∃ m, n - k = m + 1 := ⟨n - k - 1, by omega⟩
    rw [hm, List.range_succ_eq_map]
    simp [h3 h]
  · have : n - k = 0 := by omega
    simp [this]

/-- CLZ counts the zero bits above the highest one (R174). -/
theorem clzWord_eq (x : DWord) : clzWord x = BitVec.ofNat 64 (((List.range 64).takeWhile fun k => !x.getLsbD (63 - k)).length) := by
  unfold clzWord
  split
  · rename_i h; subst h
    rw [takeWhile_range_length _ 64 64 (le_refl _) (by simp) (by simp)]; rfl
  · rename_i h
    have hx : x.toNat ≠ 0 := by simpa [← BitVec.toNat_inj] using h
    have hl : Nat.log2 x.toNat < 64 := (Nat.log2_lt hx).mpr x.isLt
    rw [takeWhile_range_length _ 64 (63 - Nat.log2 x.toNat) (by omega)]
    · intro j hj
      simp only [BitVec.getLsbD, Bool.not_eq_true']
      apply Nat.testBit_lt_two_pow
      apply Nat.lt_of_lt_of_le (Nat.lt_log2_self (n := x.toNat))
      exact Nat.pow_le_pow_right (by omega) (by omega)
    · intro _
      have : 63 - (63 - Nat.log2 x.toNat) = Nat.log2 x.toNat := by omega
      simp only [this, BitVec.getLsbD, Nat.testBit_log2 hx]; rfl

/-- What counting from the low end answers. -/
theorem trailing_spec (k n : Nat) : trailing k n ≤ k ∧ (∀ j < trailing k n, n.testBit j = false) ∧ (trailing k n < k → n.testBit (trailing k n) = true) := by
  induction k generalizing n with
  | zero => simp [trailing]
  | succ k ih =>
    unfold trailing
    split
    · rename_i h; simp [h]
    · rename_i h
      obtain ⟨h1, h2, h3⟩ := ih (n / 2)
      refine ⟨by omega, ?_, ?_⟩
      · intro j hj
        cases j with
        | zero => simp; omega
        | succ j => rw [Nat.testBit_succ]; exact h2 j (by omega)
      · intro hj; rw [Nat.testBit_succ]; exact h3 (by omega)

/-- CTZ counts the zero bits below the lowest one (R174). -/
theorem ctzWord_eq (x : DWord) : ctzWord x = BitVec.ofNat 64 (((List.range 64).takeWhile fun k => !x.getLsbD k).length) := by
  unfold ctzWord
  obtain ⟨h1, h2, h3⟩ := trailing_spec 64 x.toNat
  rw [takeWhile_range_length _ 64 (trailing 64 x.toNat) h1]
  · intro j hj; simp [BitVec.getLsbD, h2 j hj]
  · intro h; simp [BitVec.getLsbD, h3 h]

/-- MUL is the product in either reading (R174). -/
theorem mul_eq_signed (x y : DWord) : x * y = BitVec.ofInt 64 (x.toInt * y.toInt) := by
  rw [BitVec.ofInt_mul, BitVec.ofInt_toInt, BitVec.ofInt_toInt]

/-- What a form of two sources does: it reads A and B, writes the data result and goes on. -/
theorem alu2_ok {op : DWord → DWord → DWord} {d a b : Reg} {s t u v : State} {x y : Val} (h1 : readReg a s = .ok (x, t))
    (h2 : readReg b t = .ok (y, u)) (h3 : writeData d (op x.low y.low) (x.poison || y.poison) u = .ok ((), v)) :
    alu2 op d a b s = .ok (.seq, v) := by
  simp only [alu2]
  rw [bind_ok h1, bind_ok h2, bind_ok h3]; rfl

/-- What a form of one source does. -/
theorem alu1_ok {op : DWord → DWord} {d a : Reg} {s t u : State} {x : Val} (h1 : readReg a s = .ok (x, t))
    (h2 : writeData d (op x.low) x.poison t = .ok ((), u)) : alu1 op d a s = .ok (.seq, u) := by
  simp only [alu1]
  rw [bind_ok h1, bind_ok h2]; rfl

end Sys2Proof.Machine
end

