-- ==== Sys2Proof/Laws/Memory.lean ====
section
/-! SUPPORT. Memory: every operation keeps the canonical form, and a read after a write (R4, R63, R194). -/

namespace Sys2Proof.Machine

/-! ### The canonical form -/

theorem cellsWf_mono {l : List Host.Cell} {lo lo' : Nat} (h : cellsWf lo l = true) (hl : lo' ≤ lo) : cellsWf lo' l = true := by
  cases l with
  | nil => rfl
  | cons c r =>
    simp only [cellsWf, Bool.and_eq_true, decide_eq_true_eq] at h ⊢
    exact ⟨⟨by omega, h.1.2⟩, h.2⟩

theorem setWf_mono {l : List Nat} {lo lo' : Nat} (h : setWf lo l = true) (hl : lo' ≤ lo) : setWf lo' l = true := by
  cases l with
  | nil => rfl
  | cons c r =>
    simp only [setWf, Bool.and_eq_true, decide_eq_true_eq] at h ⊢
    exact ⟨by omega, h.2⟩

theorem cellsCons_wf {l : List Host.Cell} {lo a : Nat} (v : Byte) (h : cellsWf (a + 1) l = true) (hl : lo ≤ a) :
    cellsWf lo (cellsCons a v l) = true := by
  unfold cellsCons
  split
  · exact cellsWf_mono h (by omega)
  · simp_all [cellsWf]

theorem cellsSet_wf (a : Nat) (v : Byte) : ∀ (l : List Host.Cell) (lo : Nat), cellsWf lo l = true → lo ≤ a →
    cellsWf lo (cellsSet a v l) = true
  | [], _, _, hl => cellsCons_wf v rfl hl
  | (b, w) :: r, lo, h, hl => by
    simp only [cellsWf, Bool.and_eq_true, decide_eq_true_eq] at h
    unfold cellsSet
    split
    · refine cellsCons_wf v ?_ hl
      simp only [cellsWf, Bool.and_eq_true, decide_eq_true_eq]
      exact ⟨⟨by omega, h.1.2⟩, h.2⟩
    · split
      · rename_i e; subst e; exact cellsCons_wf v h.2 hl
      · simp only [cellsWf, Bool.and_eq_true, decide_eq_true_eq]
        exact ⟨h.1, cellsSet_wf a v r (b + 1) h.2 (by omega)⟩

theorem setInsert_wf (a : Nat) : ∀ (l : List Nat) (lo : Nat), setWf lo l = true → lo ≤ a → setWf lo (setInsert a l) = true
  | [], _, _, hl => by simp [setInsert, setWf, hl]
  | b :: r, lo, h, hl => by
    simp only [setWf, Bool.and_eq_true, decide_eq_true_eq] at h
    unfold setInsert
    split
    · simp only [setWf, Bool.and_eq_true, decide_eq_true_eq]; exact ⟨hl, by omega, h.2⟩
    · split
      · simp only [setWf, Bool.and_eq_true, decide_eq_true_eq]; exact h
      · simp only [setWf, Bool.and_eq_true, decide_eq_true_eq]
        exact ⟨h.1, setInsert_wf a r (b + 1) h.2 (by omega)⟩

theorem setErase_wf (a : Nat) : ∀ (l : List Nat) (lo : Nat), setWf lo l = true → setWf lo (setErase a l) = true
  | [], _, _ => rfl
  | b :: r, lo, h => by
    simp only [setWf, Bool.and_eq_true, decide_eq_true_eq] at h
    unfold setErase
    split
    · exact setWf_mono h.2 (by omega)
    · simp only [setWf, Bool.and_eq_true, decide_eq_true_eq]
      exact ⟨h.1, setErase_wf a r (b + 1) h.2⟩

theorem cellsWf_filter (p : Host.Cell → Bool) : ∀ (l : List Host.Cell) (lo : Nat), cellsWf lo l = true →
    cellsWf lo (l.filter p) = true
  | [], _, _ => rfl
  | (b, w) :: r, lo, h => by
    simp only [cellsWf, Bool.and_eq_true, decide_eq_true_eq] at h
    simp only [List.filter_cons]
    split
    · simp only [cellsWf, Bool.and_eq_true, decide_eq_true_eq]
      exact ⟨h.1, cellsWf_filter p r _ h.2⟩
    · exact cellsWf_mono (cellsWf_filter p r _ h.2) (by omega)

theorem setWf_filter (p : Nat → Bool) : ∀ (l : List Nat) (lo : Nat), setWf lo l = true → setWf lo (l.filter p) = true
  | [], _, _ => rfl
  | b :: r, lo, h => by
    simp only [setWf, Bool.and_eq_true, decide_eq_true_eq] at h
    simp only [List.filter_cons]
    split
    · simp only [setWf, Bool.and_eq_true, decide_eq_true_eq]
      exact ⟨h.1, setWf_filter p r _ h.2⟩
    · exact setWf_mono (setWf_filter p r _ h.2) (by omega)

theorem Memory.wf_iff (m : Memory) :
    m.wf = true ↔ cellsWf 0 m.cells = true ∧ setWf 0 m.tags = true ∧ setWf 0 m.poison = true := by
  simp [Memory.wf, and_assoc]

/-- Empty memory has the form. -/
@[simp] theorem Memory.empty_wf : Memory.empty.wf = true := rfl

theorem Memory.setByte_wf {m : Memory} (a : Nat) (v : Byte) (h : m.wf = true) : (m.setByte a v).wf = true := by
  rw [Memory.wf_iff] at h ⊢
  exact ⟨cellsSet_wf a v _ _ h.1 (Nat.zero_le _), h.2⟩

theorem Memory.write_wf : ∀ (n : Nat) (m : Memory) (a v : Nat), m.wf = true → (m.write a n v).wf = true
  | 0, _, _, _, h => h
  | n + 1, _, _, _, h => Memory.write_wf n _ _ _ (Memory.setByte_wf _ _ h)

theorem Memory.setTag_wf {m : Memory} (a : Nat) (t : Bool) (h : m.wf = true) : (m.setTag a t).wf = true := by
  rw [Memory.wf_iff] at h ⊢
  refine ⟨h.1, ?_, h.2.2⟩
  cases t
  · exact setErase_wf _ _ _ h.2.1
  · exact setInsert_wf _ _ _ h.2.1 (Nat.zero_le _)

theorem Memory.setPoison_wf {m : Memory} (a : Nat) (p : Bool) (h : m.wf = true) : (m.setPoison a p).wf = true := by
  rw [Memory.wf_iff] at h ⊢
  refine ⟨h.1, h.2.1, ?_⟩
  cases p
  · exact setErase_wf _ _ _ h.2.2
  · exact setInsert_wf _ _ _ h.2.2 (Nat.zero_le _)

theorem Memory.markStore_wf (a n : Nat) (p : Bool) : ∀ (k : Nat) (m : Memory) (d : Nat), m.wf = true →
    (m.markStore a n p d k).wf = true
  | 0, _, _, h => h
  | k + 1, m, d, h => by
    unfold Memory.markStore
    refine Memory.markStore_wf a n p k _ _ ?_
    split
    · exact Memory.setPoison_wf _ _ h
    · split
      · exact Memory.setPoison_wf _ _ h
      · exact h

theorem Memory.untag_wf {m : Memory} (a n : Nat) (h : m.wf = true) : (m.untag a n).wf = true := by
  rw [Memory.wf_iff] at h ⊢
  exact ⟨h.1, setWf_filter _ _ _ h.2.1, h.2.2⟩

/-- A store keeps the form. -/
theorem Memory.store_wf {m : Memory} (a n v : Nat) (p t : Bool) (h : m.wf = true) : (m.store a n v p t).wf = true := by
  have h1 := Memory.untag_wf a n (Memory.write_wf n m a v h)
  unfold Memory.store
  simp only
  split <;> split <;>
    first
    | exact Memory.setTag_wf _ _ h1
    | exact Memory.markStore_wf _ _ _ _ _ _ (Memory.setTag_wf _ _ h1)
    | exact h1
    | exact Memory.markStore_wf _ _ _ _ _ _ h1

/-- Zeros over a range keep the form. -/
theorem Memory.clear_wf {m : Memory} (a n : Nat) (h : m.wf = true) : (m.clear a n).wf = true := by
  rw [Memory.wf_iff] at h ⊢
  exact ⟨cellsWf_filter _ _ _ h.1, setWf_filter _ _ _ h.2.1, setWf_filter _ _ _ h.2.2⟩

theorem Memory.perform_wf {m : Memory} (e : StoreEntry) (h : m.wf = true) : (m.perform e).wf = true :=
  Memory.store_wf _ _ _ _ _ h

/-! ### Reading what was written -/

/-- Below the first cell everything reads as an unlisted address does. -/
theorem cellsGet_below : ∀ (l : List Host.Cell) (lo a : Nat), cellsWf lo l = true → a < lo → cellsGet a l = unlistedByte
  | [], _, _, _, _ => rfl
  | (b, w) :: r, lo, a, h, ha => by
    simp only [cellsWf, Bool.and_eq_true, decide_eq_true_eq] at h
    simp only [cellsGet]
    rw [if_neg (by omega)]
    exact cellsGet_below r (b + 1) a h.2 (by omega)

theorem cellsGet_cons (a b : Nat) (v : Byte) (l : List Host.Cell) (h : cellsWf (b + 1) l = true) :
    cellsGet a (cellsCons b v l) = if b = a then v else cellsGet a l := by
  unfold cellsCons
  by_cases hv : v = unlistedByte
  · simp only [hv, if_true]
    split
    · rename_i e; subst e; exact cellsGet_below l _ _ h (by omega)
    · rfl
  · simp [hv, cellsGet]

/-- A byte written reads as it was written, and every other byte stays. -/
theorem cellsGet_set (a b : Nat) (v : Byte) : ∀ (l : List Host.Cell) (lo : Nat), cellsWf lo l = true →
    cellsGet a (cellsSet b v l) = if b = a then v else cellsGet a l
  | [], _, _ => cellsGet_cons a b v [] rfl
  | (c, w) :: r, lo, h => by
    have h' := h
    simp only [cellsWf, Bool.and_eq_true, decide_eq_true_eq] at h
    unfold cellsSet
    split
    · refine cellsGet_cons a b v _ ?_
      simp only [cellsWf, Bool.and_eq_true, decide_eq_true_eq]
      exact ⟨⟨by omega, h.1.2⟩, h.2⟩
    · split
      · rename_i e; subst e
        rw [cellsGet_cons a b v r h.2]
        split
        · rfl
        · simp [cellsGet, *]
      · simp only [cellsGet]
        rw [cellsGet_set a b v r (c + 1) h.2]
        split
        · rename_i e; subst e; rw [if_neg (by omega)]
        · rfl

theorem Memory.byte_setByte {m : Memory} (a b : Nat) (v : Byte) (h : m.wf = true) :
    (m.setByte b v).byte a = if b = a then v else m.byte a :=
  cellsGet_set a b v _ _ ((Memory.wf_iff m).mp h).1

/-- A write of `n` bytes puts byte k of the value at a + k and leaves every other byte. -/
theorem Memory.byte_write : ∀ (n : Nat) (m : Memory) (a v x : Nat), m.wf = true →
    (m.write a n v).byte x = if a ≤ x ∧ x < a + n then BitVec.ofNat 8 (v / 256 ^ (x - a)) else m.byte x
  | 0, m, a, v, x, _ => by simp only [Memory.write]; rw [if_neg (by omega)]
  | n + 1, m, a, v, x, h => by
    simp only [Memory.write]
    rw [Memory.byte_write n _ _ _ _ (Memory.setByte_wf _ _ h), Memory.byte_setByte _ _ _ h]
    by_cases h1 : a + 1 ≤ x ∧ x < a + 1 + n
    · rw [if_pos h1, if_pos (by omega)]
      congr 1
      rw [Nat.div_div_eq_div_mul, show x - a = (x - (a + 1)) + 1 by omega, Nat.pow_succ, Nat.mul_comm]
    · rw [if_neg h1]
      by_cases h2 : a = x
      · subst h2; rw [if_pos rfl, if_pos (by omega)]; simp
      · rw [if_neg h2, if_neg (by omega)]

@[simp] theorem Memory.byte_setTag (m : Memory) (a x : Nat) (t : Bool) : (m.setTag a t).byte x = m.byte x := rfl
@[simp] theorem Memory.byte_setPoison (m : Memory) (a x : Nat) (p : Bool) : (m.setPoison a p).byte x = m.byte x := rfl
@[simp] theorem Memory.byte_untag (m : Memory) (a n x : Nat) : (m.untag a n).byte x = m.byte x := rfl
@[simp] theorem Memory.byte_markStore (a n : Nat) (p : Bool) : ∀ (k : Nat) (m : Memory) (d x : Nat),
    (m.markStore a n p d k).byte x = m.byte x
  | 0, _, _, _ => rfl
  | k + 1, m, d, x => by
    unfold Memory.markStore
    rw [Memory.byte_markStore a n p k]
    split
    · rfl
    · split <;> rfl

/-- The bytes of a store are those of its write. -/
theorem Memory.byte_store (m : Memory) (a n v x : Nat) (p t : Bool) : (m.store a n v p t).byte x = (m.write a n v).byte x := by
  unfold Memory.store
  simp only
  split <;> split <;> simp

/-- Reads of memories that agree on the range agree. -/
theorem Memory.read_congr : ∀ (n : Nat) (m k : Memory) (a : Nat), (∀ x, a ≤ x → x < a + n → m.byte x = k.byte x) →
    m.read a n = k.read a n
  | 0, _, _, _, _ => rfl
  | n + 1, m, k, a, h => by
    simp only [Memory.read]
    rw [h a (by omega) (by omega), Memory.read_congr n m k (a + 1) fun x h1 h2 => h x (by omega) (by omega)]

/-- A read gives n bytes. -/
theorem Memory.read_lt : ∀ (n : Nat) (m : Memory) (a : Nat), m.read a n < 256 ^ n
  | 0, _, _ => by simp [Memory.read]
  | n + 1, m, a => by
    have := Memory.read_lt n m (a + 1)
    have hb := (m.byte a).isLt
    simp only [Memory.read, Nat.pow_succ]
    omega

/-- Reading what was written gives the value (R4). -/
theorem Memory.read_write : ∀ (n : Nat) (m : Memory) (a v : Nat), m.wf = true → (m.write a n v).read a n = v % 256 ^ n
  | 0, _, _, _, _ => by simp [Memory.read, Nat.mod_one]
  | n + 1, m, a, v, h => by
    have hb : (m.write a (n + 1) v).byte a = BitVec.ofNat 8 v := by
      rw [Memory.byte_write _ _ _ _ _ h, if_pos (by omega)]; simp
    simp only [Memory.read]
    rw [hb]
    simp only [Memory.write]
    rw [Memory.read_write n _ _ _ (Memory.setByte_wf _ _ h)]
    have e : 256 ^ (n + 1) = 256 * 256 ^ n := by rw [Nat.pow_succ, Nat.mul_comm]
    rw [e, Nat.mod_mul, BitVec.toNat_ofNat]

/-- A read of bytes that a write leaves alone gives what it gave. -/
theorem Memory.read_write_other (n k : Nat) (m : Memory) (a b v : Nat) (h : m.wf = true) (hd : b + k ≤ a ∨ a + n ≤ b) :
    (m.write a n v).read b k = m.read b k :=
  Memory.read_congr k _ _ _ fun x h1 h2 => by rw [Memory.byte_write _ _ _ _ _ h, if_neg (by omega)]

/-- Reading what was stored gives the value. -/
theorem Memory.read_store (m : Memory) (a n v : Nat) (p t : Bool) (h : m.wf = true) :
    (m.store a n v p t).read a n = v % 256 ^ n := by
  rw [← Memory.read_write n m a v h]
  exact Memory.read_congr n _ _ _ fun x _ _ => Memory.byte_store m a n v x p t

/-- Bytes outside a cleared range stay, inside they read as an unlisted address does. -/
theorem cellsGet_filter (a n x : Nat) : ∀ l : List Host.Cell,
    cellsGet x (l.filter fun c => !(decide (a ≤ c.1) && decide (c.1 < a + n))) =
      if a ≤ x ∧ x < a + n then unlistedByte else cellsGet x l
  | [] => by simp [cellsGet]
  | (b, w) :: r => by
    simp only [List.filter_cons]
    have ih := cellsGet_filter a n x r
    by_cases hb : a ≤ b ∧ b < a + n
    · rw [if_neg (by simp; omega), ih]
      split
      · rfl
      · rw [cellsGet, if_neg (by omega)]
    · rw [if_pos (by simp; omega)]
      simp only [cellsGet]
      by_cases hx : b = x
      · subst hx; rw [if_pos rfl, if_neg hb]; simp
      · rw [if_neg hx, ih, if_neg hx]

theorem Memory.byte_clear (m : Memory) (a n x : Nat) :
    (m.clear a n).byte x = if a ≤ x ∧ x < a + n then unlistedByte else m.byte x := cellsGet_filter a n x m.cells

end Sys2Proof.Machine
end

