-- ==== Sys2Proof/Laws/MemoryOps.lean ====
section
/-! SUPPORT. The larger operations over memory keep its canonical form: images, records, cleared channels, a TCM read back, the
stores that a core buffers. -/

namespace Sys2Proof.Machine

theorem foldl_wf {α : Type} (f : Memory → α → Memory) (hf : ∀ m x, m.wf = true → (f m x).wf = true) :
    ∀ (l : List α) (m : Memory), m.wf = true → (l.foldl f m).wf = true
  | [], _, h => h
  | x :: r, m, h => foldl_wf f hf r (f m x) (hf m x h)

theorem Memory.clean_wf {m : Memory} (a n : Nat) (h : m.wf = true) : (m.clean a n).wf = true := by
  rw [Memory.wf_iff] at h ⊢
  exact ⟨h.1, setWf_filter _ _ _ h.2.1, setWf_filter _ _ _ h.2.2⟩

theorem Memory.without_wf {m : Memory} (gone : Nat → Bool) (h : m.wf = true) : (m.without gone).wf = true := by
  rw [Memory.wf_iff] at h ⊢
  exact ⟨cellsWf_filter _ _ _ h.1, setWf_filter _ _ _ h.2.1, setWf_filter _ _ _ h.2.2⟩

theorem Memory.clearChannel_wf {m : Memory} (c : Nat) (h : m.wf = true) : (m.clearChannel c).wf = true :=
  Memory.without_wf _ h

theorem Memory.putRecord_wf {m : Memory} (a : Nat) (r : Record) (p : Bool) (h : m.wf = true) : (m.putRecord a r p).wf = true :=
  foldl_wf _ (fun _ _ h => Memory.store_wf _ _ _ _ _ h) _ _ h

theorem loadTcm_wf (w : Words) (n : Nat) {m : Memory} (h : m.wf = true) : (loadTcm w n m).wf = true := by
  unfold loadTcm
  refine foldl_wf _ (fun m i h => ?_) _ _ (foldl_wf _ (fun m i h => ?_) _ _ (Memory.clear_wf _ _ h))
  · refine foldl_wf _ (fun m k h => ?_) _ _ (foldl_wf _ (fun m k h => ?_) _ _ h)
    · split
      · exact Memory.setTag_wf _ _ h
      · exact h
    · split
      · exact Memory.setPoison_wf _ _ h
      · exact h
  · simp only
    split
    · exact h
    · exact Memory.write_wf _ _ _ _ h

/-- Bytes copied from an image keep the form. -/
theorem State.copyIn_wf (p : Nat) : ∀ (n : Nat) (s : State) (off loc : Nat), s.mem.wf = true →
    (s.copyIn p off loc n).mem.wf = true
  | 0, _, _, _, h => h
  | n + 1, s, off, loc, h => by
    unfold State.copyIn
    exact State.copyIn_wf p n _ _ _ (Memory.store_wf _ _ _ _ _ h)

/-- Bytes of a signed image copied keep the form. -/
theorem State.copyImage_wf (img : Nat → Byte) : ∀ (n : Nat) (s : State) (a loc : Nat), s.mem.wf = true →
    (s.copyImage img a loc n).mem.wf = true
  | 0, _, _, _, h => h
  | n + 1, s, a, loc, h => by
    unfold State.copyImage
    exact State.copyImage_wf img n _ _ _ (Memory.store_wf _ _ _ _ _ h)

/-- A part of a record written keeps the form. -/
theorem State.putPart_wf (s : State) (x : Nat × QWord × Bool) (h : s.mem.wf = true) : (s.putPart x).mem.wf = true :=
  Memory.store_wf _ _ _ _ _ h

/-- Where hardware writes a word of a table, memory keeps its form. -/
theorem State.putWord_wf (s : State) (mpa : Nat) (v : DWord) (h : s.mem.wf = true) : (s.putWord mpa v).mem.wf = true := by
  unfold State.putWord
  split
  · exact Memory.store_wf _ _ _ _ _ h
  · exact h

end Sys2Proof.Machine
end

