-- ==== Sys2Proof/Tests/Slice0.lean ====
section
/-! SUPPORT. Tests: ill-formed terms, words of the spec's encoding tables, single steps on small states with results from the
spec's own examples, and for each statement a state and operands that meet its hypotheses. -/

namespace Sys2Proof.Tests

open Sys2Proof.Machine

set_option Elab.async false


/-! ### Ill-formed terms: one for each check of WellFormed.lean -/

/-- R165: the sizes that a store cannot name. -/
theorem test_ill_formed_stores : wellFormed (.st 1 2 4 0) = false ∧ wellFormed (.st 1 2 5 0) = false ∧
    wellFormed (.stna 1 2 6 0) = false ∧ wellFormed (.st 1 2 7 0) = true := by decide
/-- R210: REPB rotates g16 to g23, one to eight of them. -/
theorem test_ill_formed_repb : wellFormed (.repb 15 1 1) = false ∧ wellFormed (.repb 24 1 1) = false ∧
    wellFormed (.repb 16 1 0) = false ∧ wellFormed (.repb 16 1 9) = false ∧ wellFormed (.repb 23 1 8) = true := by decide
/-- R167: the op and type pairs of the vector group. -/
theorem test_ill_formed_vector_types : wellFormed (.vfma .i32 1 2 3) = false ∧ wellFormed (.vabs .u8 1 2) = false ∧
    wellFormed (.vneg .u32 1 2) = false ∧ wellFormed (.vand .f32 1 2 3) = false ∧ wellFormed (.vor .f16 1 2 3) = false ∧
    wellFormed (.vxor .bf16 1 2 3) = false ∧ wellFormed (.vshl .f32 1 2 3) = false ∧ wellFormed (.vshr .f32 1 2 3) = false ∧
    wellFormed (.vsra .u16 1 2 3) = false ∧ wellFormed (.vcvt .f32 .f32 1 2) = false ∧ wellFormed (.vrcp .i8 1 2) = false ∧
    wellFormed (.vrsq .i64 1 2) = false ∧ wellFormed (.vexp2 .u8 1 2) = false ∧ wellFormed (.vlog2 .i32 1 2) = false := by decide
/-- R9, R10: cores, dies, partitions and queues that do not exist. -/
theorem test_ill_formed_units : wellFormed (.taskDispatch 1048580) = false ∧ wellFormed (.taskDispatch 1048579) = true ∧
    wellFormed (.scApply 4 0) = false ∧ wellFormed (.xlflush 64) = false ∧ wellFormed (.widx .pf 8192 0) = false ∧
    wellFormed (.widx (.vf 64) 0 0) = false ∧ wellFormed (.walkerStep 0 4) = false ∧ wellFormed (.dispatch (.ring 4 0) 0) = false ∧
    wellFormed (.nop (.device 0 64)) = false ∧ wellFormed (.panelRemove 0 0 4096) = false ∧ wellFormed (.panelRetirement 16384) = false ∧
    wellFormed (.unpickReceive 0 1048580) = false ∧ wellFormed (.queueAgeing 0 4 0) = false ∧ wellFormed (.fittingWalk 0 1024 0) = false ∧
    wellFormed (.rreadServe (.request 64 [] 0 0 0 0)) = false ∧ wellFormed (.registerWrite (.flint 4) 0 0) = false := by decide
/-- R33: a message whose words are not as many as its LEN says; R7: the widths of a host access. -/
theorem test_ill_formed_messages : wellFormed (.refusalReceived (.core 1048580) 0 0) = false ∧
    wellFormed (.activeMessage (.held (.frontEnd 4) 0 0)) = false ∧ wellFormed (.hostAccess 0 0 3 .read) = false ∧
    wellFormed (.hostAccess 65 0 8 .read) = false := by decide
/-- R353 to R360: flints, rails, ports and training blocks. -/
theorem test_ill_formed_bringup : wellFormed (.flintStart 0 0) = false ∧ wellFormed (.flintStart 4 0) = false ∧
    wellFormed (.railEn 9 true) = false ∧ wellFormed (.gddrInit 128 ⟨true, 0, 0, 0⟩) = false ∧ wellFormed (.eqTrain (.gddr 0) ⟨true, 0, 0, 0⟩) = false ∧
    wellFormed (.eqTrain (.trarum 18) ⟨true, 0, 0, 0⟩) = false ∧ wellFormed (.linkFlitError (.trarum 18) 0) = false ∧
    wellFormed (.sliceExpiry 0 16) = false := by decide

/-! ### Decoding: words that the spec writes out bit by bit -/

/-- Each word with the instruction that the spec writes it for. -/
def reads (l : List (Nat × Instr)) : Prop := ∀ r ∈ l, decodeWord r.1 = .ok r.2

/-- The tables of 09_isa_integer.md: R174 to R178. -/
theorem test_decode_integer : reads [(0x004E6283, .sub 5 6 7), (0x04CE6483, .div 9 6 7), (0x06C04203, .mix 4 4),
    (0xFFFE6287, .andi 5 6 0x7FFF), (0x407E628D, .srai 5 6 63), (0xFFFFF293, .li 5 0xFFFFF), (0x12345295, .lis 5 0x12345),
    (0xFFFA5285, .addi 5 5 0x7FFD), (0x0006628D, .slli 5 6 3)] := by unfold reads; decide
/-- Branches and jumps: R179 to R181. -/
theorem test_decode_branches : reads [(0x001462A9, .blt 5 6 10), (0x0000F033, .jalr 0 15 0), (0x00083035, .loop 3 4),
    (0xFFF402A7, .bne 5 0 0x7FFA), (0x000287B1, .jal 15 40)] := by unfold reads; decide
/-- The capability group: R183 to R189. -/
theorem test_decode_capabilities : reads [(0x018AB337, .csetaddr 6 11 5), (0x020E6337, .csetbnd 6 6 7), (0xFFF86639, .cinci 12 6 0x7FFC),
    (0x200066BB, .csetbi 13 6 4096), (0x0240D6B7, .candperm 13 13 0), (0x029863B7, .cseal 7 6 12), (0x0300A8B7, .cmov 17 10)] := by
  unfold reads; decide
/-- The 16-bit forms: R190. -/
theorem test_decode_short : reads [(0x8064, .cLi 3 0x20), (0xFCCC, .cSlli 6 63), (0xFC90, .cStd 4 63), (0xF934, .cBnez 9 0x3E),
    (0x7FF6, .cJ 0x3FF), (0x0882, .cAddi 4 2), (0xFFB6, .cJ 0x7FD), (0x0038, .cEnd)] := by unfold reads; decide
/-- Loads, stores and atomics: R195 to R200. -/
theorem test_decode_memory : reads [(0x00186297, .ld 5 6 4 1), (0xFF866299, .ldna 5 6 3 0xFF8), (0x020EA897, .ld 17 10 7 32),
    (0x8000629B, .st 5 6 0 0x800), (0x020E689B, .st 17 6 7 32), (0x0004A21D, .stna 4 10 2 0),
    (0x280E629F, .amoadd 5 6 7 .die .acq false), (0xEE4E629F, .amocas 5 6 7 .mod .acqrel true)] := by unfold reads; decide
/-- Fences: R202. -/
theorem test_decode_fences : reads [(0x00000023, .fenceSl), (0x0C400023, .fenceAcq .mod), (0x10C00023, .fenceAr .sys),
    (0x01000023, .fenceEng)] := by unfold reads; decide
/-- Bindings, repetition and windows: R203 to R216. -/
theorem test_decode_bindings : reads [(0x00085841, .sbind 16 5 4), (0x00480941, .qbind 18 0 true), (0x008409C1, .lbind 19 false true),
    (0x00C00841, .unbind 16), (0x010102C1, .bstat 5 16), (0x00023843, .repb 16 3 1), (0x00400043, .repe), (0x00800043, .repwait),
    (0x000051D5, .wset 3 5), (0x00403355, .wget 6 3), (0x00825055, .dtload 5 true)] := by unfold reads; decide
/-- Messages and the end of a task: R218 to R224. -/
theorem test_decode_messages : reads [(0x0002903D, .send 9 1), (0x004293BD, .sendc 7 9 1), (0x0142933D, .mcast 6 9 1),
    (0x018E62BD, .rread 5 6 7), (0x01C2903D, .sende 9 1), (0x0200003D, .endTask), (0x0240003D, .abort)] := by unfold reads; decide
/-- Counters: R225 to R227. -/
theorem test_decode_counters : reads [(0x0600603F, .ctrset 3 6), (0x0A40403F, .ctrdec 5 4), (0x0F08603F, .arrive 7 6 4),
    (0x0940603F, .barlink 4 6), (0x1380003F, .ctrclr 9)] := by unfold reads; decide
/-- Chains and local time: R228 to R232. -/
theorem test_decode_chains : reads [(0x000072CD, .adopt 5 7), (0x004002CD, .shed 5), (0x008062CD, .chnget 5 6), (0x00C062CD, .fit 5 6),
    (0x010062CD, .unpick 5 6), (0x0140604D, .charge 6), (0x0180604D, .chnset 6), (0x0000404F, .lton 4), (0x008062CF, .ltclk 5 6),
    (0x00C0404F, .ltchan 4), (0x0100004F, .ltann), (0x0140404F, .ltnull 4)] := by unfold reads; decide
/-- The duplex and sampling groups: R236 to R239. -/
theorem test_decode_duplex : reads [(0x000E62D1, .hem 5 6 7), (0x008E62D1, .frame 5 6 7), (0x00CE62D1, .genadv 5 6 7),
    (0x014E62D1, .ckpt 5 6 7), (0x018E62D1, .dpxget 5 6 7), (0x000E6053, .smparm 6 7), (0x004E6053, .smpinj 6 7),
    (0x008062D3, .smpget 5 6)] := by unfold reads; decide
/-- The vector group: R241 to R243. -/
theorem test_decode_vectors : reads [(0x0D8E62C5, .vfma .bf16 5 6 7), (0x590062C5, .vrsum .f32 5 6), (0x618862C5, .vcvt .bf16 .f32 5 6),
    (0x650262C5, .vdec 5 6 true), (0x690062C5, .venc 5 6 false), (0x7D0062C5, .vimax .f32 5 6)] := by unfold reads; decide
/-- The matrix and accumulator groups: R245 to R254. -/
theorem test_decode_matrix : reads [(0x00962247, .mma 4 2 6 9 0), (0x1E802047, .bload 2 8 7), (0x20000047, .brot), (0x30000047, .mxwait),
    (0x40000047, .mxspill), (0x50500047, .mxwt 5), (0x00E65049, .accclr 5 6 7), (0x48E65049, .accaddv 5 6 7 .bf16),
    (0x60E65449, .accfma 5 8 6 7), (0x80E65049, .acccmb 5 6 7), (0xA4E152C9, .accrnd 5 5 7 .bf16 .rtz), (0xC0E65049, .accst 5 6 7),
    (0xA40034C9, .accrnd 9 3 0 .bf16 .rne)] := by unfold reads; decide
/-- The engine group: R255 to R259. -/
theorem test_decode_engine : reads [(0x040E62CB, .cpy 5 6 7 1), (0x004E62CB, .gather 5 6 7 0), (0x00CE62CB, .fill 5 6 7 0),
    (0x090A404B, .wmset 2 4 5), (0x094002CB, .wmget 5 2)] := by unfold reads; decide
/-- The system group: R260. -/
theorem test_decode_system : reads [(0x00007001, .trap 7), (0x00402001, .sysc 2), (0x00800001, .eret), (0x00C00281, .csrr 5 0),
    (0x01001201, .csrw 1 4), (0x02000001, .bkpt), (0x03000001, .wfi)] := by unfold reads; decide
/-- R162 to R166: what no instruction has. A store of size 4, SUB 4 of major 6, REPB of g0. -/
theorem test_decode_refuses : (decodeWord 0x0008629B).toOption = none ∧ (decodeWord 0x8006628D).toOption = none ∧
    (decodeWord 0x00020043).toOption = none := by decide
/-- R37, R144: the bytes of an instruction are its parcels from the lowest up, and decoding leaves what follows. -/
theorem test_decode_bytes : decode [0x83, 0x62, 0x4E, 0x00, 0xFF] = .ok (.sub 5 6 7, [0xFF]) := by decide
/-- The table numbers the first parcel's bits first. -/
theorem test_decode_table_word : decodeTableWord 32 0x004E6283 = some (.sub 5 6 7) ∧ decodeTableWord 16 0x0038 = some .cEnd := by decide

/-! ### Small states -/

/-- A task that a message of slot 0 has started. -/
def task0 : Task :=
  { trigger := .slot 0, number := 1, rgn := ⟨0, false, false⟩, work := 0, ltag := 0, msrc := 0, emsg := 0, code := none,
    restart := false, started := 0 }

/-- A core that runs a task of partition 0, at parcel 0x100, with some registers set; its chain has passed the fitting check of region
0. -/
def coreOf (regs : List (Nat × Val)) : Core :=
  { Core.reset with
    regs := regs.foldl (fun v r => v.setIfInBounds r.1 r.2) Core.reset.regs
    pc := 0x100
    task := some task0
    fit := [⟨0, 0, 15, 1, [1]⟩]
    csr := { Csrs.reset with budget := 0x1000000, tvec := 0xFC0 } }

/-- The module after bring-up: every rail supplied, the Brixmal groups and four channels of each die online. -/
def awake : State :=
  let up : TrainBlock → TrainBlock × Train := fun b => (b, { Train.zero with online := true })
  { State.reset with
    rails := Vector.replicate 9 ⟨true, false, 0, true⟩
    trains := brixGroups.map up ++ (List.range 4).map fun c => up (.gddr c)
    flints := Vector.replicate 4 .running }

/-- A module whose core 0 is that core, in the partition 0 that occupies panel 0. -/
def stateOf (c : Core) : State :=
  let d : Die := { Die.zero with occ := [(0, 0)] }
  let p : Part := { Part.zero with en := true }
  { awake with focus := 0, core := c, parts := [(0, p)], dies := State.reset.dies.set 0 d }

/-- The module with panel 0 in the panel set of partition 0. -/
def withPanel (s : State) : State := { s with mem := s.mem.write 0 1 1 }

/-- Clean data. -/
def num (x : DWord) : Val := ⟨x.setWidth 128, false, false⟩

/-- g1 holds 7 and g2 holds 2^64 - 2. -/
def sums : State := stateOf (coreOf [(1, num 7), (2, num 0xFFFFFFFFFFFFFFFE)])

/-- Whether a part of an instruction answers: neither traps nor waits. -/
def okay {α : Type} (r : Except Stop α) : Bool :=
  match r with
  | .ok _ => true
  | .error _ => false

/-- A part that answers has an answer. -/
theorem okay_answers {α : Type} {r : Except Stop α} (h : okay r = true) : ∃ a, r = .ok a := by
  cases r with
  | ok a => exact ⟨a, rfl⟩
  | error e => exact absurd h (by simp [okay])

/-- Whether a form of registers runs: every hypothesis of its statement, as one Bool. -/
def runs (f : Claims.Form) (s : State) : Bool :=
  f.fixed.all (fun r => !s.core.bound r) &&
    match Claims.readAll f.srcs s with
    | .ok (vs, t) => f.ok t.core vs && (match writeReg f.dst (f.val t.core vs) (Claims.flagged t (f.flags t.core vs)) with
      | .ok _ => true
      | .error _ => false)
    | .error _ => false

/-- What `runs` says: the hypotheses of a statement about forms. -/
theorem runs_meets {f : Claims.Form} {s : State} (h : runs f s = true) : ∃ vs t u, (∀ r ∈ f.fixed, s.core.bound r = false) ∧
    Claims.readAll f.srcs s = .ok (vs, t) ∧ f.ok t.core vs = true ∧
    writeReg f.dst (f.val t.core vs) (Claims.flagged t (f.flags t.core vs)) = .ok ((), u) := by
  simp only [runs, Bool.and_eq_true, List.all_eq_true, Bool.not_eq_true'] at h
  obtain ⟨h1, h2⟩ := h
  split at h2
  · rename_i vs t e
    rw [Bool.and_eq_true] at h2
    obtain ⟨h2, h3⟩ := h2
    split at h3
    · rename_i p e2; exact ⟨vs, t, p.2, h1, e, h2, e2⟩
    · exact absurd h3 (by simp)
  · exact absurd h2 (by simp)

/-- Hypotheses of IntegerRegisterForms: ADD, and SEL, which reads D. -/
theorem witness_IntegerRegisterForms : ((Claims.intForm (.add 3 1 2)).any fun f => runs f sums) = true ∧
    ((Claims.intForm (.sel 3 1 2)).any fun f => runs f sums) = true := by decide

/-! ### Witnesses: registers, operands, traps -/

/-- A capability over bytes 0x400 to 0x4FF of the core's own TCM with LD and ST, at an offset. -/
def tcmCap (off : Nat) : Val := ⟨(0xC000000004000100 : BitVec 64) ++ BitVec.ofNat 64 (0x400 + off), true, false⟩

/-- A core whose g16 is bound. -/
def boundTo (b : Binding) : State := stateOf { coreOf [(1, num 7), (2, num 3)] with binds := [(16, b)] }

/-- g0 and g5 are free. -/
theorem witness_OperandForms_UnboundRegisters : Claims.Free sums 5 false ∧ Claims.Free sums 5 true ∧ Claims.Free sums 0 false ∧
    Claims.Free sums 0 true := ⟨⟨by decide, rfl⟩, ⟨by decide, rfl⟩, ⟨by decide, rfl⟩, ⟨by decide, rfl⟩⟩
/-- A push end and a pop end; an empty queue and a full one. -/
theorem witness_OperandForms_QueueOperands : alookup (16 : Reg).toNat (boundTo (.queue 0 false)).core.binds = some (.queue 0 false) ∧
    alookup (16 : Reg).toNat (boundTo (.queue 2 true)).core.binds = some (.queue 2 true) := ⟨rfl, rfl⟩
/-- A generator in read mode at its first element and one in write mode at its last; one that has run through COUNT. -/
theorem witness_OperandForms_GeneratorOperands :
    okay (loadVal (tcmCap 0) 16 0x400 3 true (boundTo (.gen (tcmCap 0) 4 8 false false 3 0))) = true ∧
    okay (storeVal (tcmCap 0) 16 0x418 3 (num 9) 16 true (boundTo (.gen (tcmCap 0) 4 8 true false 3 3))) = true ∧
    alookup (16 : Reg).toNat (boundTo (.gen (tcmCap 0) 4 8 false false 3 4)).core.binds = some (.gen (tcmCap 0) 4 8 false false 3 4) :=
  ⟨by decide, by decide, rfl⟩
/-- Core 0's predecessor in its seam is core 7: an empty in-link and one with a word. -/
theorem witness_OperandForms_LinkOperands : alookup (16 : Reg).toNat (boundTo (.link true false)).core.binds = some (.link true false) ∧
    (boundTo (.link false false)).getCore 7 = Core.reset ∧
    (((boundTo (.link false true)).setCore 7 { Core.reset with link := [num 1] }).getCore 7).link = [num 1] := ⟨rfl, rfl, rfl⟩
/-- A control stream without a repetition. -/
theorem witness_InstructionEnd : Claims.Plain sums := ⟨rfl, rfl⟩
/-- ADD g3, g1, g2 runs and completes. -/
theorem witness_RegisterFormFrame : ∃ f t, Claims.intForm (.add 3 1 2) = some f ∧ Claims.Plain sums ∧
    (∀ r ∈ f.dst :: f.srcs, sums.core.bound r = false) ∧ f.ok sums.core (f.srcs.map sums.core.reg) = true ∧
    exec (.add 3 1 2) sums = .next t := ⟨_, _, rfl, ⟨rfl, rfl⟩, by decide, rfl, rfl⟩

/-- A state with a 32-bit word at the pc. -/
def placed (s : State) (w : Nat) : State := { s with mem := s.mem.write (imemBase s.focus + 2 * s.core.pc.toNat) 4 w }

/-- SUB g5, g6, g7 stands at the pc of a core that issues. -/
theorem witness_StepRunsDecoded : Claims.Issues (placed sums 0x004E6283) ∧ Claims.imemInsn (placed sums 0x004E6283) = some 0x004E6283 ∧
    decodeWord 0x004E6283 = .ok (.sub 5 6 7) ∧ (placed sums 0x004E6283).core.task.any (fun k => k.code.isNone) = true :=
  ⟨⟨⟨rfl, rfl, rfl, rfl, by decide, .inl (by decide), .inr rfl, fun k h => (by cases h; exact .inr (.inr (by decide)))⟩, rfl⟩, by decide, by decide, by decide⟩
/-- A store of size 4 at the pc; parcel 0xFFF with a 32-bit instruction in it. -/
theorem witness_IllegalEncodings_UndecodableTraps : Claims.imemInsn (placed sums 0x0008629B) = some 0x0008629B ∧
    (∃ e, decodeWord 0x0008629B = .error e) ∧
    Claims.imemInsn (placed (stateOf { coreOf [] with pc := 0xFFF }) 0x1) = none := ⟨by decide, ⟨_, rfl⟩, by decide⟩
/-- The first and the last word of each reserved range of majors. -/
theorem witness_IllegalEncodings_ReservedMajors : (0x57 : Nat) / 2 % 64 = 43 ∧ (0x5F : Nat) / 2 % 64 = 47 ∧ (0x61 : Nat) / 2 % 64 = 48 ∧
    (0x6F : Nat) / 2 % 64 = 55 ∧ (0x71 : Nat) / 2 % 64 = 56 ∧ (0x7F : Nat) / 2 % 64 = 63 := by decide

/-- A counter start of counter 63 on the core. -/
def counterTask : State := stateOf { coreOf [] with task := some { task0 with trigger := .counter 63 } }

/-- A task that a message started and one that counter 63 started. -/
theorem witness_TrapEntry_TrapOfTask : sums.core.csr.km = false ∧ sums.core.task = some task0 ∧
    counterTask.core.task = some { task0 with trigger := .counter 63 } := ⟨rfl, rfl, rfl⟩

/-- A core in kernel mode. -/
def kernelOf (regs : List (Nat × Val)) (nest : Bool) : State :=
  let c := coreOf []
  stateOf { c with kregs := regs.foldl (fun v r => v.setIfInBounds r.1 r.2) Core.reset.kregs, task := none,
                   csr := { c.csr with km := true, nest := nest } }

/-- The kernel without and with NEST. -/
theorem witness_TrapEntry_TrapOfKernel : (kernelOf [] false).core.csr.km = true ∧ (kernelOf [] false).core.csr.nest = false ∧
    (kernelOf [] true).core.csr.nest = true := ⟨rfl, rfl, rfl⟩
/-- A task, for the software traps. -/
theorem witness_SystemCalls_SoftwareTraps : sums.core.csr.km = false ∧ Claims.Plain sums := ⟨rfl, rfl, rfl⟩
/-- ERET in a task, and in a task that runs a CODE message. -/
theorem witness_SystemCalls_KernelOnlyForms : Claims.kernelOnly .eret = true ∧ Claims.Plain sums ∧
    (stateOf { coreOf [] with task := some { task0 with code := some (0, 1) } }).core.task = some { task0 with code := some (0, 1) } :=
  ⟨rfl, ⟨rfl, rfl⟩, rfl⟩

/-! ### Witnesses: control flow, special registers, kernel forms -/

/-- Poisoned data. -/
def bad (x : DWord) : Val := ⟨x.setWidth 128, false, true⟩
/-- g1 7, g2 7, g3 poisoned, g4 zero. -/
def mixed : State := stateOf (coreOf [(1, num 7), (2, num 7), (3, bad 7)])
/-- The same in a CODE message of one word: four parcels, of which the first runs. -/
def inCode : State := stateOf { coreOf [(1, num 7), (2, num 7)] with pc := 0, task := some { task0 with code := some (0, 1) } }

/-- Clean operands, each of the two poisoned, the last parcel of a message and the one after it. -/
theorem witness_BranchForms : (Claims.branchForm (.beq 1 2 10)).isSome = true ∧ (Claims.targetOf mixed (256 + 10)).isSome = true ∧
    readReg 1 mixed = .ok (num 7, mixed) ∧ readReg 2 mixed = .ok (num 7, mixed) ∧ readReg 3 mixed = .ok (bad 7, mixed) ∧
    Claims.targetOf inCode 3 = some 3 ∧ Claims.targetOf inCode 4 = none ∧ Claims.targetOf inCode (-1) = none :=
  ⟨rfl, rfl, rfl, rfl, rfl, rfl, rfl, rfl⟩
/-- JAL, JALR, LOOP with a count of 0 and of 7, a bound register, a poisoned one. -/
theorem witness_JumpAndHintForms_JumpForms : Claims.targetOf sums (256 + 40) = some 296 ∧
    okay (writeReg 15 (Claims.linkOf sums) sums) = true ∧ readReg 1 mixed = .ok (num 7, mixed) ∧
    (Claims.targetOf mixed ((Claims.lo (num 7)).toNat + 4)).isSome = true ∧ readReg 3 mixed = .ok (bad 7, mixed) ∧
    readReg 4 mixed = .ok (num 0, mixed) ∧ (boundTo (.queue 2 true)).core.bound 16 = true ∧
    okay (writeReg 1 (Claims.clean (Claims.lo (num 7) - 1)) mixed) = true := by
  refine ⟨rfl, rfl, rfl, rfl, rfl, rfl, rfl, rfl⟩
/-- FFLAGS in a task; a number that is none; TVEC from a task; CYCLE, which none may write. -/
theorem witness_SpecialRegisters_SpecialRegisterForms : ¬ Claims.inMessage mixed ∧ Claims.csrReadable 11 false = true ∧ Claims.csrReadable 12 true = false ∧
    Claims.csrReadable 16 true = true ∧ Claims.csrReadable 16 false = false ∧ okay (writeReg 5 (Claims.clean (mixed.csr 11)) mixed) = true ∧
    Claims.csrForm (.csrw 1 1) = some (1, 1, fun _ v => v) ∧ Claims.csrWritable 1 false = true ∧ Claims.csrWritable 2 false = false ∧
    Claims.csrWritable 2 true = true ∧ Claims.csrWritable 4 true = false ∧ readReg 1 mixed = .ok (num 7, mixed) ∧
    readReg 3 mixed = .ok (bad 7, mixed) :=
  ⟨fun h => (by obtain ⟨_, k, h1, h2⟩ := h; cases h1; exact absurd h2 (by decide)), rfl, rfl, rfl, rfl, rfl, rfl, rfl, rfl, rfl, rfl,
    rfl, rfl⟩
/-- The CSRs of both modes. -/
theorem witness_SpecialRegisters_SpecialRegisterReadBack : Claims.csrWritable 0 mixed.core.csr.km = true ∧
    Claims.csrWritable 27 (kernelOf [] false).core.csr.km = true := ⟨rfl, rfl⟩
/-- Core 0 of partition 0 with a task. -/
theorem witness_SpecialRegisters_SpecialRegisterContents : mixed.partOf mixed.focus = some 0 ∧ mixed.core.task = some task0 := ⟨rfl, rfl⟩
/-- The kernel with no work, with kernel work, with work in the last queue. -/
theorem witness_KernelForms_KernelEnds : (kernelOf [] false).core.csr.km = true ∧ Claims.Plain (kernelOf [] false) ∧
    (kernelOf [] false).core.svc = none ∧ (kernelOf [] false).core.kwork = [] ∧
    (∀ q : Fin 4, (kernelOf [] false).core.queues[q] = []) ∧
    (∃ s : State, s.core.csr.km = true ∧ s.core.kwork ≠ []) ∧ (∃ s : State, s.core.csr.km = true ∧ s.core.queues[(3 : Fin 4)] ≠ []) :=
  ⟨rfl, ⟨rfl, rfl⟩, rfl, rfl, by decide,
    ⟨{ kernelOf [] false with core := { (kernelOf [] false).core with kwork := [.system 0] } }, rfl, by decide⟩,
    ⟨{ kernelOf [] false with core := (kernelOf [] false).core.enqueue 3 (.slot 0) 0 }, rfl, by decide⟩⟩
/-- The kernel of a core of partition 0 with a clean and a poisoned register. -/
theorem witness_KernelForms_KernelCaches : Claims.SingleHolder (kernelOf [] false) ∧
    readReg 1 (kernelOf [(1, num 0x8000000000000000)] false) = .ok (num 0x8000000000000000, kernelOf [(1, num 0x8000000000000000)] false) ∧
    (kernelOf [] false).partOf (kernelOf [] false).focus = some 0 ∧
    readReg 1 (kernelOf [(1, bad 0)] false) = .ok (bad 0, kernelOf [(1, bad 0)] false) :=
  ⟨List.nodup_nil, rfl, rfl, rfl⟩
/-- Weight 0 for the last core of the seam; handle 0 of a partition whose chain table is not mapped has no chain. -/
theorem witness_KernelForms_KernelSettings : readReg 1 (kernelOf [(1, num 7)] false) = .ok (num 7, kernelOf [(1, num 7)] false) ∧
    readReg 1 (kernelOf [(1, bad 7)] false) = .ok (bad 7, kernelOf [(1, bad 7)] false) ∧
    (kernelOf [] false).partOf (kernelOf [] false).focus = some 0 := ⟨rfl, rfl, rfl⟩

/-! ### Witnesses: windows, bindings, repetition, counters, fences -/

/-- Memory of partition 0: identity maps of pages 4 to 15, principal 1 live at 0x40000, the chain [1: 65536] at handle 0 of the table
at 0x50000. -/
def tables : Memory :=
  let m := (Memory.empty.write 0x10000 8 0x20001).write 0x20000 8 0x30001
  let m := (List.range 12).foldl (fun m k => m.write (0x30000 + 8 * (k + 4)) 8 ((k + 4) * 65536 + 7)) m
  ((m.write 0x40008 8 (2 ^ 62)).write 0x50000 8 (2 ^ 62 + 1)).write 0x50008 8 (65536 * 2 ^ 24 + 1)

/-- Partition 0 with those tables. -/
def part0 : Part :=
  { Part.zero with
    en := true
    s2root := 0x10000
    ptbase := 0x40000
    ptcount := 0x10000
    ctbase := 0x50000
    acbase := 0x60000 }

/-- A module with those tables. -/
def mapped (c : Core) : State := { stateOf c with mem := tables, parts := [(0, part0)] }

/-- The chain of handle 0, and a handle that names none. -/
theorem test_tables_chain : (mapped (coreOf [])).chain 0 0 = some [(1, 65536)] ∧ (mapped (coreOf [])).chain 0 1 = none ∧
    (mapped (coreOf [])).live 0 1 = true := by decide +kernel
/-- A kernel that names a usable chain in gA (R230). -/
theorem witness_KernelForms_KernelSettings_chain : (mapped (kernelOf [(1, num 0)] false).core).chain 0 ((Claims.lo (num 0)).extractLsb' 0 16).toNat =
    some [(1, 65536)] ∧ (mapped (kernelOf [(1, num 1)] false).core).chain 0 ((Claims.lo (num 1)).extractLsb' 0 16).toNat = none := by decide +kernel

/-- The last defined FORMAT and the first undefined one; a poisoned register; a window read into g5. -/
theorem witness_WindowAndTableForms_WindowForms : (((num 0xC0000).bits.extractLsb' 16 4).toNat < 13) ∧ (13 ≤ ((num 0xD0000).bits.extractLsb' 16 4).toNat) ∧
    readReg 1 (stateOf (coreOf [(1, num 0xC0000)])) = .ok (num 0xC0000, stateOf (coreOf [(1, num 0xC0000)])) ∧
    readReg 3 mixed = .ok (bad 7, mixed) ∧ okay (writeReg 5 ⟨mixed.core.windows[15]?.getD 0, false, false⟩ mixed) = true :=
  ⟨by decide, by decide, rfl, rfl, rfl⟩

/-- A capability over the whole TCM, at an address. -/
def allTcm (a : Nat) : Val := ⟨(0xC000000000008000 : BitVec 64) ++ BitVec.ofNat 64 a, true, false⟩
/-- The access of DTLOAD under it. -/
def imageAcc (a : Nat) : Acc := { cap := allTcm a, num := 1, ea := Claims.lo (allTcm a), n := 1024, need := needLd, align := some 16,
                                  window := false, noGlob := none, local_ := false }
/-- The last image that lies in TCM; a range that starts past it is no own TCM. -/
theorem witness_WindowAndTableForms_DecodeTableLoad : (let s := stateOf (coreOf [(1, allTcm 0x7C00)])
    okay (accCap (imageAcc 0x7C00) s) = true ∧ okay (accFit (imageAcc 0x7C00) s) = true ∧
    okay (awaitMarks 0x7C00 1024 (Claims.lo (allTcm 0x7C00)) s) = true ∧
    okay (loadRuns false 1 ((List.range 64).map fun k => (tcmBase s.focus + 0x7C00 + 16 * k, 16)) s) = true) := by decide +kernel
/-- SBIND of g16 over g1 and g2; four bound registers; a bound operand; the forward flag with the out-link. -/
theorem witness_BindingForms_BindingInstructions : (let s := stateOf (coreOf [(1, tcmCap 0), (2, num 0x0000000400000803)])
    Claims.Plain s ∧ Claims.Bindable s 16 ∧ Claims.Bindable s 31 ∧ s.core.bound 1 = false ∧ (s.core.reg 1).tag = true ∧
    Claims.otype (s.core.reg 1) = 0 ∧ (Claims.lo (s.core.reg 2)).getLsbD 4 = false) :=
  ⟨⟨rfl, rfl⟩, ⟨by decide, by decide, by decide⟩, ⟨by decide, by decide, by decide⟩, by decide, by decide, by decide, by decide⟩
/-- g15 may not be bound; g16 is bound already; four are bound. -/
theorem witness_BindingForms_BindingTraps : (15 : Reg).toNat < 16 ∧ (boundTo (.queue 0 false)).core.bound 16 = true ∧
    Claims.Plain (boundTo (.queue 0 false)) ∧ Claims.Bindable (boundTo (.queue 0 false)) 17 ∧
    4 ≤ (stateOf { coreOf [] with binds := [(16, .queue 0 false), (17, .queue 1 false), (18, .queue 2 true), (19, .queue 3 true)] }).core.binds.length :=
  ⟨by decide, by decide, ⟨rfl, rfl⟩, ⟨by decide, by decide, by decide⟩, by decide⟩
/-- Each kind of binding, and a register that is not bound. -/
theorem witness_BindingForms_UnbindAndStatus : Claims.Plain (boundTo (.queue 3 true)) ∧ (boundTo (.queue 3 true)).core.bound 17 = false ∧
    alookup (16 : Reg).toNat (boundTo (.queue 3 true)).core.binds = some (.queue 3 true) ∧
    alookup (16 : Reg).toNat (boundTo (.link true false)).core.binds = some (.link true false) ∧
    ((boundTo (.queue 3 true)).core.binds.map Prod.fst).Nodup ∧ (∀ x ∈ (boundTo (.queue 3 true)).core.binds, 16 ≤ x.1 ∧ x.1 < 32) ∧
    okay (writeReg 5 (Claims.clean 0) (boundTo (.queue 3 true))) = true := by
  refine ⟨⟨rfl, rfl⟩, by decide, rfl, rfl, by decide, by decide, by decide⟩

/-- A repetition that is captured, and one that stands inside its body. -/
def captured : Rep := ⟨16, 1, 3, [], true, 0, 0, none⟩
def running : Rep := ⟨16, 1, 3, [⟨0x100, 0x0021A083, true⟩, ⟨0x102, 0x0021A083, true⟩], false, 0, 1, none⟩

/-- No repetition, one that is captured. -/
theorem witness_RepetitionForms_Repetition : Claims.Plain sums ∧ sums.core.bound 1 = false ∧ (sums.core.reg 1).poison = false ∧ captured.capturing = true ∧
    (stateOf { coreOf [] with rep := some captured }).core.rep = some captured ∧
    (stateOf { coreOf [] with rep := some captured }).core.stream = .control := by
  refine ⟨⟨rfl, rfl⟩, by decide, by decide, rfl, rfl, rfl⟩

/-- A control stream whose trap has to wait for the second instruction of an iteration. -/
theorem witness_RepetitionForms_TrapWaitsForIteration : (stateOf { coreOf [] with rep := some running }).core.rep = some running ∧
    (stateOf { coreOf [] with rep := some running }).core.stream = .control ∧ running.capturing = false ∧ running.pos ≠ 0 :=
  ⟨rfl, rfl, rfl, by decide⟩
/-- R43, R225: a crossing, one that carries over, a spent counter, a full PEND. -/
theorem test_counter_decrement :
    (let e : Counter := { Counter.zero with count := 1, reload := 5, hen := true }
     (e.dec 3).2 = true ∧ (e.dec 3).1.count = 3 ∧ (e.dec 3).1.pend = 1 ∧ (e.dec 3).1.phase = true ∧
     ({ e with count := 0 }.dec 1).2 = false ∧ ({ e with count := 0 }.dec 1).1.count = 0xFFFFFFFF ∧
     ({ e with pend := 65535 }.dec 1).1.ovr = true ∧ ({ e with count := 0x80000000 }.dec 1).1.count = 0x80000000) := by decide +kernel
/-- Core 64 lies in another panel, core 63 in the same; a poisoned operand. -/
theorem witness_CounterForms_CounterInstructions : readReg 1 mixed = .ok (num 7, mixed) ∧ readReg 3 mixed = .ok (bad 7, mixed) ∧
    readReg 2 mixed = .ok (num 7, mixed) ∧ ((Claims.lo (num 63)).extractLsb' 0 20).toNat / 64 = mixed.focus / 64 ∧
    ((Claims.lo (num 64)).extractLsb' 0 20).toNat / 64 ≠ mixed.focus / 64 ∧
    ((Claims.lo (num 0xFFFFFFFF)).extractLsb' 0 32).toInt < 0 ∧ 0 ≤ ((Claims.lo (num 0x7FFFFFFF)).extractLsb' 0 32).toInt ∧
    okay (writeReg 5 (Claims.clean 0) mixed) = true := by
  refine ⟨rfl, rfl, rfl, by decide, by decide, by decide, by decide, rfl⟩
/-- Counter 5 of core 3 as a parent of counter 0 of core 0; a core of another panel; the counter itself. -/
theorem witness_CounterForms_BarrierLink : (let s := stateOf (coreOf [(1, num 0x500003)])
    readReg 1 s = .ok (num 0x500003, s) ∧ s.reachesUp (s.focus, 0) 4096 (3, 5) = false ∧
    ((Claims.lo (num 0x500003)).extractLsb' 0 20).toNat / 64 = s.focus / 64 ∧
    ((Claims.lo (num 0x40)).extractLsb' 0 20).toNat / 64 ≠ s.focus / 64 ∧
    (((Claims.lo (num 0)).extractLsb' 0 20).toNat, ((Claims.lo (num 0)).extractLsb' 20 6).toNat) = (s.focus, 0)) :=
  ⟨rfl, by decide +kernel, by decide, by decide, by decide⟩

/-- The access of CTRSET under a capability. -/
def imageOf (cap : Val) : Acc := { cap := cap, num := 1, ea := Claims.lo cap, n := 40, need := needLd, align := some 8, window := true,
                                   noGlob := none, local_ := false }
/-- An image of zeros: chain 0 is the task's own, PEN is clear. -/
theorem witness_CounterForms_CounterSet : (let s := stateOf (coreOf [(1, tcmCap 0)])
    okay (readReg 1 s) = true ∧
    (match access (imageOf (tcmCap 0)) s with
      | .ok (p, u) => okay (loadPlace p.cut true 1 u)
      | .error _ => false) = true ∧ s.core.handle = 0) := by decide +kernel

/-- A store of 8 bytes that waits in core 0's buffer for its own TCM. -/
def waitingStore : StoreEntry := ⟨tcmBase 0 + 0x400, 8, 0x1122334455667788, false, false, true, none⟩
/-- A core with that store. -/
def storing : State := stateOf { coreOf [] with stores := [waitingStore] }
/-- A control stream with a store that is local, with and without a matrix command. -/
theorem witness_FenceForms : storing.core.stream = .control ∧ Claims.LocalStores storing ∧ storing.core.mxq = [] := by
  refine ⟨rfl, ?_, rfl⟩
  intro e he
  cases he with
  | head => decide +kernel
  | tail _ h => cases h

/-! ### Witnesses: loads, stores, atomics -/

/-- Whether an access of a form is granted for one plain location. -/
def granted (a : Acc) (s : State) : Bool :=
  match access a s with
  | .ok (.runs [_], _) => true
  | _ => false

/-- The first byte and the last doubleword of the capability's range, and the tag-moving quadword. -/
theorem witness_LoadForms : (∃ f, Claims.memForm (.ld 5 1 3 0xF8) = some f ∧ f.store = false ∧
      granted (Claims.loadAcc f (tcmCap 0)) (stateOf (coreOf [(1, tcmCap 0)])) = true) ∧
    (∃ f, Claims.memForm (.ldna 5 1 0 0) = some f ∧ granted (Claims.loadAcc f (tcmCap 0)) (stateOf (coreOf [(1, tcmCap 0)])) = true) ∧
    okay (writeReg 5 (num 1) (stateOf (coreOf [(1, tcmCap 0)]))) = true :=
  ⟨⟨_, rfl, rfl, by decide +kernel⟩, ⟨_, rfl, by decide +kernel⟩, by decide +kernel⟩
/-- The last doubleword of the capability's range. -/
theorem witness_StoreForms : ∃ f, Claims.memForm (.st 2 1 3 0xF8) = some f ∧ f.store = true ∧
    okay (readReg 2 (stateOf (coreOf [(1, tcmCap 0)]))) = true ∧
    granted (Claims.storeAcc f (tcmCap 0) (num 7)) (stateOf (coreOf [(1, tcmCap 0)])) = true := ⟨_, rfl, rfl, by decide +kernel, by decide +kernel⟩

/-- A core whose window 0 is an INT32 window of 4 × 4 elements at 0x400 of its TCM, with a capability over the alias range. -/
def windowed : State :=
  stateOf { coreOf [(1, ⟨(0xC000000000000100 : BitVec 64) ++ (0x100000000 : BitVec 64), true, false⟩), (2, num 7)] with
    windows := (Vector.replicate 16 0).set 0 0x0001000400440400 }
/-- Whether an access is granted for an element of a window. -/
def grantedElem (a : Acc) (s : State) : Bool :=
  match access a s with
  | .ok (.elem _ _ _, _) => true
  | _ => false
/-- R26: an element of an INT32 window may be loaded and stored. -/
theorem witness_LoadForms_element : (∃ f, Claims.memForm (.ld 5 1 2 0) = some f ∧
      grantedElem (Claims.loadAcc f (windowed.core.reg 1)) windowed = true) ∧
    (∃ f, Claims.memForm (.st 2 1 2 0) = some f ∧ grantedElem (Claims.storeAcc f (windowed.core.reg 1) (num 7)) windowed = true) :=
  ⟨⟨_, rfl, by decide +kernel⟩, ⟨_, rfl, by decide +kernel⟩⟩
/-- Memory in canonical form, a store that a core buffers. -/
theorem witness_StoreOrder : storing.mem.wf = true ∧ (Memory.empty.perform waitingStore).wf = true ∧
    (Memory.empty.perform waitingStore).read (tcmBase 0 + 0x400) 8 = 0x1122334455667788 := by decide +kernel
/-- An untagged register; a capability whose region has no rule; an access that is granted. -/
theorem witness_AccessChecks : (let s := mapped (coreOf [])
    (Claims.firstFault (Claims.amoAcc (num 0x400) 1 8 false) s).isSome = true ∧
    Claims.firstFault (Claims.amoAcc (tcmCap 0) 1 8 false) s = none ∧
    (accRange (Claims.amoAcc (tcmCap 0) 1 8 false) s).isSome = true ∧
    (match s.fitting 1 ⟨true, true, false, false⟩ with | .error _ => true | .ok _ => false) = true ∧
    (match s.fitting 0 ⟨true, true, false, false⟩ with | .error _ => false | .ok _ => true) = true) := by decide +kernel
/-- AMOADD of a doubleword at the start of the capability's range. -/
theorem witness_AtomicForms : (∃ f, Claims.amoForm (.amocas 5 1 2 .die .acqrel true) = some f ∧ f.cas = true) ∧
    granted (Claims.amoAcc (tcmCap 0) 1 8 false) (stateOf (coreOf [(1, tcmCap 0)])) = true ∧
    (stateOf (coreOf [(1, tcmCap 0)])).core.bound 5 = false :=
  ⟨⟨_, rfl, rfl⟩, by decide +kernel, by decide +kernel⟩
/-- SCADD: before it begins, presented, answered. -/
theorem witness_SequentialForms : (∃ f, Claims.scForm (.scadd 5 1 2) = some f) ∧ (stateOf (coreOf [])).core.sc = none ∧
    granted (Claims.amoAcc (tcmCap 0) 1 8 true) (stateOf (coreOf [(1, tcmCap 0)])) = true ∧
    (stateOf (coreOf [])).others = [] := ⟨⟨_, rfl⟩, rfl, by decide +kernel, rfl⟩
/-- A local store, one to another die's TCM, a line of die 0's SRAM, a host access of die SRAM. -/
theorem witness_MemoryAgents : storing.core.stores = [waitingStore] ∧ isMpa waitingStore.loc = false ∧
    localDie waitingStore.loc = some (dieOfCore storing.focus) ∧ localDie (tcmBase 262144) ≠ some (dieOfCore storing.focus) ∧
    (storing.homeOf (0x1000 / 32 * 32)).isSome = true ∧ storing.lines.all (fun l => l.line != 0x1000 / 32 * 32) = true ∧
    ¬ Claims.inMessage storing :=
  ⟨rfl, by decide +kernel, by decide +kernel, by decide +kernel, by decide +kernel, by decide +kernel,
    fun h => (by obtain ⟨_, k, h1, h2⟩ := h; cases h1; exact absurd h2 (by decide))⟩

/-! ### Witnesses and spec examples: registers -/

/-- R176 to R178, R190: an immediate form, LIS, and two 16-bit forms. -/
theorem witness_IntegerImmediateForms : ((Claims.immForm (.addi 3 1 (-1))).any fun f => runs f sums) = true ∧
    ((Claims.immForm (.lis 1 0xFFFFF)).any fun f => runs f sums) = true ∧
    ((Claims.immForm (.cSub 1 2)).any fun f => runs f sums) = true ∧ ((Claims.immForm (.cLi 0 (-16))).any fun f => runs f sums) = true := by
  decide

/-- g1 a capability of 256 bytes, g2 16, g3 a sealed one, g4 an authority over all otypes, g5 the otype 7. -/
def caps : State := stateOf (coreOf [(1, tcmCap 0), (2, num 16),
  (3, ⟨(0xC01C000004000100 : BitVec 64) ++ (0x400 : BitVec 64), true, false⟩),
  (4, ⟨(0xFF00000000000040 : BitVec 64) ++ (0x7 : BitVec 64), true, false⟩), (5, num 7)])
/-- Each capability form with checks that pass: the last byte of the range, a whole range, sealing under otype 7. -/
theorem witness_CapabilityForms : ((Claims.capForm (.cgetlen 6 1)).any fun f => runs f caps) = true ∧
    ((Claims.capForm (.csetaddr 6 1 2)).any fun f => runs f caps) = true ∧
    ((Claims.capForm (.cinci 6 1 0xFF)).any fun f => runs f caps) = true ∧
    ((Claims.capForm (.csetbnd 6 1 2)).any fun f => runs f caps) = true ∧
    ((Claims.capForm (.csetbi 6 1 0x100)).any fun f => runs f caps) = true ∧
    ((Claims.capForm (.candperm 6 1 2)).any fun f => runs f caps) = true ∧
    ((Claims.capForm (.cseal 6 1 4)).any fun f => runs f caps) = true ∧
    ((Claims.capForm (.cunseal 6 3 4)).any fun f => runs f caps) = true ∧
    ((Claims.capForm (.ctestsub 6 1 3)).any fun f => runs f caps) = true := by decide +kernel
/-- A narrowing to the last byte, to the whole, and one byte too far; a form whose result is tagged. -/
theorem witness_CapabilityAuthority : (narrowed (tcmCap 0xFF).bits 1).isSome = true ∧ (narrowed (tcmCap 0).bits 256).isSome = true ∧
    narrowed (tcmCap 0).bits 257 = none ∧
    ((Claims.capForm (.candperm 6 1 2)).any fun f => f.ok caps.core [tcmCap 0, num 16] && (f.val caps.core [tcmCap 0, num 16]).tag) = true := by
  decide +kernel

/-- Vector instructions of each shape. -/
theorem witness_VectorForms : ((Claims.vecForm (.vadd .i8 3 1 2)).any fun f => runs f sums) = true ∧
    ((Claims.vecForm (.vsel .f32 3 1 2)).any fun f => runs f sums) = true ∧
    ((Claims.vecForm (.vrsum .u16 3 1)).any fun f => runs f sums) = true ∧
    ((Claims.vecForm (.venc 3 1 true)).any fun f => runs f sums) = true := by decide +kernel

/-! ### Single steps with the spec's own results -/

/-- A register after an instruction. -/
def regAfter (i : Instr) (s : State) (r : Nat) : Option Val :=
  match exec i s with
  | .next t => t.core.regs[r]?
  | _ => none
/-- A 64-bit result without tag and poison. -/
def gives (i : Instr) (s : State) (r : Nat) (x : DWord) : Bool := regAfter i s r == some (num x)
/-- g1 and g2 hold two numbers. -/
def two (a b : DWord) : State := stateOf (coreOf [(1, num a), (2, num b)])

/-- R175: the worked cases. -/
theorem test_division : gives (.div 3 1 2) (two (-7) 2) 3 (-3) = true ∧ gives (.rem 3 1 2) (two (-7) 2) 3 (-1) = true ∧
    gives (.divu 3 1 2) (two 0xFFFFFFFFFFFFFFF9 2) 3 0x7FFFFFFFFFFFFFFC = true ∧ gives (.div 3 1 2) (two 5 0) 3 (-1) = true ∧
    gives (.rem 3 1 2) (two 5 0) 3 5 = true ∧ gives (.div 3 1 2) (two 0x8000000000000000 (-1)) 3 0x8000000000000000 = true := by decide +kernel
/-- R175: the worked cases of the other functions. -/
theorem test_worked_integer_cases : gives (.mulh 3 1 2) (two (-1) (-1)) 3 0 = true ∧
    gives (.mulhu 3 1 2) (two 0xFFFFFFFFFFFFFFFF 2) 3 1 = true ∧
    gives (.sra 3 1 2) (two 0x8000000000000000 65) 3 0xC000000000000000 = true ∧ gives (.clz 3 1) (two 0 0) 3 64 = true ∧
    gives (.mix 3 1) (two 0 0) 3 0 = true := by decide +kernel
/-- R178: the lines of the LI example. -/
theorem test_constant_in_three_lines : gives (.li 5 0x100) sums 5 0x100 = true ∧
    gives (.lis 1 1) (two 0x100 0) 1 0x10000001 = true ∧ gives (.lis 1 0x23450) (two 0x10000001 0) 1 0x0001000000123450 = true := by
  decide +kernel

/-- A capability of an upper half and an address. -/
def capAt (hi lo : DWord) : Val := ⟨hi ++ lo, true, false⟩
/-- R185, R186: steps 1, 3, 4 and 5 of the narrowing example. -/
theorem test_narrowing :
    regAfter (.csetaddr 6 1 2) (stateOf (coreOf [(1, capAt 0x8000001480008000 0x0001000000100000), (2, num 0x0001000000123450)])) 6 =
      some (capAt 0x8000001480008000 0x0001000000123450) ∧
    regAfter (.csetbnd 6 1 2) (stateOf (coreOf [(1, capAt 0x8000001480008000 0x0001000000123450), (2, num 0x30000)])) 6 =
      some (capAt 0x800000088D14C000 0x0001000000123450) ∧
    regAfter (.cinci 12 1 (-4)) (stateOf (coreOf [(1, capAt 0x800000088D14C000 0x0001000000123450)])) 12 =
      some { capAt 0x800000088D14C000 0x000100000012344C with tag := false } ∧
    regAfter (.csetbi 13 1 4096) (stateOf (coreOf [(1, capAt 0x800000088D14C000 0x0001000000123450)])) 13 =
      some (capAt 0x8000000034501000 0x0001000000123450) := by decide +kernel
/-- R187 and step 7: CANDPERM with g0 leaves no permission; a top past the old one traps CAPBOUND with the address. -/
theorem test_narrowing_traps :
    (regAfter (.candperm 13 1 0) (stateOf (coreOf [(1, capAt 0x8000000034501000 0x0001000000123450)])) 13).map Claims.permByte = some 0 ∧
    (match exec (.csetbi 14 1 16383) (stateOf (coreOf [(1, capAt 0x8000000034501000 0x0001000000123450)])) with
      | .next t => t.core.csr.km && t.core.csr.eval == 0x0001000000123450
      | _ => false) = true := by decide +kernel

/-- The window w3 of the example under R26: BASE 0x400, BF16, 4 rows, 8 columns, RSTRIDE 16; g1 an alias address. -/
def aliased (a : DWord) : State :=
  { stateOf { coreOf [(1, capAt 0xC000000000000100 a)] with windows := (Vector.replicate 16 0).set 3 0x0001000800460400 } with
    mem := Memory.empty.write (tcmBase 0 + 0x42A) 2 0x3FC0 }
/-- R25, R26: element (2, 5) of the BF16 window of the example; the element after the last traps NOMAP. -/
theorem test_alias_load : gives (.ld 5 1 2 0) (aliased 0x100C00054) 5 0x3FC00000 = true ∧
    (match exec (.ld 5 1 2 0) (aliased 0x100C00080) with
      | .next t => t.core.csr.km && t.core.csr.ecause.toNat % 256 == Cause.nomap.code && t.core.csr.eval == 0x100C00080
      | _ => false) = true := by decide +kernel

/-- R128: the worked VCVT, 1.5 from FP32 to BF16. -/
theorem test_convert_to_bf16 : gives (.vcvt .bf16 .f32 3 1) (two 0x3FC00000 0) 3 0x3FC0 = true := by decide +kernel
/-- R135 to R138: 2^100, 1.0 and -2^100 in three orders give 1.0, and the record of the example. -/
theorem test_record_of_three_terms :
    (let zero : Record := ⟨0, 0⟩
     let a := fun x : Int => fun r : Record => r.addTerm (termOf (Num.ofInt x 0 false))
     let r := a (-(2 ^ 100)) (a 1 (a (2 ^ 100) zero))
     let tbl : Vector (BitVec 19) 256 := Vector.replicate 256 0
     (r.val.extractLsb' 256 64 = 0x0000100000000000 ∧ r = a 1 (a (-(2 ^ 100)) (a (2 ^ 100) zero)) ∧
       r = a (2 ^ 100) (a (-(2 ^ 100)) (a 1 zero)) ∧ (accRound tbl tbl r .bf16 .rne).1 = 0x3F80)) := by decide +kernel
/-- R41: core 0x00123 retries 35, 67 and 131 cycles after its refusals, and 4,099 from the eighth on. -/
theorem test_retry_delays : [1, 2, 3, 8, 64].map (retryDelay (.core 0x123) 0x123) = [35, 67, 131, 4099, 4099] := by decide

/-! ### Witnesses: messages, END and ABORT -/

/-- A header: kind, length, CAP, core and module of the destination. -/
def header (kind len : Nat) (cap : Bool) (core m : Nat) : DWord :=
  BitVec.ofNat 64 (core + 2 ^ 20 * m + 2 ^ 32 * kind + 2 ^ 43 * len + 2 ^ 46 * cap.toNat)
/-- A core with a header in g1, words from g2 up and a second operand in g9. -/
def sender (h : DWord) (v9 : Val) : State := stateOf (coreOf [(1, num h), (2, num 5), (9, v9)])

/-- A send that has no fault, one of each shared check's ends, each form's own check. -/
theorem witness_MessageForms :
    (let s := sender (header 0 1 false 5 0) (num 0)
     Claims.Plain s ∧ Claims.sendFault ⟨1, 2, none, [0, 1, 2, 3, 7], false, true⟩ s = none ∧
     (match Claims.sendOwn (.send 1 2) s (Claims.lo (num (header 0 1 false 5 0))) [5] with | .ok x => x.dests == [(0, 5)] | .error _ => false) = true) ∧
    (let s := sender (header 5 0 false 5 0) (num 0)
     Claims.sendFault ⟨1, 2, none, [0, 1, 2, 3, 7], false, true⟩ s = some (.send, header 5 0 false 5 0)) ∧
    (let s := sender (header 0 7 true 5 0) (num 0)
     Claims.sendFault ⟨1, 2, some 9, [0, 3, 7], true, true⟩ s = some (.send, header 0 7 true 5 0)) ∧
    (let s := sender (header 7 0 false 5 0) (num 0)
     Claims.sendFault ⟨1, 2, none, [0, 1, 2, 3, 7], false, true⟩ s = some (.priv, 0)) ∧
    (let s := sender (header 0 0 false 5 9) (num 0)
     Claims.sendFault ⟨1, 31, none, [0, 1, 2, 3, 7], false, true⟩ s = some (.send, header 0 0 false 5 9)) ∧
    (let s := sender (header 0 2 false 5 0) (num 0)
     Claims.sendFault ⟨1, 31, none, [0, 1, 2, 3, 7], false, true⟩ s = some (.send, header 0 2 false 5 0) ∧
     Claims.sendFault ⟨1, 30, none, [0, 1, 2, 3, 7], false, true⟩ s = none) := by
  refine ⟨⟨⟨rfl, rfl⟩, ?_⟩, ?_⟩ <;> decide +kernel
/-- SENDC with a capability, POST and MCAST with and without a destination. -/
theorem witness_MessageForms_own :
    (let s := sender (header 0 1 true 5 0) (tcmCap 0)
     Claims.sendFault ⟨1, 2, some 9, [0, 3, 7], true, true⟩ s = none ∧
     Claims.sendOwn (.sendc 9 1 2) s (header 0 1 true 5 0) [] matches .error (.capperm, 9)) ∧
    (let s := withPanel (sender (header 0 1 false 5 0) (num 0x10000000000))
     (Claims.sendOwn (.post 9 1 2) s (header 0 1 false 5 0) [] matches .ok _) ∧
     Claims.sendOwn (.mcast 9 1 2) (sender 0 (num 0)) (header 0 1 false 5 0) [] matches .error (.send, _)) ∧
    (let s := sender (header 0 1 false 5 0) (num 0x8000000000000001)
     (match Claims.sendOwn (.mcast 9 1 2) s (header 0 1 false 5 0) [] with | .ok x => x.dests == [(0, 0), (0, 63)] | .error _ => false) = true ∧
     Claims.sendOwn (.sende 1 2) s (header 0 1 false 5 0) [7] matches .error (.send, _)) := by decide +kernel

/-- A capability over bytes of the global region that the tables map. -/
def farCap : Val := capAt 0xC200000000000100 0x0001000000050000
/-- The access of SENDD, SENDK and RREAD. -/
def wordsAcc (cap : Val) (n al : Nat) : Acc :=
  { cap := cap, num := 2, ea := Claims.lo cap, n := n, need := ⟨true, false, false, false⟩, align := some al, window := true,
    noGlob := none, local_ := false }
/-- Whether the access is granted and its load answers. -/
def loadable (a : Acc) (s : State) : Bool :=
  match access a s with
  | .ok (p, t) => okay (loadPlace p.cut true a.num t)
  | .error _ => false
/-- SENDD of no word and of one, SENDK, RREAD before, during and after. -/
theorem witness_MemoryMessageForms :
    (let s := stateOf (coreOf [(1, num (header 0 6 false 5 0)), (2, tcmCap 0)])
     Claims.firstSendFault ⟨1, 2, none, [0, 1, 2, 3, 7], false, true⟩ [1, 2] 0 s = none ∧ loadable (wordsAcc (tcmCap 0) 48 8) s = true ∧
     loadable (wordsAcc (tcmCap 0) 64 16) s = true) ∧
    (let s := stateOf (coreOf [(1, num (header 0 0 false 5 0)), (2, tcmCap 0)])
     Claims.firstSendFault ⟨1, 2, none, [0, 1, 2, 3, 7], false, true⟩ [1, 2] 0 s = none ∧ Claims.hLen (Claims.lo (num (header 0 0 false 5 0))) = 0) ∧
    (let s := mapped (coreOf [(1, num 0), (2, farCap)])
     s.core.rread = none ∧ Claims.firstFault { wordsAcc farCap 8 8 with align := none } s = none ∧
     (Claims.lo (num 0)).extractLsb' 0 12 = s.modnum ∧ (Claims.lo (num 1)).extractLsb' 0 12 ≠ s.modnum ∧
     okay (loadVal farCap 2 (Claims.lo farCap) 3 false s) = true) ∧
    (let s := stateOf { coreOf [] with rread := some ⟨1, 0x0001000000000400, some (.value 7 false)⟩ }
     okay (writeReg 5 ⟨7, false, false⟩ s) = true) := by decide +kernel

/-- A send that waits for the task's end. -/
def heldSend : SendEntry := ⟨0, false, .msg ⟨header 0 1 false 5 0, [5], none, 0, 0, 0, [], false, 0, false⟩, [⟨0, 5, 0, .ready⟩], none⟩
/-- END and ABORT of a task with a send; one with a matrix failure. -/
theorem witness_TaskEnds : (let s := stateOf { coreOf [] with sendBuf := [heldSend] }
    Claims.Plain s ∧ s.core.csr.km = false ∧ s.core.mxFault = none ∧ s.core.task = some task0 ∧ heldSend.copies ≠ [] ∧
    (stateOf { coreOf [] with mxFault := some 1 }).core.mxFault = some 1) := ⟨⟨rfl, rfl⟩, rfl, rfl, rfl, by decide, rfl⟩

/-! ### Witnesses: accumulators and the matrix engine -/

/-- Windows: 0 a BF16 window of 64 × 64 elements at 0, 1 an accumulator window of 8 × 8 records at 0x4000. -/
def matrix (c : Core) : State :=
  stateOf { c with windows := ((Vector.replicate 16 0).set 0 0x0008004004060000).set 1 0x00300008008C4000 }
/-- The same with registers. -/
def matrixOf (regs : List (Nat × Val)) : State := matrix (coreOf regs)

/-- ACCADD of one term, ACCADDV of four. -/
theorem witness_AccumulatorForms_AccumulatorInstructions_add :
    (let s := matrixOf [(1, num 0), (2, num 0x3F800000)]
     okay (Claims.readAll [1, 2] s) = true ∧
     okay (accRecords 1 [⟨1, 0, (List.range 4).map fun l => (0, l), ⟨true, true, false, false⟩⟩] s) = true ∧
     okay (Claims.updated 1 (((List.range 4).map fun l => Claims.recordAt s 1 0 0 l).zip (Claims.addends .fp32 4 (num 0x3F800000))) false s) =
       true) := by decide +kernel
/-- ACCCLR of the last record, ACCCMB, ACCST and ACCRND. -/
theorem witness_AccumulatorForms_AccumulatorInstructions :
    (let s := matrixOf [(1, num 0), (2, tcmCap 0)]
     okay (accRecords 1 [⟨1, 0x00070007, [(0, 0)], ⟨true, true, false, false⟩⟩] s) = true ∧
     okay (writeRecord (Claims.recordAt s 1 0x00070007 0 0) ⟨0, 0⟩ false false s) = true ∧
     okay (accRecords 1 [⟨1, 0, [(0, 0)], ⟨true, true, false, false⟩⟩, ⟨2, 1, [(0, 0)], ⟨true, false, false, false⟩⟩] s) = true ∧
     okay (readRecord (Claims.recordAt s 1 0 0 0) 1 s) = true ∧
     (match access { cap := tcmCap 0, num := 2, ea := Claims.lo (tcmCap 0), n := 96, need := ⟨false, true, false, false⟩, align := some 16,
                     window := true, noGlob := none, local_ := false } s with
       | .ok (.runs l, t) => (Claims.pieces (.runs l)).length == 6 && okay (storeRuns 0 false false true (Claims.pieces (.runs l)) t)
       | _ => false) = true ∧
     okay (writeReg 5 (num 0) s) = true) := by decide +kernel
/-- The first and the last record, one past the last row, a raw window. -/
theorem witness_AccumulatorForms_RecordParts :
    (let s := matrix (kernelOf [] false).core
     s.core.csr.km = true ∧ s.core.stores = [] ∧ s.flight = [] ∧ (∀ m ∈ s.core.wms.toList, m.len = 0) ∧
     okay (writeRecord 0x4000 ⟨1, 8⟩ true false s) = true ∧ winFmt (s.core.windows[1]?.getD 0) = 12 ∧
     winFmt (s.core.windows[0]?.getD 0) ≠ 12 ∧ winRows (s.core.windows[1]?.getD 0) = 8 ∧
     Claims.recordAt s 1 0x00070007 0 0 + 96 ≤ 0x8000 ∧ Claims.recordAt s 1 0x00070007 0 0 % 16 = 0) := by decide +kernel

/-- A BROT and an MMA. -/
def brotCmd : MxCmd := ⟨.brot none false, 1, 0, 0, 0x100, 2⟩
/-- A core with two commands queued. -/
def queuedMx (op : MxOp) : State := stateOf { coreOf [] with mxq := [{ brotCmd with op := op }, brotCmd] }
/-- A free queue and a full one, a pending fault, an MMA with each reason, a BLOAD of one step. -/
theorem witness_MatrixForms :
    (let s := matrixOf [(1, num 0), (2, num 0x80000000000000C5)]
     Claims.Plain s ∧ s.core.bound 1 = false ∧ Claims.mmaReason s 0 1 0 64 = none ∧ Claims.mmaReason s 1 1 0 8 = some 1 ∧
     Claims.mmaReason s 0 0 0 8 = some 2 ∧ Claims.mmaReason s 0 1 57 8 = some 3 ∧ Claims.mmaReason s 0 1 56 8 = none ∧
     Claims.mmaReason s 0 1 0x100000000 8 = some 4 ∧
     (match mxFit ⟨true, true, false, false⟩ s with | .ok (0, _) => true | _ => false) = true) ∧
    4 ≤ (stateOf { coreOf [] with mxq := [brotCmd, brotCmd, brotCmd, brotCmd] }).core.mxq.length ∧
    (matrix (kernelOf [] false).core).core.latchFree = true ∧ operandFmt (winFmt (0x0008004004060000 : QWord)) = true := by
  refine ⟨⟨⟨rfl, rfl⟩, ?_⟩, ?_⟩ <;> decide +kernel
/-- An MMA of one step, with elements of it read and records to write. -/
def mma1 (step : Nat) (got : List (Nat × QWord)) (parts : Option (List (Nat × QWord × Bool))) : Mma :=
  { wa := 0x0008004004060000, wc := 0x00300008008C4000, offs := 0, spec := 0x8000000000000045, ks := 0, step := step,
    got := got.map fun g => (g.1, g.2.setWidth _), sums := [], range := false, poison := false, parts := parts }
/-- A watermark over the operands, going on or stopped. -/
def marked (stopped : Bool) (op : MxOp) : State :=
  stateOf { (queuedMx op).core with wms := (queuedMx op).core.wms.set 0 ⟨0, 64, 0, [], stopped⟩ }
/-- Operand reads: nothing in the way and the first element of a step to read, one read on, all held back, a stopped watermark. -/
theorem witness_MatrixEngine_OperandReads :
    (queuedMx (.mma (mma1 0 [] none))).core.mxq = { brotCmd with op := .mma (mma1 0 [] none) } :: [brotCmd] ∧
    (let s := queuedMx (.mma (mma1 0 [] none))
     (Claims.elemsLeft (mma1 0 [] none)).all (fun x => (Claims.heldBack s.core (mma1 0 [] none) x).isNone) = true ∧
     Claims.served s 0 = some (0, 0)) ∧
    (let s := queuedMx (.mma (mma1 0 [(0, 1)] none))
     (Claims.elemsLeft (mma1 0 [(0, 1)] none)).length = 63 ∧ (Claims.heldBack s.core (mma1 0 [(0, 1)] none) 63).isNone = true) ∧
    (let s := marked false (.mma (mma1 0 [] none))
     (Claims.heldBack s.core (mma1 0 [] none) 0).any (fun b => !b.2.stopped) = true) ∧
    (let s := marked true (.mma (mma1 0 [] none))
     (Claims.heldBack s.core (mma1 0 [] none) 0).any (fun b => b.2.stopped) = true) := by
  refine ⟨rfl, ?_⟩; decide +kernel
/-- Record writes: none formed, one to write, all written. -/
theorem witness_MatrixEngine_RecordWrites :
    (queuedMx (.mma (mma1 1 [] none))).core.mxq = { brotCmd with op := .mma (mma1 1 [] none) } :: [brotCmd] ∧
    (queuedMx (.mma (mma1 1 [] (some [(tcmBase 0, 7, false)])))).core.mxq =
      { brotCmd with op := .mma (mma1 1 [] (some [(tcmBase 0, 7, false)])) } :: [brotCmd] ∧
    (queuedMx (.mma (mma1 1 [] (some [])))).core.mxq = { brotCmd with op := .mma (mma1 1 [] (some [])) } :: [brotCmd] ∧
    (mma1 1 [] none).ks < (mma1 1 [] none).step := ⟨rfl, rfl, rfl, by decide⟩
/-- A spill; a BROT before and after its image goes out, with and without a buffer free; a core in a trap service and none. -/
theorem witness_MatrixEngine_LatchRing :
    (queuedMx .spill).core.mxq = { brotCmd with op := .spill } :: [brotCmd] ∧
    ((queuedMx (.brot none false)).getCore 1).inbound = none ∧
    (((queuedMx (.brot none false)).setCore 1 { Core.reset with inbound := some Core.reset.latch }).getCore 1).inbound = some Core.reset.latch ∧
    (queuedMx (.brot none true)).core.inbound = none ∧
    (stateOf { (queuedMx (.brot none true)).core with inbound := some Core.reset.latch }).core.inbound = some Core.reset.latch ∧
    (queuedMx (.brot (some (0, 0)) false)).core.mxq = { brotCmd with op := .brot (some (0, 0)) false } :: [brotCmd] ∧
    ((List.range 8).all fun k => ((queuedMx (.brot (some (0, 0)) false)).getCore k).svc.isNone) = true ∧
    (((queuedMx (.brot (some (0, 0)) false)).setCore 3 { Core.reset with svc := some ⟨8, .slot 0, false, 0, 0, 0, 0, none, none⟩ }).getCore 3).svc.isSome = true := by
  refine ⟨rfl, rfl, rfl, rfl, rfl, rfl, ?_⟩; decide +kernel

/-! ### Witnesses: engine commands, watermarks, streamers -/

/-- A capability over bytes 0x400 to 0x4FF of the core's TCM with LD, ST, GLOBAL and ENGINE. -/
def engineCap (off : Nat) : Val := ⟨(0xC300000004000100 : BitVec 64) ++ BitVec.ofNat 64 (0x400 + off), true, false⟩
/-- g1 the source, g2 the destination, g3 the control word. -/
def copying (cw : Val) : State := stateOf (coreOf [(1, engineCap 0), (2, engineCap 128), (3, cw)])
/-- CPY of 128 bytes and of 129, FILL, an untagged source, a watermark flag on the own TCM, a counter of another partition's core. -/
theorem witness_EngineForms_EngineCommands :
    (let s := copying (num 128)
     Claims.Plain s ∧ Claims.engineFault false 1 2 3 s = none ∧ Claims.within (engineCap 0) 128 = true ∧
     Claims.within (engineCap 128) 128 = true ∧ Claims.within (engineCap 128) 129 = false ∧
     Claims.placeFault (Claims.copyPlan false 128) 0x400 0x480 s = none ∧ Claims.placeFault (Claims.copyPlan true 128) 0x400 0x480 s = none ∧
     Claims.engineFault false 3 2 1 s = some (.captag, 3) ∧ Claims.placeFault (Claims.copyPlan false 0x0800000000000080) 0x400 0x480 s = none ∧
     Claims.placeFault (Claims.copyPlan false 0x0400004000000080) 0x400 0x480 s = some (.send, 0x0400004000000080)) := by
  refine ⟨⟨rfl, rfl⟩, ?_⟩; decide +kernel
/-- GATHER with a descriptor in the TCM whose rows have one byte; an empty one has rows of no byte. -/
theorem witness_EngineForms_EngineCommands_rows :
    (let s := { copying (engineCap 64) with mem := Memory.empty.write (tcmBase 0 + 0x440) 8 0x100000001 }
     Claims.engineFault true 1 2 3 s = none ∧
     (match access { cap := engineCap 64, num := 3, ea := Claims.lo (engineCap 64), n := 32, need := ⟨true, false, false, false⟩,
                     align := some 32, window := true, noGlob := none, local_ := false } s with
       | .ok (p, t) => (match loadPlace p.cut true 3 t with
         | .ok (v, u) => v.value == 0x100000001 &&
           (Claims.placeFault (Claims.rowsPlan false 0x440 (BitVec.ofNat 64 v.value) 0 0 0) 0x400 0x440 u).isNone
         | .error _ => false)
       | .error _ => false) = true) := by decide +kernel
/-- WMSET of the last units below 0x8000, WMGET of channel 3. -/
theorem witness_EngineForms_WatermarkForms :
    (let s := stateOf (coreOf [(1, num 0x7F00), (2, num 0x100), (3, num 0x200)])
     okay (Claims.readAll [1, 2] s) = true ∧ okay (Claims.readAll [1, 3] s) = true ∧ (s.core.wms[3]?).isSome = true ∧
     okay (writeReg 5 (num 0) s) = true) := by decide +kernel

/-- CPY of 32 bytes of a core's TCM to an address in it. -/
def copyJob (done : List (Nat × Nat)) (failed : Option Nat) : EngJob :=
  { cmd := { kind := .cpy, core := 0, part := 0, chain := 0, ltag := 0, work := 0, eng64 := 0, src := (engineCap 0).bits,
             dst := (engineCap 128).bits, desc := 0, rows := 1, rowLen := 32, idxOff := 0, sStep := 0, dStep := 0, remote := none,
             wmen := false, chan := 0, cen := true, cctr := 63, ccore := 0, mbox := none },
    streamer := 0, begun := true, held := [], done := done, failed := failed, finished := false }
/-- A module with that command and a chain that fits region 0. -/
def streaming (done : List (Nat × Nat)) (failed : Option Nat) : State :=
  { mapped (coreOf []) with jobs := [copyJob done failed], strFit := [(0, [⟨0, 0, 15, 1, [1]⟩])] }
/-- A command that begins, one behind another of its core; the first piece; a byte of a piece in flight. -/
theorem witness_EngineForms_StreamerPieces :
    (let job := { copyJob [] none with begun := false }
     let s (n : Nat) : State := { mapped (coreOf []) with jobs := List.replicate n job }
     (s 1).jobs[0]? = some job ∧ (s 2).jobs[1]? = some job ∧ job.finished = false ∧
     (((s 2).jobs.take 1).any fun k => !k.begun && !k.finished && k.streamer == job.streamer && k.cmd.core == job.cmd.core) = true) ∧
    (let s := streaming [] none
     let job := copyJob [] none
     (s.jobs[0]? = some job ∧ job.begun = true ∧ job.finished = false ∧ job.failed = none) ∧ rangeSum job.done < job.cmd.total ∧
     0 < job.cmd.total ∧ (∀ p ∈ job.held, Claims.holdsByte p 0 = false) ∧ inRanges 0 job.done = false ∧ s.setAside 0 job 0 = false ∧
     (match s.pieceAt 0 job 0 with
       | .ok (p, t) => p.len == 16 && (match t.engReach 0 job 0 p.src.toNat 0 ⟨true, false, false, false⟩ with
         | .ok (l1, t1) => ((t1.mscTouch (some 0) l1 false).engReach 0 job 0 p.dst.toNat 0 ⟨false, true, false, false⟩ matches .ok _)
         | .error _ => false)
       | .error _ => false) = true) ∧
    (let job := { copyJob [] (some 4) with held := [⟨16, 16, 5, false, some (tcmBase 0 + 0x490)⟩] }
     let s : State := { mapped (coreOf []) with jobs := [job] }
     s.jobs[0]? = some job ∧ job.held ≠ [] ∧ (∀ p ∈ job.held, Claims.holdsByte p 3 = false) ∧ job.failed.isSome = true) := by
  decide +kernel
/-- A piece in flight that is written: with bytes left to read, and as the last of its command. -/
theorem witness_EngineForms_StreamerPieces_writes :
    (let p : HeldPiece := ⟨16, 16, 5, false, some (tcmBase 0 + 0x490)⟩
     let job (done : List (Nat × Nat)) : EngJob := { copyJob done none with held := [p] }
     let s (done : List (Nat × Nat)) : State := { mapped (coreOf []) with jobs := [job done] }
     (s []).jobs[0]? = some (job []) ∧ (job []).held.find? (fun x => Claims.holdsByte x 16) = some p ∧
     Claims.outOfReach (s []) (job []).cmd (tcmBase 0 + 0x490) 16 = false ∧
     ¬ (job []).cmd.total ≤ rangeSum (addRange 16 32 (job []).done) ∧ (job []).held.erase p = [] ∧
     (job [(0, 16)]).cmd.total ≤ rangeSum (addRange 16 32 (job [(0, 16)]).done)) := by decide +kernel
/-- The end of a command whose bytes are all there, and of one that has failed. -/
theorem witness_EngineForms_StreamerPieces_ends :
    (let s := streaming [(0, 32)] none
     let job := copyJob [(0, 32)] none
     job.cmd.total ≤ rangeSum job.done ∧ job.held = [] ∧ s.setAside 0 job job.cmd.total = false ∧ s.jobs[0]? = some job) ∧
    (let s := streaming [] (some 4)
     s.setAside 0 (copyJob [] (some 4)) 32 = false ∧ s.jobs[0]? = some (copyJob [] (some 4))) := by decide +kernel
/-- That command's bytes from another module, and with a mailbox in the TCM. -/
def variant (f : EngCmd → EngCmd) (done : List (Nat × Nat)) : EngJob := { copyJob done none with cmd := f (copyJob done none).cmd }
/-- The last piece that is read; rows gathered from module 9 and scattered to it, in its global range and outside it; a piece held
back by a watermark with a base beyond the reorder bitmap. -/
theorem witness_EngineForms_StreamerPieces_far :
    (let s := streaming [(0, 16)] none
     (match s.pieceAt 0 (copyJob [(0, 16)] none) 16 with
       | .ok (p, _) => decide ((copyJob [] none).cmd.total ≤ rangeSum (addRange p.start (p.start + p.len) [(0, 16)]))
       | .error _ => false) = true) ∧
    (let job := variant (fun e => { e with kind := .gather, remote := some 9, src := farCap.bits, desc := (engineCap 64).bits, idxOff := 0 }) []
     let s := { mapped (coreOf []) with jobs := [job], strFit := [(0, [⟨0, 0, 15, 1, [1]⟩])] }
     job.cmd.remote ≠ some s.modnum ∧ (match s.pieceAt 0 job 0 with
       | .ok (p, _) => decide (2 ^ 48 ≤ p.src.toNat) && decide (p.src.toNat < 2 ^ 49)
       | .error _ => false) = true) ∧
    (let job := variant (fun e => { e with kind := .scatter, remote := some 9, dst := farCap.bits, desc := (engineCap 64).bits, idxOff := 0 }) []
     let s := { mapped (coreOf []) with jobs := [job], strFit := [(0, [⟨0, 0, 15, 1, [1]⟩])] }
     (match s.pieceAt 0 job 0 with
       | .ok (p, t) => decide (2 ^ 48 ≤ p.dst.toNat) && decide (p.dst.toNat < 2 ^ 49) &&
         (t.engReach 0 job 0 p.src.toNat 0 ⟨true, false, false, false⟩ matches .ok _)
       | .error _ => false) = true) ∧
    (let job := variant (fun e => { e with wmen := true }) []
     let c : Core := { coreOf [] with wms := (coreOf []).wms.set 0 ⟨0, 0x8000, 0, [], false⟩ }
     let s : State := { mapped c with jobs := [job] }
     Claims.outOfReach s job.cmd (tcmBase 0 + 0x4100) 16 = true ∧ Claims.outOfReach s job.cmd (tcmBase 0 + 0x40F0) 16 = false) := by decide +kernel
/-- A mailbox inside the descriptor's bounds and reached, one that is not aligned, one outside. -/
theorem witness_EngineForms_CommandEnds :
    (let job (a : Nat) := variant (fun e => { e with desc := (engineCap 64).bits, mbox := some a }) [(0, 32)]
     let s : State := { mapped (coreOf []) with jobs := [job 0x450], strFit := [(0, [⟨0, 0, 15, 1, [1]⟩])] }
     s.setAside 0 (job 0x450) 32 = false ∧
     (s.engReach 0 (job 0x450) 32 0x450 0 ⟨false, true, false, false⟩ matches .ok _) ∧
     (capBounds (engineCap 64).bits).1 ≤ 0x450 ∧ 0x451 + 8 ≤ (capBounds (engineCap 64).bits).2 ∧
     (capBounds (engineCap 64).bits).2 < 0x500 + 8) := by decide +kernel

/-! ### Witnesses: chains -/

/-- A grant at 0x50100: it gives 17 of 65,536 to principal 1 of any chain [1]. -/
def granting (c : Core) (w : DWord) : State :=
  { mapped c with mem := ((tables.write 0x50100 8 w.toNat).write 0x50108 8 1).write 0x40010 8 (2 ^ 62) }
/-- PLEN 1, MAXD 8, FQ 17, principal 2. -/
def grantWord : DWord := BitVec.ofNat 64 (2 + 17 * 2 ^ 24 + 8 * 2 ^ 41 + 2 ^ 45)
/-- A grant capability. -/
def grantCap (otype off : Nat) : Val :=
  ⟨BitVec.ofNat 8 0xC2 ++ BitVec.ofNat 6 otype ++ (0 : BitVec 10) ++ (0x0000000120 : BitVec 40) ++ BitVec.ofNat 64 (0x0001000000050100 + off), true, false⟩
/-- A core with the chain [1] as its current one. -/
def chained (regs : List (Nat × Val)) : Core := { coreOf regs with chn := 0x10000 }
/-- A grant that is adopted, one that is refused; no SHED at the floor, one above it. -/
theorem witness_ChainForms_AdoptAndShed :
    (let s := granting (chained [(1, grantCap 1 0)]) grantWord
     (match readGrant 1 s with
       | .ok (g, t) => g[0]? == some grantWord && Claims.grantFault t g [(1, 65536)] == none && t.chain 0 0 == some [(1, 65536)] &&
         t.heldAt 0 (Claims.entryAt t 0 0) == none && t.heldAt 0 ((t.part 0).ptbase.toNat + 16) == none && t.live 0 2
       | .error _ => false) = true) ∧
    (let s := granting (chained [(1, grantCap 1 0)]) (grantWord + 0x1000000000000)
     okay (readGrant 1 s) = true) ∧
    okay (readReg 1 (granting (chained [(1, grantCap 3 0)]) 0)) = true ∧ (chained []).chn.extractLsb' 20 4 < (chained []).chn.extractLsb' 16 4 ∧
    (coreOf []).chn.extractLsb' 16 4 ≤ (coreOf []).chn.extractLsb' 20 4 ∧
    ¬ Claims.inMessage (mapped (chained [])) := by
  refine ⟨by decide +kernel, by decide +kernel, by decide +kernel, by decide, by decide,
    fun h => (by obtain ⟨_, k, h1, h2⟩ := h; cases h1; exact absurd h2 (by decide))⟩
/-- CHNGET, FIT with and without a cached fitting, UNPICK of a principal that is live and of one that is none. -/
theorem witness_ChainForms_ChainInstructions :
    (let s := granting (chained [(1, tcmCap 0), (2, num 2)]) grantWord
     okay (readReg 1 s) = true ∧ okay (writeReg 5 (num 0) s) = true ∧ fitFind 0 0 s.core.fit = some ⟨0, 0, 15, 1, [1]⟩ ∧
     fitFind 0 5 s.core.fit = none ∧ (s.fitWalk 0 0 0 5).1 = .undecided ∧ Claims.stateOf s 0 2 = 1 ∧ Claims.stateOf s 0 3 = 0 ∧
     s.heldAt 0 (Claims.entryAt s 0 0) = none ∧ s.heldAt 0 ((s.part 0).ptbase.toNat + 16) = none ∧
     Claims.outstanding s 0 2 = false ∧ s.core.unpick = none ∧ s.partOf s.focus = some 0 ∧
     (s.chain 0 1).isNone = true) := by decide +kernel
/-- An unpick that is presented and received by every unit; a book flush. -/
def unpicking (q : Option Nat) (got : List Nat) (shown : Bool) : State :=
  { mapped (coreOf []) with unpicks := [⟨0, 0, q, none, shown, got, []⟩] }
/-- The steps of an announcement. -/
theorem witness_Announcements :
    (let s := unpicking (some 1) [] false
     s.unpicks[0]? = some ⟨0, 0, some 1, none, false, [], []⟩ ∧ s.unpicks.countP (fun x => x.presented) < 64) ∧
    (let s := unpicking (some 1) [] true
     s.partOf s.focus = some 0 ∧ s.core.stores = [] ∧ s.core.rread = none ∧ s.core.mxq = [] ∧ s.focus < 1048576) ∧
    (let s := unpicking none ((unpicking none [] true).unitsOf 0) true
     (∀ n ∈ s.unitsOf 0, n ∈ ((unpicking none [] true).unitsOf 0))) ∧
    (let s := granting (coreOf []) grantWord
     Claims.stateOf s 0 2 = 1 ∧ 2 < (s.part 0).ptcount.toNat ∧ s.core.task.isSome = true ∧ fitFind 0 5 s.core.fit = none) := by
  refine ⟨by decide +kernel, by decide +kernel, fun _ h => h, by decide +kernel⟩
/-- Announcements that end: an unpick with and without a module to answer, a book flush; one that every unit has received. -/
theorem witness_Announcements_ends :
    (let s : State := { mapped (coreOf []) with unpicks := [⟨0, 0, some 1, none, true, [0], [9]⟩, ⟨1, 0, some 1, none, true, (mapped (coreOf [])).unitsOf 0, []⟩] }
     s.unpicks[0]? = some ⟨0, 0, some 1, none, true, [0], [9]⟩ ∧
     ((s.unitsOf 0).all fun n => decide (n ∈ (mapped (coreOf [])).unitsOf 0)) = true) ∧
    ((unpicking none [] false).unpicks[0]? = some ⟨0, 0, none, none, false, [], []⟩) := by decide +kernel
/-- LD g5, 0(g2) at the pc of a task, with a rule of the tables for it and no cached fitting; an ADD, which makes no access. -/
theorem witness_Announcements_WalkInstalls :
    (let s : State := placed (mapped { coreOf [(1, tcmCap 0)] with fit := [] }) 0x00061297
     Claims.imemInsn s = some 0x00061297 ∧ decodeWord 0x00061297 = .ok (.ld 5 1 3 0) ∧
     Claims.fitOf s (.ld 5 1 3 0) = some (1, 8) ∧ Claims.rtag (s.core.reg 1) = 0 ∧ (s.core.reg 1).tag = true ∧ s.partOf s.focus = some 0 ∧
     fitFind (Claims.chnHandle s.core.chn) 0 s.core.fit = none ∧ (s.accessOf (.ld 5 1 3 0)).any (fun x => s.reachesFitting x) = true ∧
     (match s.fitWalk (s.focus / 64) 0 (Claims.chnHandle s.core.chn) 0 with
       | (.rule perms _, _) => perms &&& 8 == 8
       | _ => false) = true) ∧
    Claims.fitOf sums (.add 3 1 2) = none ∧
    (let s : State := placed (mapped { coreOf [(1, { tcmCap 0 with tag := false })] with fit := [] }) 0x00061297
     (s.accessOf (.ld 5 1 3 0)).any (fun x => !s.reachesFitting x) = true) := by decide +kernel

/-! ### Witnesses: local time, duplex streams, sampling -/

/-- Local-time mode with one input channel from core 1 and one output channel to it. -/
def localTime (on : Bool) (last : DWord) : LocalTime :=
  { Core.reset.lt with
    on := on, clock := 4, promise := 5
    ins := Core.reset.lt.ins.set 0 ⟨true, 3, 0, 1, last, 0⟩
    outs := Core.reset.lt.outs.set 0 ⟨true, 2, 0, 1⟩ }
/-- A core in local time whose g1 holds a number. -/
def timed (on : Bool) (x : DWord) : State := stateOf { coreOf [(1, num x)] with lt := localTime on 10 }
/-- The mode off and on; a channel word that a valid channel has taken and one that is free; S = 13. -/
theorem witness_LocalTimeForms :
    readReg 1 (timed true 0) = .ok (num 0, timed true 0) ∧ (timed false 0).core.lt.on = false ∧ (timed true 0).core.lt.on = true ∧
    (∀ c ∈ (timed false 0).core.lt.outs.toList, c.valid = true → c.la ≠ 0) ∧
    Claims.IsSafe (localTime true 10) (some 13) ∧ (Claims.chanWord 0xC001000000000001).valid = true ∧
    (Claims.chanWord 0x4001000000000001).out = false ∧ okay (writeReg 5 (num 0) (timed true 0)) = true := by
  refine ⟨rfl, rfl, rfl, by decide +kernel, ⟨⟨⟨true, 3, 0, 1, 10, 0⟩, by decide +kernel, rfl, by decide⟩, ?_⟩, by decide, by decide, rfl⟩
  decide +kernel

/-- An event of core 1 with a stamp. -/
def event (stamp : DWord) (refusals : EvPhase) : EvEntry :=
  ⟨⟨header 4 1 false 0 0, [stamp], none, 1, 0, 0, [], false, 0, false⟩, 0, refusals⟩
/-- A core in local time with an event in its queue. -/
def eventful (stamp : DWord) : State :=
  stateOf { Core.reset with lt := localTime true 10, evq := Core.reset.evq.set 0 (some (event stamp .waiting)) }
/-- An event below S and one at S; a blocked core whose promise can rise; one with a raised ZEROLA. -/
theorem witness_LocalTimeAgents :
    ((eventful 12).core.evq[0]?).bind id = some (event 12 .waiting) ∧ (event 12 .waiting).phase = .waiting ∧
    (eventful 12).core.hasCandidate = false ∧
    (∀ x ∈ (eventful 12).core.lt.ins.toList, x.valid = true → 12 < x.last.toNat + x.la.toNat) ∧
    (∃ x ∈ (eventful 13).core.lt.ins.toList, x.valid = true ∧ x.last.toNat + x.la.toNat ≤ 13) ∧
    (let s := stateOf { Core.reset with lt := { localTime true 10 with blocked := some 0 } }
     s.core.lt.blocked = some 0 ∧ s.core.task = none ∧ s.core.csr.km = false ∧ s.core.kwork = [] ∧
     s.core.lt.promise.toNat < 13) ∧
    (let s := stateOf { Core.reset with out := false, kwork := [.zerola 3] }
     s.core.task = none ∧ s.core.csr.km = false ∧ s.core.out = false ∧ s.core.kwork = [KWork.zerola 3]) := by decide +kernel

/-- A stream's descriptor at 0x50100: G 40, P 30, C 35, PF 20, CKD 8, slot 36 checkpointed at 36. -/
def duplex (regs : List (Nat × Val)) : State :=
  let m := (((((tables.write 0x50108 8 40).write 0x50110 8 30).write 0x50118 8 35).write 0x50120 8 20).write 0x50130 8 (8 * 2 ^ 32)).write
    0x50148 8 (2 ^ 36)
  { mapped (coreOf regs) with mem := m.write (0x50180 + 72) 2 36 }
/-- A capability for the descriptor. -/
def dsdCap : Val := capAt 0xC20C000001000100 0x0001000000050100
/-- The state past the descriptor's access. -/
def granted2 (v : Val) (s : State) : Bool :=
  match dsdAccess 1 v s with
  | .ok (m, _) => m == 0x50100
  | .error _ => false
/-- Every DPX form's access; HEM at G, at the lowest position, below it; a checkpointed position; a frame. -/
theorem witness_DuplexForms :
    (let s := duplex [(1, dsdCap), (2, num 36), (3, capAt 0xC300000002000100 0x0001000000050200)]
     granted2 dsdCap s = true ∧ okay (Claims.readAll [1, 2] s) = true ∧ Claims.lowest (Claims.arrived s) 0x50100 = 32 ∧
     (Claims.word (Claims.arrived s) 0x50100 1).toNat = 40 ∧ (Claims.arrived s).slotBusy 0x50100 36 = false ∧
     (Claims.word (Claims.arrived s) 0x50100 9).getLsbD 36 = true ∧ (Claims.arrived s).mem.read (0x50100 + 128 + 72) 2 = 36 ∧
     (Claims.word (Claims.arrived s) 0x50100 4).toNat = 20 ∧ s.hemWait = [] ∧ (Claims.arrived s).hemHeld 0 0x50100 dsdCap.bits = none ∧
     loadable { (wordsAcc (capAt 0xC300000002000100 0x0001000000050200) 32 16) with num := 3 } s = true) := by decide +kernel
/-- A slot that is armed for tag 7, another tag, a SAMPLE to a core of the partition and to one of no panel of it. -/
theorem witness_SampleForms :
    (let c := coreOf [(1, num 0x0000000100000007), (2, num 3)]
     let s := withPanel (stateOf { c with samples := c.samples.set 0 { Core.reset.samples[0] with armed := true, tag := 7 } })
     okay (Claims.readAll [1, 2] s) = true ∧ s.inSet 0 0 = true ∧ s.inSet 0 1 = false ∧ (s.core.samples[63]?).isSome = true) := by decide +kernel

/-! ### Witnesses: the scheduler and the network -/

/-- A message of partition 0 from core 1 with two words. -/
def message (kind : Nat) : Msg := ⟨header kind 2 false 0 0, [3, 4], none, 1, 0, 0, [], false, 0, false⟩
/-- A core at a task boundary with a queued message for handler 0 at parcel 0x40. -/
def ready (kind : Nat) (h : DWord) : State :=
  let c := { Core.reset with out := false, inbox := Core.reset.inbox.set 5 (some (message kind)), handlers := Core.reset.handlers.set 0 h }
  stateOf (c.enqueue 1 (.slot 5) 0)
/-- ACTIVE, CODE, DATA at the last doubleword it may write and one later, and a handler that is not valid. -/
theorem witness_TaskStart :
    (let s := ready 0 0x8000000000000040
     Claims.Boundary s 0 ∧ Claims.nextWork s.core = some (.slot 5) ∧ s.core.inbox[5]? = some (some (message 0)) ∧ s.core.routines = [] ∧
     s.heldAt 0 (Claims.entryAt s 0 0) = none) ∧
    (let h : DWord := 0x9FFE000000000040
     Claims.Boundary (ready 3 h) 0 ∧ h.getLsbD 63 = true ∧ h.getLsbD 61 = false ∧ h.getLsbD 60 = true ∧
     (h.extractLsb' 48 12).toNat * 8 + 8 * 1 < 0x8000) ∧
    (let h : DWord := 0x9FFF000000000040
     0x8000 ≤ (h.extractLsb' 48 12).toNat * 8 + 8 * 1 ∧ Claims.Boundary (ready 2 0) 0) := by
  unfold Claims.Boundary; decide +kernel
/-- A counter and a sampling slot that start a task, kernel work, an empty core. -/
theorem witness_TaskStart_counter :
    (let c := { Core.reset with out := false, counters := Core.reset.counters.set 63 { Counter.zero with pc := 0x10, pend := 1 },
                                routines := [⟨0, 0, 0x20, 0x400, 0x100, 0, Vector.replicate 16 0⟩] }
     let s := stateOf (c.enqueue 0 (.counter 63) 0)
     Claims.Boundary s 0 ∧ Claims.nextWork s.core = some (.counter 63) ∧
     s.core.counters[63]? = some { Counter.zero with pc := 0x10, pend := 1 } ∧ s.heldAt 0 (Claims.entryAt s 0 0) = none) ∧
    (let c := { Core.reset with out := false, handlers := Core.reset.handlers.set 0 0x8000000000000040,
                                samples := Core.reset.samples.set 2 { Core.reset.samples[2] with best := some (1, 2) } }
     let s := stateOf (c.enqueue 0 (.sample 2) 0)
     Claims.Boundary s 0 ∧ Claims.nextWork s.core = some (.sample 2)) ∧
    (let s := stateOf { Core.reset with out := false }
     Claims.Boundary s 0 ∧ Claims.nextWork s.core = none) ∧
    (let s := stateOf { Core.reset with out := false, kwork := [.system 3] }
     s.core.task = none ∧ s.core.install = [] ∧ s.core.kwork = [.system 3] ∧ s.partOf s.focus = some 0) := by
  unfold Claims.Boundary; decide +kernel

/-- A released message of core 0 to core 1 in a phase. -/
def sent (kind : Nat) (p : CopyPhase) : SendEntry := ⟨0, true, .msg (message kind), [⟨0, 1, 0, p⟩], none⟩
/-- Core 0 with a released message, core 1 in service. -/
def sending (kind : Nat) (p : CopyPhase) (c1 : Core) : State :=
  withPanel ((stateOf { Core.reset with out := false, sendBuf := [sent kind p] }).setCore 1 c1)
/-- A message at a core that takes it, at a core whose inbox has one free slot, at one that is out, at one of another partition. -/
theorem witness_Arrivals :
    (let s := sending 0 .ready { Core.reset with out := false }
     (match s.outgoing (.core 0) 0 0 with
       | some o => o.copy.phase == .ready && o.copy.dmod == s.modnum && !o.behind (s.sendsBeside (.core 0)) && o.entry.back.isNone &&
         o.copy.refusals == 0
       | none => false) = true ∧ Claims.Takes s (message 0) 1 ∧ Claims.needs (s.getCore 1) (message 0) = true ∧
     2 ≤ (s.getCore 1).inbox.toList.countP Option.isNone) ∧
    (let s := sending 0 .ready { Core.reset with out := false, inbox := (Vector.replicate 32 (some (message 0))).set 0 none }
     Claims.Takes s (message 0) 1 ∧ (s.getCore 1).inbox.toList.countP Option.isNone < 2) ∧
    (sending 0 .ready { Core.reset with out := true }).occupant 0 = some 0 ∧ (sending 0 .ready Core.reset).inSet 0 (64 / 64) = false ∧
    (let s := sending 5 .ready { Core.reset with out := false, lt := localTime true 10 }
     Claims.channelOf (s.getCore 1) (message 5) = some 0 ∧ Claims.Takes s (message 5) 1) := by
  unfold Claims.Takes; decide +kernel
/-- A refused message before its last refusal and at it, a timer, a queue, a task with a budget. -/
theorem witness_NetworkSteps :
    (let s := sending 0 (.nacked .full) Core.reset
     (match s.outgoing (.core 0) 0 0 with
       | some o => o.entry.back.isNone && o.copy.phase == .nacked .full && decide (o.copy.refusals + 1 < 64)
       | none => false) = true ∧ (s.getCore 1).hold = none) ∧
    ((sending 0 (.waiting 40) Core.reset).outgoing (.core 0) 0 0).any (fun o => o.copy.phase == .waiting 40) = true ∧
    (let s := (sending 6 .ready { Core.reset with out := false, sendBuf := [sent 6 .ready] })
     ((s.outgoing (.core 0) 0 0).any fun x => (s.outgoing (.core 1) 0 0).any fun y => x.copy.dcore == y.copy.dcore) = true) ∧
    ((ready 0 0).core.queues[1]?.getD [])[0]? = some ⟨.slot 5, 0⟩ ∧
    (sums.core.task = some task0 ∧ sums.core.sc = none ∧ sums.core.unpick = none ∧ sums.core.rep = none) ∧
    (let s := stateOf { Core.reset with out := false }
     s.partOf s.focus = some 0 ∧ s.core.reported = []) ∧
    ({ sums with decs := [⟨0, 63, 1, 0⟩], flips := [(0, 63)] } : State).flips[0]? = some (0, 63) := by decide +kernel

/-! ### Witnesses: front ends and partitions -/

/-- A routine of 32 parcels at 0 with data at 0x400, class 3. -/
def routine1 : RoutineInfo :=
  { routine := ⟨1, 0, 0x20, 0x400, 0x100, 0, Vector.replicate 16 0⟩, image := 0x70000, bytes := 192, classes := [(3, 0x8000000000010000)],
    ready := true, gone := false }
/-- Partition 0 with a routine, owning panel 0 (its panel set lies at 0x80000). -/
def part1 : Part := { part0 with psbase := 0x80000, routines := [routine1] }
/-- Die 0 whose list 0 has one queue block at 0x2000: queue 0 of partition 0 with 16 slots at guest address 0x60000. -/
def ringDie : Die :=
  { Die.zero with occ := [(0, 0)], lhead := Die.zero.lhead.set 0 0x2000, wcur := Die.zero.wcur.set 0 0x2000, seen := Die.zero.seen.set 0 1, quota := Die.zero.quota.set 0 8 }
/-- A module with a ring whose first packet has these words, written up to WIDX. -/
def ringOf (words : List Nat) (widx : BitVec 32) : State :=
  let m := ((tables.write 0x80000 1 1).write 0x2008 8 0x0001000000060000).write 0x2010 8 0x40004
  { stateOf { Core.reset with out := false } with
    mem := (words.zipIdx).foldl (fun m w => m.write (0x60000 + 8 * w.2) 8 w.1) m
    parts := [(0, part1)], dies := State.reset.dies.set 0 ringDie
    queues := [(0, ⟨widx, 0, 0, 0, 0, false, 0⟩), (1, ⟨0, 0, 0, 0, 0, false, 0⟩), (2, ⟨0, 0, 0, 0, 0, false, 1⟩)] }
/-- What the ring offers. -/
def offered (words : List Nat) (f : Offer → Bool) : Bool :=
  match (ringOf words 1).offer (.ring 0 0) ((words.headD 0) % 16) with
  | .ok o => o.block.isSome && f o
  | .error _ => false
/-- A write index at the last slot of the ring and one past it, of an owner and of another; a walker at a block. -/
theorem witness_FrontEndSteps :
    (let s := ringOf [0] 1
     (s.window 0).part.toNat = 0 ∧ (s.blockOf 0).any (fun b => (16 - b.ridx).toNat ≤ 2 ^ b.log2n && decide (2 ^ b.log2n < (17 - b.ridx).toNat)) =
       true ∧ s.blockOf 1 = none ∧ s.dies[0]? = some ringDie ∧ ringDie.wcur[0]? = some 0x2000 ∧
     (s.qsb 0 0x2000).en = true ∧ (s.qsb 0 0x2000).prio = 0 ∧ (s.window 2).part.toNat ≠ 0) := by decide +kernel
/-- Each kind of packet that is offered, with what its store needs. -/
theorem witness_PacketForms :
    offered [0] (fun o => o.index == 0 && o.ext.isNone) = true ∧ offered [5, 0, 0, 1] (fun o => (Claims.pkt o 3).toNat == 1) = true ∧
    offered [6, 0, 0, 0x0001000000050100, 7] (fun o =>
      match ((ringOf [6, 0, 0, 0x0001000000050100, 7] 1).take o).frontAt 0 (Claims.pkt o 3) true (.slot 0 0) 0 0 with
      | .loc m => m == 0x50100
      | _ => false) = true ∧
    (match (ringOf [6] 1).frontFits 0 0 ⟨false, true, false, false⟩ with | .ok b => b | .error _ => false) = true ∧ (part1.dmen = false) ∧ (ringOf [6] 1).mem.wf = true ∧
    offered [7, 0, 0, 0x0001000000050104] (fun o => (Claims.pkt o 3).toNat % 8 != 0) = true ∧
    offered [4, 0, 0, 0x0001000000050000, 0x0001000000050100, 0, 64] (fun o => (ringOf [4] 1).tagFree o.part o.die 1) = true ∧
    offered [1 + 256, 0, 0, 0x0001000000070000, 192] (fun o => o.part == 0) = true ∧
    offered [8 + 256] (fun _ => true) = true ∧ (ringOf [8] 1).pending = [] ∧ (ringOf [8] 1).launches = [] := by decide +kernel
/-- Stores to the TCM of core 0 and to the scratchpad of panel 0, which the partition occupies. -/
theorem witness_PacketForms_near : Claims.FrontNear (ringOf [6] 1) 0 0 0x10000000400 (tcmBase 0 + 0x400) ∧
    Claims.FrontNear (ringOf [7] 1) 0 0 0x20000000008 (spadBase 0 + 8) :=
  ⟨⟨by decide, by decide +kernel, ⟨0, by decide +kernel, by decide +kernel, .inl ⟨0, 0x400, by decide, by decide, rfl, rfl, rfl⟩⟩, rfl,
      by decide +kernel⟩,
    ⟨by decide, by decide +kernel, ⟨0, by decide +kernel, by decide +kernel, .inr ⟨8, by decide, by decide, rfl, rfl⟩⟩, rfl, by decide +kernel⟩⟩
/-- An image of 336 bytes with 8 parcels at parcel 0x100, and one whose parcels run past the IMEM. -/
theorem witness_PacketForms_install :
    (let s := ringOf [1 + 256, 0, 0, 0x0001000000070000, 336] 1
     let s := { s with mem := s.mem.write 0x70000 8 0x80100 }
     (match s.imageRead 0 0 0 0x0001000000070000 (pagesOf 0x0001000000070000 336) with
       | .loc m => m == 0
       | _ => false) = true ∧
     s.badImage 0 0 336 { routine := (s.imageOf 0 0x70000 2).1, image := 0x70000, bytes := 336, classes := [], ready := false, gone := false } =
       false) ∧
    (let s := { ringOf [1] 1 with mem := tables.write 0x70000 8 0x11000 }
     4096 < (s.imageOf 0 0x70000 2).1.imemOff + (s.imageOf 0 0x70000 2).1.nparc) := by decide +kernel

/-- A launch of 4 identifiers in one field, of level 0. -/
def launch1 : Launch :=
  { tag := 1, part := 0, die := 0, chain := 0, routine := 1, cls := 3, prio := 1, prog := 0, gang := 0, budget := 100,
    widths := [2, 0, 0, 0, 0, 0], levels := [0, 1, 2, 3, 4, 5], extents := [4, 1, 1, 1, 1, 1], total := 4, next := 0, held := false, stream := none,
    post := none, cap := none, revoke := false, arg := none, done := 0, packet := ⟨some (0, 0), 6, 0⟩, nfail := 0, first := 0, cause := 0,
    status := 0, aside := [], rtag := 0 }
/-- A module with that launch. -/
def launching (l : Launch) : State := { ringOf [0] 1 with launches := [l] }
/-- DISPATCH of class 3 of routine 1, of a routine that is not there; POST to a TCM and to nobody; a launch whose next identifier may
be sent, one that has ended; a SENDK request; an image to install. -/
theorem witness_LaunchForms :
    offered [2 + 256 + 3 * 65536, 0, 0, 2] (fun o => (ringOf [2] 1).tagFree o.part o.die 1 &&
      (((ringOf [2] 1).take o).routineOf 0 1).any (fun i => decide ((3, 0x8000000000010000) ∈ i.classes)) &&
      (((ringOf [2] 1).take o).guestWord 0 0x50000).extractLsb' 62 2 == 1 && (((ringOf [2] 1).take o).part 0).ctbase == 0x50000 &&
      o.block.isSome && o.ext.isNone && (ringOf [2] 1).heldAt 0 (Claims.entryAt (ringOf [2] 1) 0 0) == none) = true ∧
    offered [2 + 512] (fun _ => part1.routines.all fun x => x.routine.index != 2) = true ∧
    offered [3 + 256 + 3 * 65536, 0, 0, 0x10000000000] (fun o => (((ringOf [3] 1).take o).owner 0 0x10000000000).isSome &&
      (((ringOf [3] 1).take o).owner 0 0).isNone) = true ∧
    (let s := launching launch1
     s.launchOf (some 0) 1 = some launch1 ∧ (s.part 0).en = true ∧ (s.part 0).dying = false ∧ (s.placeOf launch1 0).isSome = true ∧
     (s.placeOf launch1 3).isSome = true ∧ Claims.OnlyField launch1 0 0) ∧
    (let l := { launch1 with next := 4 }
     (launching l).launchOf (some 0) 1 = some l ∧ (launching l).launchEnded l = true) ∧
    (let s := { ringOf [0] 1 with core := { Core.reset with out := false, install := [(0, 1, 0)] } }
     s.partOf s.focus = some 0 ∧ ((s.part 0).routines.find? fun x => x.routine.index == 1 && !x.gone) = some routine1 ∧
     s.heldAmong 0 (pagesIn routine1.image.toNat routine1.bytes) = none) := by
  refine ⟨by decide +kernel, by decide +kernel, by decide +kernel, ⟨by decide +kernel, by decide +kernel, by decide +kernel, by decide +kernel,
    by decide +kernel, by decide, ⟨1, by decide⟩, ?_⟩, by decide +kernel, by decide +kernel⟩
  intro j hj h
  match j, hj, h with
  | 0, hj, _ => exact absurd rfl hj
  | 1, _, h => exact absurd h (by decide)
  | 2, _, h => exact absurd h (by decide)
  | 3, _, h => exact absurd h (by decide)
  | 4, _, h => exact absurd h (by decide)
  | 5, _, h => exact absurd h (by decide)
  | _ + 6, _, h => exact absurd h (by simp [launch1])

/-- A module whose partition 0 has a page-request ring of two records at 0x100000. -/
def asking (reqs : List PageReq) (widx : BitVec 32) : State :=
  { ringOf [0] 1 with parts := [(0, { part1 with prqbase := 0x100000, prqlog := 1, prqwidx := widx, reqs := reqs })] }
/-- A miss of page 16 that core 0 has met. -/
def miss16 : PageMiss := { part := 0, off := 0x100000, wr := false, fault := ⟨1, 1, 0⟩, src := 0, ltag := 0, chain := 0, asker := .core 0 }
/-- A load whose page is not mapped; a request of the same page, room for a new one, a full ring, a held request. -/
theorem witness_PartitionForms_PageRequests :
    (let s := mapped (coreOf [(1, capAt 0xC200000000002000 0x0001000000100000)])
     (match access (Claims.loadAcc ⟨2, 5, 1, 3, 0, true, false⟩ (capAt 0xC200000000002000 0x0001000000100000)) s with
       | .error (.trap ⟨7, _, some m, none, none⟩) => m.off == 0x100000 && m.part == 0
       | _ => false) = true ∧ s.hemWait = [] ∧ s.core.rep = none) ∧
    ((asking [⟨some 7, [0, 0, 0, 0], 16, false, [3], [], []⟩] 1).part 0).reqs[0]? = some ⟨some 7, [0, 0, 0, 0], 16, false, [3], [], []⟩ ∧
    Claims.SamePage miss16 ⟨some 7, [0, 0, 0, 0], 16, false, [3], [], []⟩ ∧
    (let s := asking [] 0
     ((List.range 4).all fun k => (s.homeOf (0x100000 + 8 * k)).isSome) = true ∧ s.mem.wf = true ∧
     ((s.part 0).prqwidx - (s.part 0).prqridx).toNat < 2 ^ (s.part 0).prqlog.toNat) ∧
    ¬ (((asking [] 2).part 0).prqwidx - ((asking [] 2).part 0).prqridx).toNat < 2 ^ ((asking [] 2).part 0).prqlog.toNat ∧
    (let s := asking [⟨none, [0, 0, 0, 0], 16, false, [0], [], []⟩] 2
     (∀ r ∈ (s.part 0).reqs, r.words.length = 4) ∧ s.mem.wf = true ∧
     ((List.range 64).all fun k => (s.homeOf ((s.part 0).prqbase.toNat + k)).isSome) = true) := by
  unfold Claims.SamePage; decide +kernel
/-- A partition whose replies are read, with a request that core 0 made and none that is held. -/
theorem witness_PartitionForms_PageReplies :
    (let a := ({ asking [⟨some 0, [0, 0, 0, 0], 16, false, [0], [], []⟩] 1 with mem := tables } : State).part 0
     a.context = .idle ∧ a.out = false ∧ (a.reqs[0]?).bind PageReq.tag = some 0) ∧
    ((asking [] 0).dies.toList.all fun d => d.groups.toList.all fun g => !g.en) = true ∧
    (asking [] 0).tableWord 0 &&& 0xFFF = 0 := by decide +kernel
/-- A partition that is down, owning a panel that nobody occupies. -/
theorem witness_PartitionForms_PartitionStarts :
    (let s : State := { ringOf [0] 1 with parts := [(0, { part1 with en := false })], dies := State.reset.dies.set 0 { ringDie with occ := [] } }
     (s.part 0).en = false ∧ (s.part 0).out = false ∧ (s.panels 0).contains 0 = true ∧ s.occupant 0 = none ∧ (s.die 0).dead = []) := by
  decide +kernel
/-- A scrub queue of one entry, asked for by an access and not; its frame lies beside the entry. -/
theorem witness_PartitionForms_ScrubForms :
    (let d (demand : List Nat) : Die := { ringDie with sqlog := 4, sqbase := 0x90000, sqwidx := 1, demand := demand }
     let m := ((ringOf [0] 1).mem.write 0x90000 8 0xA0000).write 0x90008 8 0x30050
     let s (demand : List Nat) : State := { ringOf [0] 1 with dies := State.reset.dies.set 0 (d demand), mem := m }
     (s []).scrubNext 0 = some ⟨0, 0xA0000, 0x30050⟩ ∧ (s [0xA0000]).scrubNext 0 = some ⟨0, 0xA0000, 0x30050⟩ ∧
     ((s [0xA0000]).die 0).demand.head? = some 0xA0000 ∧ (s []).pending = [] ∧ (s []).tableWrites = [] ∧ m.wf = true ∧ ((s []).homeOf 0x30050).isSome = true) := by
  decide +kernel

/-- A frame in the scrub queue: one that is on it and one whose queue is empty; parked work; a panel that nobody occupies. -/
theorem witness_PartitionForms :
    (let s := ringOf [0] 1
     (∀ r ∈ (s.part 0).reqs, r.tag.isSome = true) ∧ s.scrubNext 0 = none ∧ (s.panels 0).contains 0 = true ∧
     (s.panels 0).contains 1 = false) ∧
    (let c := { Core.reset with out := false, parked := [(.slot 3, 7)], kwork := [.reply 7 true],
                                inbox := Core.reset.inbox.set 3 (some (message 0)) }
     let s := stateOf c
     s.core.kwork = [.reply 7 true] ∧ s.core.parked = [(.slot 3, 7)] ∧ (∀ q : Fin 4, s.core.queues[q] = []) ∧ s.partOf s.focus = some 0) ∧
    (let d := { ringDie with sqlog := 4, sqbase := 0x90000, sqwidx := 1 }
     let m := (ringOf [0] 1).mem
     let s := { ringOf [0] 1 with dies := State.reset.dies.set 0 d, mem := (m.write 0x90000 8 0xA0000).write 0x90008 8 0x30050 }
     (s.scrubNext 0).isSome = true) := by decide +kernel
/-- A REMOVE and an ADD before and after they begin; a partition that may be saved and one that may be restored; a group. -/
theorem witness_ContextForms :
    (let s := ringOf [0] 1
     Claims.OneOccupant s ∧ (s.die 0).cmds = [] ∧ s.occupant 0 = some 0 ∧ (s.part 0).psbase.toNat + 2048 ≤ 2 ^ 48 ∧
     (s.homeOf 0x80000).isSome = true ∧ (s.part 0).context = .idle) ∧
    (let s := { ringOf [0] 1 with dies := State.reset.dies.set 0 { ringDie with cmds := [⟨0, .remove, 0, true, false, 0⟩] } }
     s.panelFree 0 0 = true ∧ s.panelAtRest 0 = true) ∧
    (let s := { ringOf [0] 1 with parts := [(0, { part1 with context := .saving })] }
     s.saveReady 0 (s.heldPanels 0) = true ∧ part1.doomed = false) ∧
    (let s := { ringOf [0] 1 with dies := State.reset.dies.set 0 { ringDie with occ := [] } }
     s.imagesHeld 0 = none ∧
     (∀ n ∈ s.panels 0, n < 16384 ∧ (s.die (dieOfPanel n)).dead.contains (n % 4096) = false ∧ s.occupant n = none)) ∧
    ((ringOf [0] 1).panels 0 = [0] ∧ (ringOf [0] 1).occupant 0 = some 0 ∧ (ringOf [0] 1).panelQuiet 0 = true) := by
  unfold Claims.OneOccupant; decide +kernel
/-- A reply for a request that core 0 made; a switching group whose current partition may be saved; a command that lands in it. -/
theorem witness_ContextForms_group :
    (let q : Part := { part1 with rpbase := 0x90000, reqs := [⟨some 7, [], 0, false, [0], [], []⟩] }
     let s := { ringOf [0] 1 with parts := [(0, q)], mem := tables.write 0x90000 8 0x10007 }
     q.rpridx + 1 = 1 ∧ ((s.tableWord (q.rpbase.toNat + 16 * (q.rpridx.toNat % 2 ^ q.rplog.toNat))).extractLsb' 0 12 : BitVec 12) = 7) ∧
    (let g : Group := { Die.zero.groups[0] with en := true, switching := true, ents := Die.zero.groups[0].ents.set 0 (true, 0) }
     let s := { ringOf [0] 1 with dies := State.reset.dies.set 0 { ringDie with groups := ringDie.groups.set 0 g }, mem := tables }
     ((s.die 0).groups)[0]? = some g ∧ g.ents[g.cur.toNat]? = some (true, BitVec.ofNat 6 0) ∧
     s.saveReady 0 ((s.groupPanels g).filter fun n => s.occupant n == some 0) = true ∧
     lands (copyJob [] none).cmd [0] = true ∧ (copyJob [] none).cmd.mbox = none) := by decide +kernel

/-- Partition 0 saving, with its save area at 16 MiB and a message that waits for core 0. -/
def saving : State :=
  let c := { Core.reset with out := false, inbox := Core.reset.inbox.set 3 (some (message 0)) }
  { ringOf [0] 1 with core := c.enqueue 1 (.slot 3) 0, parts := [(0, { part1 with context := .saving, sabase := 0x1000000 })] }
/-- Its one panel. -/
theorem saving_panels : saving.panels 0 = [0] ∧ saving.heldPanels 0 = [0] := by decide +kernel
/-- R333, R334: a context that can be saved and whose save area is apart; core 0 at its first place holds what the area can hold. -/
theorem witness_ContextForms_SaveAreas : (Claims.OneOccupant saving ∧ (saving.part 0).context = .saving ∧ (saving.part 0).doomed = false ∧
    saving.saveReady 0 (saving.heldPanels 0) = true) ∧ Claims.Still saving 0 (saving.heldPanels 0) ∧ Claims.Stands saving 0 0 0 := by
  refine ⟨by unfold Claims.OneOccupant; decide +kernel, ?_, by unfold Claims.Stands; decide +kernel⟩
  obtain ⟨h1, h2⟩ := saving_panels
  have hp : ∀ q, saving.part q = if q = 0 then { part1 with context := .saving, sabase := 0x1000000 } else Part.zero := by
    intro q; by_cases h : q = 0
    · subst h; rfl
    · simp only [State.part, saving, alookup]; rw [if_neg (fun e => h e.symm), if_neg h]; rfl
  refine ⟨by decide +kernel, ?_, by intro f hf; exact absurd hf (by simp [show saving.flight = [] from rfl]), ?_, ?_, ?_, ?_⟩
  · intro n _
    by_cases h : n = 0
    · subst h; rfl
    · simp only [State.getCore]
      rw [if_neg (show ¬ n = saving.focus from h)]
      show (coreAtReset n).stores = []
      unfold coreAtReset; split <;> rfl
  · intro q; rw [hp]; split <;> rfl
  · intro k hk
    rw [h1] at hk
    have : rawHome (0x1000000 + k) = some (.sram 0) := by
      simp only [rawHome, List.length_singleton] at *
      rw [if_pos (by omega), Nat.div_eq_of_lt (by omega)]
    show (saving.homeOf (0x1000000 + k)).isSome = true
    have hw : (saving.die 0).ways = 0 := by decide +kernel
    have hu : saving.railUp railSram = true := rfl
    simp only [State.homeOf, this, hw, hu, beq_self_eq_true, Bool.true_or, Bool.true_and, Nat.zero_mul, Nat.add_zero]
    rw [if_pos (by simp only [List.length_singleton] at hk; simp only [decide_eq_true_eq]; omega)]
    rfl
  · rw [h1, hp 0]; decide
  · intro q; rw [h1, hp 0, hp q]
    split
    · left; decide
    · left; decide

/-! ### Witnesses: boot, power, training, errors, registers, encodings -/

/-- The module right after reset with a rail in a state. -/
def railed (n : Nat) (r : Rail) : State := { State.reset with rails := State.reset.rails.setIfInBounds n r }
/-- A boot flash whose header keeps the limits and names a key slot. -/
def flash1 (slot : Byte) : List Byte := [0x01, 0x00, 0x4A, 0x5A, 1, 0, 0, 0, 0, 0, 0, 0, slot]
/-- A flint in the ROM before and behind the rail's rise, a bad header, a bad key slot, a flint that waits for recovery, locks. -/
theorem witness_BootForms :
    (State.reset.flints[0]? = some .rom ∧ State.reset.rails[5]? = some ⟨false, false, 0, false⟩ ∧ State.reset.flints[3]? = some .held ∧
      State.reset.sec.qgo = false ∧ State.reset.sec.lock.getLsbD 7 = false ∧ State.reset.sec.tree = none ∧ State.reset.sec.fuselock = false ∧
      State.reset.sec.recover = false ∧ State.reset.sec.queue = []) ∧
    (railed 5 ⟨false, false, 0, true⟩).rails[5]? = some ⟨false, false, 0, true⟩ ∧
    (let s := railed 5 ⟨true, false, 0, true⟩
     ¬ Claims.headerGood s ∧ Claims.headerGood { s with flash := flash1 5 } ∧ Claims.flashField { s with flash := flash1 5 } 0xC 4 % 8 = 5) := by
  unfold Claims.headerGood; decide +kernel
/-- A rail whose predecessor is good and one whose predecessor is not; a change of CLKSTATE. -/
theorem witness_PowerForms : ((railed 8 ⟨true, false, 0, true⟩).rails[8]? = some ⟨true, false, 0, true⟩ ∧
    (railed 8 ⟨true, false, 0, true⟩).rails[4]? = some ⟨false, false, 0, false⟩ ∧ Claims.beforeRail 8 = some 4) ∧ Claims.beforeRail 1 = some 5 ∧ Claims.beforeRail 5 = none ∧ State.reset.rails[8]? = some ⟨false, false, 0, false⟩ ∧
    (railed 5 ⟨true, false, 0, true⟩).rails[5]? = some ⟨true, false, 0, true⟩ ∧ State.reset.clkBusy = false ∧
    (∀ t ∈ State.reset.trains, t.2.go = false) := by decide +kernel

/-- A training block at work. -/
def training (b : TrainBlock) (op : Byte) (passed fails : Nat) (r : Option (Bool × BitVec 16 × BitVec 32)) : State :=
  State.reset.setTrain b { Train.zero with go := true, op := op, passed := passed, fails := fails, result := r }
/-- CATRAIN in its place, a step that comes too early, a third and a fourth failure, ONLINE. -/
theorem witness_TrainingForms :
    (let t := (training (.gddr 127) 2 1 0 none).train (.gddr 127)
     t.go = true ∧ t.op.toNat = 2 ∧ t.result = none ∧ 2 ≤ t.passed + 1 ∧ t.arg ≠ 1) ∧
    (let t := (training (.gddr 0) 4 1 3 none).train (.gddr 0)
     t.passed + 1 < t.op.toNat ∧ t.wrote ≠ 0x3F ∧ t.fails = 3) ∧
    ((training (.trarum 17) 3 2 2 (some (false, 0, 9))).train (.trarum 17)).result = some (false, 0, 9) ∧
    (training (.gddr 5) 7 6 0 none).dark = false ∧ ((training (.gddr 5) 7 6 0 none).train (.gddr 5)).op = 7 ∧
    ((training (.brix 3) 5 4 0 none).train (.brix 3)).op = 5 ∧ ((training (.trarum 0) 5 4 0 none).train (.trarum 0)).passed = 4 := by
  decide +kernel

/-- Die 0 with an error ring of 2 records in host memory and a line in its cache. -/
def erring : Die :=
  { Die.zero with errbase := 0x800000000000, errlog := 1, msc := [⟨0x1000, 3, 0, true⟩] }
/-- A module with it. -/
def failing : State := { awake with dies := State.reset.dies.set 0 erring, parts := [(0, { Part.zero with en := true })], porten := 1 }
/-- Walks of way 3: with a line left in it, and with none. -/
theorem witness_ErrorForms_walks :
    ({ erring with walks := [⟨3, 7, 0x1000, 3, 0, [0]⟩] } : Die).walks = [⟨3, 7, 0x1000, 3, 0, [0]⟩] ∧
    (erring.msc.find? fun m => m.way == 3) = some ⟨0x1000, 3, 0, true⟩ ∧ (∀ m ∈ erring.msc, m.way ≠ 4) ∧
    (failing.part 0).dying = false ∧ (failing.part 0).doomed = false := by decide +kernel
/-- An error of SRAM, of GDDR channel 31, of core 0's panel, of a cached line, of a port. -/
theorem witness_ErrorForms : failing.dies[0]? = some erring ∧ failing.hostUp = true ∧ (∀ y ∈ failing.dies.toList, y.recs = []) ∧ failing.mem.wf = true ∧
    isHost erring.errbase.toNat = true ∧ (erring.errwidx - erring.errridx).toNat < 2 ^ erring.errlog.toNat ∧
    erring.errbase.toNat + 2 ^ 21 ≤ 2 ^ 48 ∧ rawHome 0x1000 = some (.sram 0) ∧ (erring.filter.toList.any fun e => !e.1) = true ∧
    (erring.filter.toList.all fun e => !e.1) = true ∧ ((failing.setCore 0 { Core.reset with out := true }).getCore 0).out = true ∧ erring.waydis.getLsbD 3 = false ∧
    (failing.part 0).context = .idle ∧ failing.porten.getLsbD 0 = true ∧ dieOfPort 0 = 0 ∧ failing.brixDown = false ∧
    (let s := { failing with dies := State.reset.dies.set 0 { erring with cmds := [⟨64, .retire, 0, true, false, 0⟩] } }
     s.panelFree 64 0 = true ∧ s.panelAtRest 0 = true ∧ s.occupant 0 = none) := by decide +kernel
/-- A partition that is down and one that is up; a training block that does not run. -/
theorem witness_RegisterForms : (State.reset.part 63).en = false ∧ (State.reset.part 63).dmen = false ∧ (failing.part 0).en = true ∧
    (State.reset.train (.gddr 127)).go = false ∧ (RegAgent.pf : RegAgent) ≠ .flint 0 := by decide +kernel
/-- The longest and the shortest encodings at operand values of their limits. -/
theorem witness_DecodeOfEncode : wellFormed (.addi 31 31 0xFFFF) = true ∧ (encode (.addi 31 31 0xFFFF)).isSome = true ∧
    wellFormed (.cJ 0x400) = true ∧ (encode (.cJ 0x400)).isSome = true ∧ wellFormed (.accrnd 31 15 31 .tblb .rdn) = true ∧
    (encode (.accrnd 31 15 31 .tblb .rdn)).isSome = true := by decide +kernel
/-- R17, R329: the invariant holds in a state with two cores, a held line and an occupied panel. -/
theorem witness_StepKeepsInv : Claims.Inv (sending 0 .ready { Core.reset with out := false }) := by
  refine ⟨by decide +kernel, by decide +kernel, by decide +kernel, List.nodup_nil, ?_⟩
  unfold Claims.OneOccupant; decide +kernel

/-- Requests at the security block: none, a quote with an extend behind it, a quote alone; a fuse command on its way. -/
theorem witness_BootForms_requests :
    (let s : State := { State.reset with sec := { State.reset.sec with queue := [.quote 0, .extend 2 5], fgo := true, field := 5, index := 4 } }
     s.sec.queue = .quote 0 :: [.extend 2 5] ∧ SecReq.extend 2 5 ∈ s.sec.queue ∧ s.sec.fgo = true ∧ s.sec.field = 5 ∧ s.sec.index = 4) ∧
    (∀ j d, SecReq.extend j d ∉ [SecReq.quote 0]) ∧ State.reset.sec.queue = [] ∧ State.reset.sec.fgo = false :=
  ⟨⟨rfl, by decide, rfl, rfl, rfl⟩, fun _ _ h => (by cases h with | tail _ h => cases h), rfl, rfl⟩
/-- Die 0's flint in stage 1, at a phase, with the other flints in a state. -/
def staged (phase : BitVec 64) (f : FlintState) : State :=
  { awake with flints := (Vector.replicate 4 f).set 0 .running, clkCur := 0, sec := { State.reset.sec with boot := phase <<< 8 } }
/-- Each phase of stage 1: rails up, a flint that is held, one that has failed, all halted; the fuses open and locked; an image that fails. -/
theorem witness_BootForms_StageOne :
    (let s := staged 2 .held
     s.flints[0]? = some .running ∧ s.sec.boot.getLsbD 63 = false ∧ ((s.sec.boot.extractLsb' 8 8).toNat) = 2 ∧
     ([1, 2, 3, 4, 8, 6, 7].all fun n => (s.rails[n]?.any Rail.pgood)) = true) ∧
    ((staged 3 .held).flints[1]? = some .held ∧ (staged 3 .held).mem.wf = true) ∧
    ((staged 3 .failed).flints[1]? = some .failed ∧ (staged 3 .failed).flints[3]? ≠ some .held) ∧
    (∀ j, 1 ≤ j → j < 4 → (staged 3 .halted).flints[j]? = some .halted) ∧
    (∀ d, d < 4 → ((staged 4 .halted).train (.brix d)).online = true) ∧
    (staged 5 .halted).sec.fuselock = false ∧ (staged 5 .halted).sec.lock.getLsbD 4 = false ∧ (staged 5 .halted).sec.images = [] ∧
    ((staged 5 .halted).imageFault (fun k => (staged 5 .halted).flash[0 + k]?.getD 0) 3
      (imageHead fun k => (staged 5 .halted).flash[0 + k]?.getD 0)).isSome = true := by
  refine ⟨by decide +kernel, ⟨rfl, by decide +kernel⟩, ⟨rfl, by decide⟩, ?_, by decide +kernel, rfl, by decide, rfl, by decide +kernel⟩
  intro j h1 h2
  match j, h1, h2 with
  | 1, _, _ => rfl
  | 2, _, _ => rfl
  | 3, _, _ => rfl
/-- CATRAIN may run behind GDDR_INIT; the write back of settings lets VERIFY run; a group's PRBS of 2^31 bits. -/
theorem witness_TrainingForms_MayRun : Claims.MayRun (training (.gddr 127) 2 1 0 none) (.gddr 127) ∧
    Claims.MayRun ((training (.gddr 0) 6 1 0 none).setTrain (.gddr 0) { (training (.gddr 0) 6 1 0 none).train (.gddr 0) with wrote := 0x3F })
      (.gddr 0) ∧
    Claims.MayRun ((training (.brix 1) 2 1 0 none).setTrain (.brix 1) { (training (.brix 1) 2 1 0 none).train (.brix 1) with arg := 31 })
      (.brix 1) := by
  refine ⟨⟨by decide, fun _ => by decide, fun h => absurd ⟨127, rfl⟩ h, fun h => absurd ⟨127, rfl⟩ h, fun _ h => (by cases h), fun h => (by cases h),
      .inl (by decide)⟩,
    ⟨by decide, fun _ => by decide, fun h => absurd ⟨0, rfl⟩ h, fun h => absurd ⟨0, rfl⟩ h, fun _ h => (by cases h), fun h => (by cases h),
      .inr ⟨by decide, .inl ⟨⟨0, rfl⟩, by decide, by decide⟩⟩⟩,
    ⟨by decide, fun h => (by obtain ⟨_, h⟩ := h; cases h), fun _ => by decide, fun _ _ => by decide, fun _ h => (by cases h), fun h => (by cases h),
      .inl (by decide)⟩⟩
/-- Register writes of flints 1 and 2 that have left their buffers. -/
theorem witness_RegisterForms_posted :
    (let s : State := { State.reset with posted := [(2, Claims.dieOff 0 0x70108, 1), (1, Claims.dieOff 0 0x60400, 5)] }
     (s.posted.findIdx? fun y => y.1 == 1) = some 1 ∧ s.posted[1]? = some (1, Claims.dieOff 0 0x60400, 5) ∧
     (s.posted.find? fun y => y.1 == 0) ≠ some (0, Claims.dieOff 0 0x60400, 5)) := by decide

/-! ### Witnesses: clauses with hypotheses of their own -/

/-- A form with an untagged destination and one whose result is tagged, in states that they complete in. -/
theorem witness_CapabilityAuthority_exec : (∃ f, Claims.capForm (.candperm 6 1 2) = some f) ∧ Claims.Plain caps ∧
    (match exec (.candperm 6 1 2) caps with | .next t => (Claims.held false t.core 6).tag | _ => false) = true :=
  ⟨⟨_, rfl⟩, ⟨rfl, rfl⟩, by decide +kernel⟩
/-- An out-link with room and a full one; a store that the push empties out. -/
theorem witness_OperandForms_LinkOperands_push :
    (let s := stateOf { coreOf [] with binds := [(16, .link true false)], stores := [waitingStore] }
     alookup (16 : Reg).toNat s.core.binds = some (.link true false) ∧ s.core.link.length < 2 ∧ okay (writeReg 16 (num 3) s) = true) ∧
    2 ≤ (stateOf { coreOf [] with link := [num 1, num 2] }).core.link.length := by decide +kernel

/-- A repetition that captures with CSR WRITE next, with an ADD next, with REPE next; the same with sixteen instructions captured. -/
def capturing (n w : Nat) : State :=
  placed (stateOf { coreOf [] with rep := some ⟨16, 1, 3, List.replicate n ⟨0x100, 0x0021A083, true⟩, true, 0, 0, none⟩ }) w
theorem witness_RepetitionForms_CaptureSteps :
    (Claims.Ready (capturing 0 0x004E6283) ∧ ¬ Claims.inMessage (capturing 0 0x004E6283)) ∧
    Claims.imemInsn (capturing 0 0x00400043) = some 0x00400043 ∧ decodeWord 0x00400043 = .ok .repe ∧
    Claims.bodyRefused 0x004E6283 = false ∧ Claims.bodyRefused 0x01001201 = true ∧ decodeWord 0x004E6283 ≠ .ok .repe ∧
    Claims.imemInsn (capturing 16 0x004E6283) = some 0x004E6283 :=
  ⟨⟨⟨rfl, rfl, rfl, rfl, by decide, .inl (by decide), .inr rfl, fun k h => (by cases h; exact .inr (.inr (by decide)))⟩,
      fun h => (by obtain ⟨_, k, h1, h2⟩ := h; cases h1; exact absurd h2 (by decide))⟩,
    by decide, by decide, by decide, by decide, by decide, by decide⟩
/-- A repetition whose second instruction the sequencer issues next; the same with a word that decodes to nothing. -/
def sequenced (w : Nat) (stop : Option Stored) : State :=
  stateOf { coreOf [] with turn := .body, stream := .body,
                           rep := some { running with body := [⟨0x100, 0x0021A083, true⟩, ⟨0x102, BitVec.ofNat 32 w, true⟩], stop := stop } }
theorem witness_RepetitionForms_BodySteps : Claims.Ready (sequenced 0x004E6283 none) ∧ decodeWord 0x004E6283 = .ok (.sub 5 6 7) ∧
    (∃ e, decodeWord 0x0008629B = .error e) ∧ ((sequenced 0x0008629B none).core.rep.bind fun r => r.body[r.pos]?) = some ⟨0x102, 0x0008629B, true⟩ :=
  ⟨⟨rfl, rfl, rfl, rfl, by decide, .inl (by decide), .inr rfl, fun k h => (by cases h; exact .inr (.inr (by decide)))⟩, by decide, ⟨_, rfl⟩, rfl⟩
/-- The end of an iteration with and without a stored trap; a register in the rotating range and one beside it. -/
theorem witness_RepetitionForms_IterationSteps :
    (let s := sequenced 0x004E6283 (some ⟨8, 3, 0x104, none, none⟩)
     s.core.stream = .body ∧ s.core.csr.km = false ∧ (s.core.rep.any fun r => decide (r.body.length ≤ r.pos + 1) && r.stop.isSome) = true) ∧
    (let s := sequenced 0x004E6283 none
     (s.core.rep.any fun r => r.stop.isNone) = true ∧ s.core.bound 16 = false ∧ (s.core.rep.any fun r => r.base == 16 && decide (0 < r.size)) = true) := by
  decide +kernel

/-- LDs: one whose bytes have been read ahead of it, one of a register by a flint. -/
theorem witness_LoadForms_early :
    (let e : Early := ⟨.control, tcmBase 0 + 0x400, 8, 7, false, false, true, 0⟩
     let s := stateOf { coreOf [(1, tcmCap 0)] with early := [e] }
     (match access (Claims.loadAcc ⟨2, 5, 1, 3, 0, true, false⟩ (tcmCap 0)) s with
       | .ok (.runs [(loc, n)], u) => loc == e.loc && n == e.bytes && u.core.early == [e] && !u.core.bound 1 && decide (u.core.deps[1] ≤ e.tick)
       | _ => false) = true ∧ granted (Claims.loadAcc ⟨2, 5, 1, 3, 0, true, false⟩ (tcmCap 0)) s = true ∧
     (s.core.early.all fun e => e.loc == tcmBase 0 + 0x400 && e.bytes == 8 && e.stream == .control) = true) := by decide +kernel

/-- An access under region 0 of the global region: mapped, unmapped, scrub-pending, across a page; a flint's access of a register. -/
def global (a n : Nat) : Acc :=
  { cap := capAt 0xC200002000002000 (BitVec.ofNat 64 (2 ^ 48 + a)), num := 1, ea := BitVec.ofNat 64 (2 ^ 48 + a), n := n, need := ⟨true, false, false, false⟩,
    align := some 8, window := true, noGlob := none, local_ := false }
theorem witness_AccessChecks_GlobalGrants :
    (let s := mapped (coreOf [])
     Claims.firstFault (global 0x50000 8) s = none ∧ accRange (global 0x50000 8) s = some (.global 0x50000, none) ∧
     (match s.fitting 0 ⟨true, false, false, false⟩ with
       | .ok t => t.partOf t.focus == some 0 && (match Claims.pageOf (global 0x50000 8) 0 0x50000 t with
           | (.ok e, u) => (u.homeOf (e.frame + 0)).isSome && !e.scrub
           | _ => false) && (match Claims.pageOf (global 0x100000 8) 0 0x100000 t with
           | (.error _, _) => true
           | _ => false) && (match Claims.pageOf (global 0x5FFF8 16) 0 0x5FFF8 t with
           | (.ok _, u) => (match Claims.pageOf (global 0x5FFF8 16) 0 0x60000 u with
             | (.ok x, v) => (v.homeOf x.frame).isSome
             | _ => false)
           | _ => false)
       | .error _ => false) = true) ∧
    Claims.firstFault (global 0x5FFF8 16) (mapped (coreOf [])) = none ∧
    (let s := { mapped (coreOf []) with mem := tables.write 0x30028 8 0x50017 }
     (match s.fitting 0 ⟨true, false, false, false⟩ with
       | .ok t => (match Claims.pageOf (global 0x50000 8) 0 0x50000 t with
           | (.ok e, _) => e.scrub
           | _ => false)
       | .error _ => false) = true) := by decide +kernel

/-- Two operations of die 0 in one window, none in an earlier one. -/
def inWindow : State :=
  let op : ScOp := ⟨.control, 2, tcmBase 0 + 0x400, 7, false, some 3, none⟩
  { stateOf { coreOf [] with sc := some op } with others := [(5, { coreOf [] with sc := some op })] }
theorem witness_SequentialForms_SequentialOrder : (inWindow.others.map Prod.fst).Pairwise (· < ·) ∧
    (∀ n ∈ inWindow.coreNos, ∀ v, Claims.scWindow inWindow 0 n = some v → 3 ≤ v) ∧
    (∀ n, n ∈ [0, 5] ↔ n ∈ inWindow.coreNos ∧ Claims.scWindow inWindow 0 n = some 3) := by
  have h : ∀ n ∈ inWindow.coreNos, Claims.scWindow inWindow 0 n = some 3 := by decide +kernel
  have c : ∀ n, n ∈ [0, 5] ↔ n ∈ inWindow.coreNos := by
    have e : inWindow.coreNos = [0, 5] ∨ inWindow.coreNos = [5, 0] := by decide +kernel
    intro n
    rcases e with e | e
    · rw [e]
    · rw [e]; simp [or_comm]
  refine ⟨by decide +kernel, fun n m v e => ?_, fun n => ⟨fun k => ⟨(c n).1 k, h n ((c n).1 k)⟩, fun k => (c n).2 k.1⟩⟩
  rw [h n m] at e; cases e; exact Nat.le_refl 3
/-- A store in flight behind an older one of the same bytes. -/
theorem witness_StoreOrder_FlightOrder :
    (let s := { storing with flight := [⟨0, waitingStore⟩, ⟨0, waitingStore⟩] }
     s.flight[1]? = some ⟨0, waitingStore⟩ ∧ Claims.mustPrecede s waitingStore waitingStore = true) ∧
    (storing.getCore 0).stores = [waitingStore] := by decide +kernel

/-- END of a task with nothing held, with a send in the die, with one to another module. -/
theorem witness_TaskEnds_reach : Claims.endReach (stateOf (coreOf [])) = 0 ∧ Claims.endReach (stateOf { coreOf [] with sendBuf := [heldSend] }) = 1 ∧
    Claims.endReach (stateOf { coreOf [] with sendBuf := [{ heldSend with copies := [⟨9, 5, 0, .ready⟩] }] }) = 3 := by decide +kernel
/-- A task of the FREE placement on its way from core 0 to core 1, taken and refused. -/
def moving (p : CopyPhase) : State :=
  let m : Msg := { message 0 with free := true }
  let c := { Core.reset with out := false, inbox := Core.reset.inbox.set 5 (some m),
                             ni := [⟨0, true, .msg m, [⟨0, 1, 0, p⟩], some 5⟩] }
  withPanel ((stateOf (c.enqueue 1 (.slot 5) 0)).setCore 1 { Core.reset with out := false })
theorem witness_NetworkSteps_moved :
    (match (moving .ready).outgoing (.ni 0) 0 0 with
      | some o => o.entry.back == some 5 && o.copy.phase == .ready && o.copy.dmod == (moving .ready).modnum &&
        !o.behind ((moving .ready).sendsBeside (.ni 0)) && Claims.hKind o.msg.hdr == 0 && o.copy.dcore.toNat == 1 &&
        (moving .ready).inSet (Claims.envPart o.msg) 0
      | none => false) = true ∧
    ((moving .ready).occupant 0 = some 0 ∧ ((moving .ready).getCore 1).out = false ∧ ((moving .ready).die 0).cmds = [] ∧
      ((moving .ready).part 0).dying = false ∧ ((moving .ready).getCore 1).inbox.toList.findIdx? Option.isNone = some 0) ∧
    ((moving (.nacked .full)).outgoing (.ni 0) 0 0).any (fun o => o.entry.back == some 5 && o.copy.phase == .nacked .full) = true ∧
    (Claims.onItsWay (moving .ready).core ⟨.slot 5, 0⟩ = true ∧ ((moving .ready).core.queues[1]?.getD [])[0]? = some ⟨.slot 5, 0⟩) := by
  decide +kernel
/-- A core that has heard from one neighbour; a command of a panel under a slice that ends; the next entry of a rotation. -/
theorem witness_NetworkSteps_balancing : (let s := stateOf { Core.reset with out := false, reported := [(1, 0)] }
    s.partOf s.focus = some 0 ∧ s.core.task = none ∧ s.core.csr.km = false ∧ (s.neighbours s.focus).count 1 = 1 ∧
    ((Claims.queuedItems s.core).map QItem.what).Nodup) := by decide +kernel
/-- R369: a group of partitions 0 and 1 whose switch has begun; a group one of whose panels has a command at work. -/
theorem witness_ContextForms_rotation :
    (let g : Group := { Die.zero.groups[0] with en := true, switching := true, ents := (Die.zero.groups[0].ents.set 0 (true, 0)).set 2 (true, 1) }
     let s := { ringOf [0] 1 with
       dies := State.reset.dies.set 0 { ringDie with groups := ringDie.groups.set 0 g }
       parts := [(0, part1), (1, { part1 with psbase := 0x81000 })] }
     ((s.die 0).groups)[0]? = some g ∧ g.ents[(g.cur.toNat + 2) % 8]? = some (true, 1) ∧ g.ents[(g.cur.toNat + 1) % 8]? = some (false, 0) ∧
     s.saveReady 0 ((s.groupPanels g).filter fun n => s.occupant n == some 0) = true ∧ (s.part 1).en = true ∧ (s.part 1).dying = false) ∧
    (let g : Group := { Die.zero.groups[0] with en := true, gsbase := 0x80000 }
     let s := { ringOf [0] 1 with dies := State.reset.dies.set 0 { ringDie with groups := ringDie.groups.set 0 g, cmds := [⟨0, .remove, 0, true, false, 0⟩] } }
     (s.groupPanels g).contains 0 = true ∧ (s.die 0).cmds = [⟨0, .remove, 0, true, false, 0⟩]) := by decide +kernel
/-- What core 0 of the saving partition holds fits its save area. -/
theorem witness_ContextForms_Holdable : Claims.Holdable saving 0 0 := by
  have slot : ∀ (k : Nat) (m : Msg), (saving.getCore 0).inbox[k]? = some (some m) → k = 3 ∧ m = message 0 := by
    intro k m h
    have e : (saving.getCore 0).inbox = (Vector.replicate 32 none).set 3 (some (message 0)) := rfl
    rw [e, Vector.getElem?_set] at h
    by_cases hk : 3 = k
    · rw [if_pos hk] at h; exact ⟨hk.symm, by simpa using h.symm⟩
    · rw [if_neg hk, Vector.getElem?_replicate] at h
      split at h <;> simp at h
  have work : ∀ q, q < 4 → ∀ x ∈ (saving.getCore 0).queues[q]?.getD [], x = ⟨.slot 3, 0⟩ := by decide +kernel
  refine ⟨fun k m h => ?_, fun k h => ?_, rfl, ?_, by decide +kernel, by decide +kernel, ?_, by decide +kernel, by decide +kernel, ?_, ?_⟩
  · obtain ⟨rfl, rfl⟩ := slot k m h
    exact ⟨⟨by decide +kernel, by decide +kernel, fun h => absurd rfl h, rfl, rfl, by decide +kernel⟩, .inl ⟨1, by decide +kernel, ⟨.slot 3, 0⟩, by decide +kernel, rfl⟩⟩
  · obtain ⟨q, hq, x, hx, e⟩ := h
    rw [work q hq x hx] at e; cases e
    exact ⟨message 0, rfl⟩
  · intro q hq x hx
    rw [work q hq x hx]; exact ⟨by decide +kernel, by decide +kernel, by decide +kernel⟩
  · intro e he x hx
    have : ∀ e ∈ (saving.getCore 0).evq.toList, e = none := by decide +kernel
    rw [this e he] at hx; cases hx
  · have : ((saving.getCore 0).handlers.toList.all fun h => h &&& 0x1FFFFF00F000 == 0) = true := by decide +kernel
    rw [List.all_eq_true] at this; exact fun h hh => by simpa using this h hh
  · intro h hh hv
    have : ((saving.getCore 0).handlers.toList.all fun h => !h.getLsbD 63) = true := by decide +kernel
    rw [List.all_eq_true] at this; have := this h hh; rw [hv] at this; cases this

end Sys2Proof.Tests
end

section
/-! PROOF. O28: a store that performs at its home, for a partition whose dirty masks are collected, also sets the bit of its sector
in the dirty-mask table (R371), so memory after it is not memory with that store alone. -/

namespace Sys2Proof.StoreOrder

open Sys2Proof.Machine Sys2Proof.Claims

/-! ### A lone store in flight -/

/-- What the drain step of a store in flight answers. -/
theorem exec_perform (k : Nat) (s : State) : exec (.storeBufferDrain (.perform k)) s = .next (s.flightLands k) := rfl

/-- The claim, of a store that is alone in flight: its performing changes memory by that store and nothing else. -/
theorem mem_flightLands_of_flightOrder (h : FlightOrder) {s : State} {f : Flight} (hf : s.flight = [f]) :
    (s.flightLands 0).mem = s.mem.perform f.store := by
  obtain ⟨t, gone, hstep, hsub, hlast, _, _, _, hmem⟩ := h s 0 f (by rw [hf]; rfl)
  have hgone : gone = [f] := by
    rw [hf] at hsub
    rcases List.sublist_singleton.mp hsub with rfl | e
    · cases hlast
    · exact e
  have ht : s.flightLands 0 = t := by
    rw [exec_perform] at hstep
    exact Host.Outcome.next.inj hstep
  rw [ht, hmem, hgone]
  rfl

/-! ### The counterexample -/

/-- A write-through store of a doubleword (STNA) into the SRAM of die 1. -/
def remoteStore : StoreEntry := ⟨2 ^ 31 + 0x2000, 8, 7, false, false, false, none⟩

/-- Partition 0, running, with its dirty masks collected at DMBASE 0x1000000, in the SRAM of die 0 (R371). -/
def collectingPart : Part := { Part.zero with en := true, dmen := true, dmbase := 0x1000000 }

/-- The module with every rail up, panel 0 under that partition, and a store of core 0 alone in flight. -/
def collecting : State :=
  { State.reset with
    rails := Vector.replicate 9 ⟨true, false, 0, true⟩
    parts := [(0, collectingPart)]
    dies := State.reset.dies.set 0 { Die.zero with occ := [(0, 0)] }
    flight := [⟨0, remoteStore⟩] }

/-- The byte of the dirty-mask table with the bit of the store's sector: bit 64 of the entry of its frame (R371). -/
def maskByte : Nat := 0x1000000 + 64 * (remoteStore.loc / 2 ^ 16) + remoteStore.loc % 2 ^ 16 / 128 / 8

/-- The counterexample meets the invariant of the model: nothing in it is malformed. -/
theorem collecting_inv : Inv collecting where
  memory := rfl
  cores := List.Pairwise.nil
  focus := List.not_mem_nil
  holder := List.nodup_nil
  occupant := by unfold OneOccupant; decide +kernel

/-- The store alone leaves the mask as it was. -/
theorem maskByte_after_store : (collecting.mem.perform remoteStore).byte maskByte = 0 := by decide +kernel

/-- As the store performs, the bit of its sector is set (R371). -/
theorem maskByte_after_landing : (collecting.flightLands 0).mem.byte maskByte = 1 := by decide +kernel

/-- Within the invariant a store alone in flight may change memory by more than what it writes. -/
theorem exists_landing_beyond_store :
    ∃ (s : State) (f : Flight), Inv s ∧ s.flight = [f] ∧ (s.flightLands 0).mem ≠ s.mem.perform f.store := by
  refine ⟨collecting, ⟨0, remoteStore⟩, collecting_inv, rfl, fun e => ?_⟩
  have hbyte := maskByte_after_landing
  rw [e, maskByte_after_store] at hbyte
  exact absurd hbyte (by decide)

/-- R371 against the last clause of the claim: memory after the step is not memory with the stores of `gone` performed. -/
theorem not_flightOrder : ¬ FlightOrder := by
  intro h
  obtain ⟨s, f, _, hflight, hmem⟩ := exists_landing_beyond_store
  exact hmem (mem_flightLands_of_flightOrder h hflight)

end Sys2Proof.StoreOrder

/-- Refutes O28: in the state `collecting` the partition of core 0 has DMEN 1, and a drain step performs core 0's store to the SRAM of
die 1; the step also sets the sector's bit in the dirty-mask table (R371), which `FlightOrder` leaves no room for. -/
theorem not_storeOrder : ¬ Obligations.StoreOrder := by
  unfold Obligations.StoreOrder
  intro ⟨_, _, hflight, _⟩
  exact Sys2Proof.StoreOrder.not_flightOrder hflight
end

section
/-! PROOF. O57, O59: the module right after reset. -/

namespace Sys2Proof.Resets
open Sys2Proof.Machine Sys2Proof.Claims

/-- Every core right after reset holds its reset state: die 0's flint is in focus and no other core has been written. -/
theorem getCore_reset {n : Nat} (h : n < 1048576) : State.reset.getCore n = Core.reset := by
  have hfocus : n ≠ State.reset.focus := fun e => by
    rw [e] at h
    exact absurd h (by decide)
  simp only [State.getCore, if_neg hfocus]
  show coreAtReset n = Core.reset
  exact if_pos h

/-- Every counter of a core at reset holds its reset values (R42). -/
theorem counter_reset (k : Nat) : Core.reset.counter k = Counter.zero := by
  show ((Vector.replicate 64 Counter.zero)[k]?).getD Counter.zero = Counter.zero
  rw [Vector.getElem?_replicate]
  split <;> rfl

/-- Of the rails, only AON is enabled at reset (R354). -/
theorem rail_reset (n : Fin 9) (h : n ≠ 0) : State.reset.rails[n] = ⟨false, false, 0, false⟩ := by
  revert n
  decide

/-- No memory byte, line, core or occupant is listed right after reset. -/
theorem reset_inv : Inv State.reset where
  memory := Memory.empty_wf
  cores := List.Pairwise.nil
  focus := List.not_mem_nil
  holder := List.nodup_nil
  occupant := by
    intro x hx
    have hzero : x = Die.zero := by
      have hm : x ∈ (Vector.replicate 4 Die.zero).toList := hx
      rw [Vector.toList_replicate] at hm
      exact List.eq_of_mem_replicate hm
    rw [hzero]
    exact List.Pairwise.nil

end Sys2Proof.Resets

open Sys2Proof.Resets in
/-- Settles O57: field by field; a core that nothing has written is `Core.reset` (log 2). -/
theorem resetState : Obligations.ResetState := by
  unfold Obligations.ResetState
  refine ⟨rfl, rfl, rfl, rfl, fun n hn => ?_, fun _ => rfl, fun _ => rfl, fun d => ?_, rfl, rail_reset,
    rfl, rfl, rfl, rfl, rfl, rfl, rfl, rfl, rfl, rfl, rfl⟩
  · rw [getCore_reset hn]
    exact ⟨rfl, rfl, rfl, rfl, rfl, rfl, rfl, counter_reset, rfl, rfl, rfl, rfl, rfl, rfl, rfl, rfl⟩
  · exact Vector.getElem_replicate _

open Sys2Proof.Resets in
/-- Settles O59: right after reset every list that the invariant speaks of is empty. -/
theorem resetHoldsInv : Obligations.ResetHoldsInv := by
  unfold Obligations.ResetHoldsInv
  exact reset_inv
end

section
/-! PROOF. O27: the agents of the memory system. What a drain step, a directory slice, an eviction and a host access come to, said
first of the shared operations (a store that performs, stores in flight that land, a line's holder), then of each claim. -/

namespace Sys2Proof.Agents
open Sys2Proof.Machine Sys2Proof.Claims

/-! ### The holder of a line (R17) -/

/-- The line that the lookup finds names the holder. -/
theorem holder_of_find {s : State} {k : Nat} {l : Line} (h : s.lines.find? (fun x => x.line == k / 32 * 32) = some l) :
    s.holder (lineOf k) = some l.holder := by
  simp only [State.holder, lineOf, h, Option.map_some]

/-- A line that no cache lists has no holder. -/
theorem holder_none {s : State} {k : Nat} (h : s.lines.all (fun l => l.line != k / 32 * 32) = true) :
    s.holder (lineOf k) = none := by
  simp only [State.holder, lineOf, Option.map_eq_none_iff, List.find?_eq_none]
  intro l hl
  have hne := List.all_eq_true.mp h l hl
  simpa using hne

/-- The line of a line's first byte is that line. -/
theorem lineOf_lineOf (k : Nat) : lineOf (lineOf k) = lineOf k := by
  unfold lineOf
  omega

/-- A holder is the holder of a listed line. -/
theorem exists_line_of_holder {s : State} {k n : Nat} (h : s.holder (lineOf k) = some n) :
    ∃ l, s.lines.find? (fun x => x.line == k / 32 * 32) = some l ∧ l.holder = n := by
  simpa [State.holder, lineOf, Option.map_eq_some_iff] using h

/-! ### A store performs (R18, R80) -/

/-- A location that is no MPA is in no line: touching it changes nothing. -/
theorem touchLine_of_not_mpa {s : State} {n loc : Nat} {alloc : Bool} (h : isMpa loc = false) : s.touchLine n loc alloc = s := by
  simp [State.touchLine, h]

/-- A line that a cache holds stays there. -/
theorem touchLine_of_held {s : State} {n loc m : Nat} {alloc : Bool} (h : s.holder (lineOf loc) = some m) :
    s.touchLine n loc alloc = s := by
  simp [State.touchLine, h]

/-- A write to what is no MPA leaves the lines and the homes. -/
theorem written_of_not_mpa {s : State} {p : Option Nat} {loc : Nat} (h : isMpa loc = false) : s.written p loc = s := by
  simp [State.written, h]

/-- A write to a held line makes it dirty. -/
theorem written_of_held {s : State} {p : Option Nat} {loc m : Nat} (h : isMpa loc = true) (hh : s.holder (lineOf loc) = some m) :
    s.written p loc = { s with lines := s.lines.map fun l => if l.line == lineOf loc then { l with dirty := true } else l } := by
  simp [State.written, h, hh]

/-- A store to what is no MPA changes memory and nothing else. -/
theorem perform_of_not_mpa {s : State} {n : Nat} {e : StoreEntry} (h : isMpa e.loc = false) :
    s.perform n e = { s with mem := s.mem.perform e } := by
  rw [State.perform, touchLine_of_not_mpa h, written_of_not_mpa h]

/-- A store to a held line performs in the holder's cache. -/
theorem perform_of_held {s : State} {n m : Nat} {e : StoreEntry} (h : isMpa e.loc = true) (hh : s.holder (lineOf e.loc) = some m) :
    s.perform n e = { s with
      mem := s.mem.perform e,
      lines := s.lines.map fun l => if l.line == lineOf e.loc then { l with dirty := true } else l } := by
  rw [State.perform, touchLine_of_held hh]
  exact written_of_held (s := { s with mem := s.mem.perform e }) h hh

/-- The line that a store has dirtied is listed as dirty. -/
theorem dirty_mem_of_find {ls : List Line} {k : Nat} {l : Line} (h : ls.find? (fun x => x.line == k / 32 * 32) = some l) :
    { l with dirty := true } ∈ ls.map fun x => if x.line == lineOf k then { x with dirty := true } else x := by
  have hline := List.find?_some h
  exact List.mem_map.mpr ⟨l, List.mem_of_find?_eq_some h, if_pos hline⟩

/-! ### Stores in flight (R67, R88) -/

/-- Where a test names no store in flight, none performs. -/
theorem landing_none {s : State} {which : Nat → Flight → Bool} : ∀ (l : List Flight) (i : Nat),
    (∀ j, ∀ f ∈ l, which j f = false) → s.landing which i l = l.map fun f => (f, false)
  | [], _, _ => rfl
  | f :: r, i, h => by
    have hrest := landing_none (s := s) r (i + 1) fun j g hg => h j g (List.mem_cons_of_mem _ hg)
    simp [State.landing, hrest, h i f List.mem_cons_self]

/-- The oldest store in flight is marked alone where a test names it alone. -/
theorem landing_first {s : State} (f : Flight) (r : List Flight) :
    s.landing (fun k _ => k == 0) 0 (f :: r) = (f, true) :: r.map fun g => (g, false) := by
  have hrest : ∀ (l : List Flight) (i : Nat), s.landing (fun k _ => k == 0) (i + 1) l = l.map fun g => (g, false) := by
    intro l
    induction l with
    | nil => intro i; rfl
    | cons g l ih => intro i; simp [State.landing, ih (i + 1)]
  simp [State.landing, hrest r 0]

/-- Where a test names no store in flight, landing leaves the state. -/
theorem land_none {s : State} {which : Flight → Bool} (h : ∀ f ∈ s.flight, which f = false) : s.land which = s := by
  simp [State.land, State.landAt, landing_none s.flight 0 fun _ f hf => h f hf, List.filter_map, Function.comp_def]

/-- The oldest store in flight lands. -/
theorem flightLands_zero {s : State} {f : Flight} {r : List Flight} (h : s.flight = f :: r) :
    s.flightLands 0 = { s with flight := r }.perform f.core f.store := by
  simp [State.flightLands, State.landAt, h, landing_first, List.filter_map, Function.comp_def]

/-! ### A store leaves its buffer (R80, R343) -/

/-- The core in focus with its oldest store gone. -/
def dropped (s : State) (r : List StoreEntry) : State := { s with core := { s.core with stores := r } }

/-- A location below the register windows names no register. -/
theorem regAt_of_lt {loc : Nat} (h : loc < 2 ^ 60) : Machine.regAt loc = none := if_neg (by omega)

/-- An MPA lies below the register windows. -/
theorem lt_of_isMpa {loc : Nat} (h : isMpa loc = true) : loc < 2 ^ 60 := by
  have : loc < 2 ^ 48 := by simpa [isMpa] using h
  omega

/-- A location that is local to some die lies below the register windows. -/
theorem lt_of_near {s : State} {loc : Nat} (h : Near s loc) : loc < 2 ^ 60 := by
  by_contra hge
  have hmpa : isMpa loc = false := by simp [isMpa]; omega
  have htcm : tcmCore loc = none := if_neg (by omega)
  have hspad : spadPanel loc = none := if_neg (by omega)
  have hnone : localDie loc = none := by simp only [localDie, hmpa, htcm, hspad, if_neg hge]; rfl
  rw [Near, hnone] at h
  cases h

/-- A store that performs as it leaves: those of its core that it must follow land, then it performs. -/
theorem leave_atOnce {s : State} {e : StoreEntry} {r : List StoreEntry} (h : s.core.stores = e :: r) (hreg : Machine.regAt e.loc = none)
    (hnow : (dropped s r).atOnce s.focus e = true) :
    s.leave s.focus = ((dropped s r).land fun f => f.core == s.focus && (dropped s r).flightBefore f.store e).perform s.focus e := by
  have hcore : (s.getCore s.focus).stores = e :: r := by simpa [State.getCore] using h
  have hmod : (s.modCore s.focus fun c => { c with stores := r }) = dropped s r := by
    simp [State.modCore, State.setCore, State.getCore, dropped]
  simp only [State.leave, hcore, hmod, hreg, hnow, if_true]

/-- Any other store, but for a register write, travels. -/
theorem leave_travels {s : State} {e : StoreEntry} {r : List StoreEntry} (h : s.core.stores = e :: r) (hreg : Machine.regAt e.loc = none)
    (hnow : (dropped s r).atOnce s.focus e = false) :
    s.leave s.focus = { dropped s r with flight := s.flight ++ [⟨s.focus, e⟩] } := by
  have hcore : (s.getCore s.focus).stores = e :: r := by simpa [State.getCore] using h
  have hmod : (s.modCore s.focus fun c => { c with stores := r }) = dropped s r := by
    simp [State.modCore, State.setCore, State.getCore, dropped]
  simp only [State.leave, hcore, hmod, hreg, hnow, Bool.false_eq_true, if_false]
  rfl

/-- A register write goes to the register windows. -/
theorem leave_posts {s : State} {e : StoreEntry} {r : List StoreEntry} {x : Nat × Nat} (h : s.core.stores = e :: r)
    (hreg : Machine.regAt e.loc = some x) :
    s.leave s.focus = { dropped s r with posted := s.posted ++ [(x.1, x.2, e.value.setWidth 64)] } := by
  have hcore : (s.getCore s.focus).stores = e :: r := by simpa [State.getCore] using h
  have hmod : (s.modCore s.focus fun c => { c with stores := r }) = dropped s r := by
    simp [State.modCore, State.setCore, State.getCore, dropped]
  simp only [State.leave, hcore, hmod, hreg]
  rfl

/-- The order that a claim gives two stores is the model's. -/
theorem flightBefore_eq (s : State) (a b : StoreEntry) : s.flightBefore a b = mustPrecede s a b := by
  unfold State.flightBefore mustPrecede StoreEntry.touches
  have hheld : (s.holder (lineOf a.loc)).isSome = s.lines.any (fun l => l.line == a.loc / 32 * 32) := by
    rw [Bool.eq_iff_iff]
    simp [State.holder, lineOf]
  cases b.rel with
  | none => rfl
  | some scope => cases scope <;> simp [State.inScope, State.servedHere, isHost, hheld]

/-- What performs as it leaves, in the terms of the claim. -/
theorem atOnce_iff {s : State} {e : StoreEntry} : s.atOnce s.focus e = true ↔ AtOnce s e := by
  simp [State.atOnce, AtOnce, Near, State.holder, lineOf, Option.map_eq_some_iff]

/-! ### The claims -/

theorem exec_leave (n : Nat) (s : State) : exec (.storeBufferDrain (.leave n)) s = .next (s.leave n) := rfl

/-- A die-local store that follows no store in flight performs as it leaves (R80). -/
theorem leave_near {s : State} {e : StoreEntry} {r : List StoreEntry} (h : s.core.stores = e :: r) (hmpa : isMpa e.loc = false)
    (hnear : Near s e.loc) (hfree : ∀ f ∈ s.flight, f.core = s.focus → mustPrecede s f.store e = false) :
    s.leave s.focus = { s with core := { s.core with stores := r }, mem := s.mem.perform e } := by
  have hnow : (dropped s r).atOnce s.focus e = true := atOnce_iff.mpr (Or.inl hnear)
  have hland : ∀ f ∈ (dropped s r).flight, (f.core == s.focus && (dropped s r).flightBefore f.store e) = false := by
    intro f hf
    rw [flightBefore_eq, Bool.and_eq_false_imp]
    exact fun hcore => hfree f hf (beq_iff_eq.mp hcore)
  rw [leave_atOnce h (regAt_of_lt (lt_of_near hnear)) hnow, land_none hland, perform_of_not_mpa hmpa]
  rfl

/-- With nothing in flight, a store to a line that its own core holds performs there as it leaves (R18). -/
theorem leave_held {s : State} {e : StoreEntry} {r : List StoreEntry} {l : Line} (h : s.core.stores = e :: r)
    (hfind : s.lines.find? (fun x => x.line == e.loc / 32 * 32) = some l) (hmpa : isMpa e.loc = true)
    (hown : l.holder = s.focus) (hflight : s.flight = []) :
    s.leave s.focus = { dropped s r with
      mem := s.mem.perform e,
      lines := s.lines.map fun x => if x.line == lineOf e.loc then { x with dirty := true } else x } := by
  have hnow : (dropped s r).atOnce s.focus e = true := atOnce_iff.mpr (Or.inr ⟨hmpa, l, hfind, hown⟩)
  have hland : ∀ f ∈ (dropped s r).flight, (f.core == s.focus && (dropped s r).flightBefore f.store e) = false := by
    intro f hf
    have hnil : (dropped s r).flight = [] := hflight
    rw [hnil] at hf
    cases hf
  rw [leave_atOnce h (regAt_of_lt (lt_of_isMpa hmpa)) hnow, land_none hland,
    perform_of_held hmpa (holder_of_find (s := dropped s r) hfind)]
  rfl

/-- A location of the register windows names its flint and its offset (R343). -/
theorem regAt_eq {loc d off : Nat} (h : loc = 2 ^ 60 + d * 2 ^ 32 + off) (hoff : off < 2 ^ 32) :
    Machine.regAt loc = some (d, off) := by
  have hq : (loc - 2 ^ 60) / 2 ^ 32 = d := by omega
  have hr : (loc - 2 ^ 60) % 2 ^ 32 = off := by omega
  rw [Machine.regAt, if_pos (by omega), hq, hr]

/-- A store in flight to a held line is served by its holder (R18). -/
theorem remoteWord_held {s : State} {f : Flight} {r : List Flight} {l : Line} (h : s.flight = f :: r)
    (hmpa : isMpa f.store.loc = true) (hfind : s.lines.find? (fun x => x.line == f.store.loc / 32 * 32) = some l) :
    s.remoteWord 0 = { s with
      flight := r, mem := s.mem.perform f.store,
      lines := s.lines.map fun x => if x.line == lineOf f.store.loc then { x with dirty := true } else x } := by
  have hzero : s.flight[0]? = some f := by rw [h]; rfl
  have hheld := holder_of_find hfind
  simp only [State.remoteWord, hzero, hmpa, hheld, Option.isSome_some, Bool.and_self, if_true]
  rw [flightLands_zero h, perform_of_held hmpa (holder_of_find (s := { s with flight := r }) hfind)]

/-- A memory-side cache's bookkeeping leaves the lines of the data caches. -/
theorem mscTouch_lines (s : State) (p : Option Nat) (loc : Nat) (w : Bool) : (s.mscTouch p loc w).lines = s.lines := by
  unfold State.mscTouch
  split
  · dsimp only
    split
    · rfl
    · split
      · rfl
      · split <;> rfl
  · rfl

/-- A line that is filled is listed, clean. -/
theorem mem_lines_fill (s : State) (n line : Nat) : ⟨line, n, false⟩ ∈ (s.fill n line).lines := by
  simp [State.fill]

/-- A location with a home is an MPA. -/
theorem isMpa_of_homeOf {s : State} {a : Nat} (h : (s.homeOf a).isSome = true) : isMpa a = true := by
  by_contra hno
  have hge : 2 ^ 48 ≤ a := by simpa [isMpa] using hno
  have hraw : rawHome a = none := by
    rw [rawHome, if_neg (by omega), if_neg (by omega), if_neg (by omega)]
  simp [State.homeOf, hraw] at h

/-- A slice fills a line that no cache holds, or serves it at the home (R17, R18). -/
theorem sliceRequest_unheld {s : State} {n k : Nat} {fill : Bool} (hhome : (s.homeOf (k / 32 * 32)).isSome = true)
    (hfree : s.lines.all (fun l => l.line != k / 32 * 32) = true) :
    s.sliceRequest n k fill =
      if fill then (s.mscTouch (s.partOf n) (lineOf k) false).fill n (lineOf k) else s.mscTouch (s.partOf n) (lineOf k) false := by
  have hhome' : (s.homeOf (lineOf k)).isSome = true := hhome
  have hnone := holder_none hfree
  simp [State.sliceRequest, State.touchLine, hhome', isMpa_of_homeOf hhome', lineOf_lineOf, hnone]

/-- A line leaves its cache: it is listed no more, and a dirty one is written back (R19). -/
theorem release_of_find {s : State} {k : Nat} {l : Line} (hline : l.line = k / 32 * 32)
    (hfind : s.lines.find? (fun x => x.line == k / 32 * 32) = some l) :
    s.release (lineOf k) =
      if l.dirty then { s with lines := s.lines.filter fun x => !(x.line == l.line) }.homeWrite (s.partOf l.holder) l.line
      else { s with lines := s.lines.filter fun x => !(x.line == l.line) } := by
  have hfind' : s.lines.find? (fun x => x.line == lineOf k) = some l := hfind
  have hline' : lineOf k = l.line := hline.symm
  simp only [State.release, hfind']
  rw [hline']

/-- CLFL of a core that runs no CODE message, past its checks (R261). -/
theorem exec_clfl {s t u : State} {a : Reg} {cap : Val} {m n : Nat} (hcode : ¬ inMessage s) (hread : readReg a s = .ok (cap, t))
    (hacc : access { loadAcc ⟨2, 0, a, 0, 0, true, false⟩ cap with ea := lo cap } t = .ok (.runs [(m, n)], u)) :
    exec (.clfl a) s = .next ((paid (lo cap)
      (if isMpa m = true ∧ u.holder (lineOf m) = some u.focus then u.release (lineOf m) else u)).complete 2 .seq) := by
  have hdeny : denyCode s = .ok ((), s) := by
    have hin : s.core.inCode = false := by
      by_contra h
      refine hcode ?_
      have h' : s.core.inCode = true := by simpa using h
      simp only [Core.inCode, Core.km, Bool.and_eq_true, Bool.not_eq_true'] at h'
      obtain ⟨hkm, htask⟩ := h'
      split at htask
      · next k hk => exact ⟨hkm, k, hk, htask⟩
      · cases htask
    rw [denyCode, bind_ok (getC_eq s), check_true (by simp [hin])]
  have hacc' : access (plainAcc cap a cap.low 1 needLd) t = .ok (.runs [(m, n)], u) := hacc
  have hcharge (v : State) : chargeGmem cap.low v = .ok ((), paid (lo cap) v) := by
    have hglobal : isGlobal cap.low.toNat = true ↔ 2 ^ 48 ≤ (lo cap).toNat ∧ (lo cap).toNat < 2 ^ 49 := by
      simp only [isGlobal, Bool.and_eq_true, decide_eq_true_eq]
      exact Iff.rfl
    unfold chargeGmem paid
    by_cases h : isGlobal cap.low.toNat = true
    · rw [if_pos h, if_pos (hglobal.mp h)]
      rfl
    · rw [if_neg h, if_neg (mt hglobal.mpr h)]
      rfl
  refine finish_ok ?_
  rw [clflEx, bind_ok hdeny, bind_ok hread, bind_ok hacc']
  cases hm : isMpa m with
  | false =>
    simp only [hm, Bool.false_eq_true, if_false, false_and]
    rw [bind_ok (hcharge u), Ex.pure_eq]
  | true =>
    simp only [hm, if_true, true_and]
    rw [bind_ok (modS_eq _ u), bind_ok (hcharge _), Ex.pure_eq]

/-- What a host access answers (R199): what stood there, but to a plain write. -/
def hostAnswer (s : State) (mpa n : Nat) : HostOp → Option Val
  | .write _ => s.hostIn
  | _ => some ⟨BitVec.ofNat 128 (s.mem.read mpa n), false, s.mem.anyPoison mpa n⟩

/-- A host access of a location with a home, aligned and of a width that it may have, is served there (R91). -/
theorem hostAccessed_served {s : State} {mpa n : Nat} {op : HostOp} (hhome : (s.homeOf mpa).isSome = true) (halign : mpa % n = 0)
    (hwidth : hostWidthOk op n = true) :
    s.hostAccessed mpa n op =
      match hostWrites op (s.mem.read mpa n) with
      | none => { s with hostIn := hostAnswer s mpa n op }
      | some v => { s with
          hostIn := hostAnswer s mpa n op,
          mem := s.mem.store mpa n (v % 2 ^ (8 * n)) (match op with | .write _ => false | _ => s.mem.anyPoison mpa n) false
        }.written none mpa := by
  have hnone : (s.homeOf mpa).isNone = false := by simpa using hhome
  have hguard : ¬ ((s.homeOf mpa).isNone || mpa % n != 0 || !hostWidthOk op n) = true := by simp [hnone, halign, hwidth]
  rw [State.hostAccessed, if_neg hguard]
  cases op <;> rfl

/-- An answer that fails with a cause of the remote part, and every value, is one that a module gives (R222). -/
theorem soundAnswer_iff (a : RReadAnswer) : soundAnswer a = true ↔ ∀ c, a = .fails c → c ∈ [5, 6, 7, 25] := by
  cases a with
  | value v p => simp [soundAnswer]
  | fails c =>
    have hcauses : remoteCauses = [5, 6, 7, 25] := rfl
    simp [soundAnswer, hcauses]

end Sys2Proof.Agents

open Sys2Proof.Machine Sys2Proof.Claims Sys2Proof.Agents in
/-- Settles O27: each claim from what the shared operation behind it comes to. -/
theorem memoryAgents : Obligations.MemoryAgents := by
  unfold Obligations.MemoryAgents
  intro s gone held
  refine ⟨?_, ?_, ?_, ?_, ?_, ?_, ?_, ?_, ?_, ?_, ?_, ?_, ?_⟩
  · intro e r h hmpa hnear hfree
    rw [exec_leave, leave_near h hmpa hnear hfree]
  · intro e r l h hheld hmpa hown hflight
    refine ⟨_, congrArg Host.Outcome.next (leave_held h hheld.2 hmpa hown hflight), rfl, hflight, rfl, dirty_mem_of_find hheld.2⟩
  · intro e r h hlt hnow
    have hlater : (dropped s r).atOnce s.focus e = false := by
      rw [Bool.eq_false_iff]
      exact fun hyes => hnow (atOnce_iff (s := dropped s r).mp hyes)
    rw [exec_leave, leave_travels h (regAt_of_lt hlt) hlater]
    rfl
  · intro e r d off h hloc hoff
    rw [exec_leave, leave_posts h (regAt_eq hloc hoff)]
    rfl
  · intro f r h hmpa
    rw [Sys2Proof.StoreOrder.exec_perform, flightLands_zero h, perform_of_not_mpa hmpa]
  · intro f r l h hmpa hheld
    exact ⟨_, congrArg Host.Outcome.next (remoteWord_held h hmpa hheld.2), rfl, rfl, dirty_mem_of_find hheld.2⟩
  · intro n k fill hhome hfree
    refine ⟨_, congrArg Host.Outcome.next (sliceRequest_unheld hhome hfree), ?_⟩
    cases fill with
    | true => exact mem_lines_fill _ _ _
    | false => exact mscTouch_lines _ _ _ _
  · intro k l hheld
    have hown : s.holder (lineOf k) = some l.holder := holder_of_find hheld.2
    show Host.Outcome.next (s.evict l.holder k) = _
    rw [State.evict, if_pos hown, release_of_find hheld.1 hheld.2]
  · intro a cap t u m n hcode hread hacc
    rw [exec_clfl hcode hread hacc]
    refine ⟨fun l hmpa hheld hown => ?_, fun hfree => ?_⟩
    · have hholder : u.holder (lineOf m) = some u.focus := by rw [holder_of_find hheld.2, hown]
      rw [if_pos ⟨hmpa, hholder⟩, release_of_find hheld.1 hheld.2]
    · rw [if_neg]
      rintro ⟨hmpa, hholder⟩
      obtain ⟨l, hfind, hown⟩ := exists_line_of_holder hholder
      rcases hfree with hno | hne
      · rw [hno] at hmpa
        cases hmpa
      · have hline : l.line = m / 32 * 32 := by simpa using List.find?_some hfind
        exact hne l (List.mem_of_find?_eq_some hfind) hline hown
  · intro fn mpa n hhome halign
    show Host.Outcome.next (s.hostAccessed mpa n .read) = _
    rw [hostAccessed_served hhome halign rfl]
    rfl
  · intro fn mpa n v hhome halign
    show Host.Outcome.next (s.hostAccessed mpa n (.write v)) = _
    rw [hostAccessed_served hhome halign rfl]
    rfl
  · intro n w a hw hans hmod hcause
    have hsound := (soundAnswer_iff a).mpr hcause
    have hreach : s.reach.contains w.mod = true := List.contains_iff_mem.mpr hmod
    show Host.Outcome.next (s.rreadServed (.answer n a)) = _
    simp only [State.rreadServed, hw, hans, hreach, hsound, Option.isNone_none, Bool.and_self, if_true]
    rfl
  · intro n c hcause
    have hunsound : soundAnswer (.fails c) = false := by
      rw [Bool.eq_false_iff]
      exact fun h => hcause ((soundAnswer_iff _).mp h c rfl)
    show Host.Outcome.next (s.rreadServed (.answer n (.fails c))) = _
    simp only [State.rreadServed, hunsound, Bool.and_false, Bool.false_eq_true, if_false]
    split <;> rfl
end

section
/-! PROOF. O58: the rules by which an operation is seen to keep the invariant (R17, R194, R329). An operation that gives a state
has a lemma `Inv.<its name>`; a computation of an instruction has a lemma `Keeps.<its name>`. -/

namespace Sys2Proof.Claims
open Sys2Proof.Machine
variable {s : State} {α β : Type}

/-! ### States -/

/-- A change of what the invariant does not speak of and of memory, whose form stays, keeps it: every other field is free. -/
theorem Inv.remember (h : Inv s) {mem : Memory} (hmem : mem.wf = true) {agenda waiting tick clock ref24 epoch core flight decs
    flips jobs unpicks nextId reports hemWait queues taken pending launches parts ptcs patterns posted tableWrites seams strFit
    modnum reach hostIn sentOut flints flash fuses sec rails clkCur clkReq clkTo clkBusy pwrlim pwrnow throt rate temps trains
    porten flitFails brixDown dark : _} :
    Inv (.mk agenda waiting tick clock ref24 epoch s.focus core s.others mem flight s.lines decs flips jobs unpicks nextId
      reports hemWait queues taken pending launches parts s.dies ptcs patterns posted tableWrites seams strFit modnum
      reach hostIn sentOut flints flash fuses sec rails clkCur clkReq clkTo clkBusy pwrlim pwrnow throt rate temps
      trains porten flitFails brixDown dark) :=
  ⟨hmem, h.cores, h.focus, h.holder, h.occupant⟩

/-- A change of what the invariant does not speak of keeps it: every other field is free. -/
theorem Inv.update (h : Inv s) {agenda waiting tick clock ref24 epoch core flight decs flips jobs unpicks nextId reports hemWait
    queues taken pending launches parts ptcs patterns posted tableWrites seams strFit modnum reach hostIn sentOut flints flash
    fuses sec rails clkCur clkReq clkTo clkBusy pwrlim pwrnow throt rate temps trains porten flitFails brixDown dark : _} :
    Inv (.mk agenda waiting tick clock ref24 epoch s.focus core s.others s.mem flight s.lines decs flips jobs unpicks nextId
      reports hemWait queues taken pending launches parts s.dies ptcs patterns posted tableWrites seams strFit modnum
      reach hostIn sentOut flints flash fuses sec rails clkCur clkReq clkTo clkBusy pwrlim pwrnow throt rate temps
      trains porten flitFails brixDown dark) :=
  h.remember h.memory

theorem Inv.stored (hs : Inv s) {a n v : Nat} {p t : Bool} : Inv { s with mem := s.mem.store a n v p t } :=
  hs.remember (Memory.store_wf _ _ _ _ _ hs.memory)

theorem Inv.ite {c : Prop} [Decidable c] {a b : State} (ha : Inv a) (hb : Inv b) : Inv (if c then a else b) := by
  split
  · exact ha
  · exact hb

theorem Inv.of_snd {x : α × State} {a : α} {t : State} (h : Inv x.2) (e : x = (a, t)) : Inv t := by
  subst e
  exact h

theorem Inv.foldl (hs : Inv s) {f : State → α → State} {l : List α} (hf : ∀ s a, Inv s → Inv (f s a)) : Inv (l.foldl f s) := by
  induction l generalizing s with
  | nil => exact hs
  | cons a l ih => exact ih (hf s a hs)

/-- The occupants of a die rise by panel, as `OneOccupant` says; a die that the module does not have has none. -/
theorem die_rising (hs : Inv s) (d : Nat) : ((s.die d).occ.map Prod.fst).Pairwise (· < ·) := by
  unfold State.die
  cases hx : s.dies[d]? with
  | none => exact List.Pairwise.nil
  | some x => exact hs.occupant x (Vector.mem_toList_iff.mpr (Vector.mem_of_getElem? hx))

/-! ### Computations -/

/-- A computation of an instruction keeps the invariant: where it ends without a trap or a wait, its state does. -/
structure Keeps {α : Type} (m : Ex α) : Prop where
  keeps : ∀ {s : State} {a : α} {t : State}, Inv s → m s = .ok (a, t) → Inv t

variable {m : Ex α} {f : α → Ex β}

theorem Keeps.pure {a : α} : Keeps (Pure.pure a : Ex α) where
  keeps hs e := by
    cases e
    exact hs

theorem Keeps.bind (hm : Keeps m) (hf : ∀ a, Keeps (f a)) : Keeps (m >>= f) where
  keeps hs e := by
    obtain ⟨a, t, hmt, hft⟩ := of_bind_ok e
    exact (hf a).keeps (hm.keeps hs hmt) hft

theorem Keeps.error {g : State → Stop} : Keeps (fun s => .error (g s) : Ex α) where
  keeps _ e := by cases e

theorem Keeps.getS {f : State → Ex β} (hf : ∀ s, Inv s → Keeps (f s)) : Keeps (Machine.getS >>= f) where
  keeps {s _ _} hs e := (hf s hs).keeps hs e

theorem Keeps.getC : Keeps Machine.getC where
  keeps hs e := by
    cases e
    exact hs

theorem Keeps.modS {f : State → State} (hf : ∀ s, Inv s → Inv (f s)) : Keeps (Machine.modS f) where
  keeps {s _ _} hs e := by
    cases e
    exact hf s hs

theorem Keeps.modC {f : Core → Core} : Keeps (Machine.modC f) where
  keeps hs e := by
    cases e
    exact hs.update

theorem Keeps.raise {c : Cause} {e : DWord} : Keeps (Machine.raise c e : Ex α) := .error

theorem Keeps.raiseReg {c : Cause} {r : Reg} : Keeps (Machine.raiseReg c r : Ex α) := .error

theorem Keeps.stall : Keeps (Machine.stall : Ex α) := .error

theorem Keeps.stallQueue : Keeps (Machine.stallQueue : Ex α) := .error

/-- What would follow a trap does not run. -/
theorem Keeps.raiseThen {c : Cause} {e : DWord} : Keeps (Machine.raise c e >>= f) where
  keeps _ h := by cases h

/-- What would follow a wait does not run. -/
theorem Keeps.stallThen : Keeps (Machine.stall >>= f) where
  keeps _ h := by cases h

theorem Keeps.ite {c : Prop} [Decidable c] {a b : Ex α} (ha : Keeps a) (hb : Keeps b) : Keeps (if c then a else b) := by
  split
  · exact ha
  · exact hb

theorem Keeps.check {ok : Bool} {c : Cause} {e : DWord} : Keeps (Machine.check ok c e) := .ite .pure .raise

theorem Keeps.checkReg {ok : Bool} {c : Cause} {r : Reg} : Keeps (Machine.checkReg ok c r) := .check

theorem Keeps.eachOk {l : List α} {f : α → Ex Unit} (hf : ∀ a, Keeps (f a)) : Keeps (Machine.eachOk l f) := by
  unfold Machine.eachOk
  induction l with
  | nil => exact .pure
  | cons a l ih => exact (hf a).bind fun _ => ih

theorem Keeps.forM {l : List α} {f : α → Ex PUnit} (hf : ∀ a, Keeps (f a)) : Keeps (l.forM f) := by
  induction l with
  | nil => exact .pure
  | cons a l ih => exact (hf a).bind fun _ => ih

end Sys2Proof.Claims
end

section
/-! PROOF. O58: what a core does to memory, registers and its engines keeps the invariant. -/

namespace Sys2Proof.Claims
open Sys2Proof.Machine
variable {s : State} {α : Type}

/-! ### Cores, dies, lines and tables -/

theorem Inv.setCore (hs : Inv s) {n : Nat} {c : Core} : Inv (s.setCore n c) := by
  obtain ⟨cores, focus⟩ := State.setCore_cores s n c hs.cores hs.focus
  exact ⟨by simpa using hs.memory, cores, focus, by simpa [SingleHolder] using hs.holder,
    by simpa [OneOccupant] using hs.occupant⟩

theorem Inv.modCore (hs : Inv s) {n : Nat} {f : Core → Core} : Inv (s.modCore n f) := hs.setCore

theorem Inv.focusOn (hs : Inv s) {n : Nat} : Inv (s.focusOn n) := by
  obtain ⟨cores, focus⟩ := State.focusOn_cores s n hs.cores hs.focus
  exact ⟨by simpa using hs.memory, cores, focus, by simpa [SingleHolder] using hs.holder,
    by simpa [OneOccupant] using hs.occupant⟩

/-- A die changed, its occupants rising as before (R329). -/
theorem Inv.modDie_occ (hs : Inv s) {d : Nat} {f : Die → Die}
    (hf : ∀ x : Die, (x.occ.map Prod.fst).Pairwise (· < ·) → ((f x).occ.map Prod.fst).Pairwise (· < ·)) :
    Inv (s.modDie d f) where
  memory := hs.memory
  cores := hs.cores
  focus := hs.focus
  holder := hs.holder
  occupant := by
    intro x hx
    have hx' : x ∈ (s.dies.setIfInBounds d (f (s.die d))).toArray :=
      (Vector.mem_toArray_iff _ _).mpr (Vector.mem_toList_iff.mp hx)
    rcases Array.mem_or_eq_of_mem_setIfInBounds hx' with hold | rfl
    · exact hs.occupant x (Vector.mem_toList_iff.mpr ((Vector.mem_toArray_iff _ _).mp hold))
    · exact hf _ (die_rising hs d)

/-- A die changed in what is not its occupants. -/
theorem Inv.modDie (hs : Inv s) {d : Nat} {f : Die → Die} (hf : ∀ x, (f x).occ = x.occ := by exact fun _ => rfl) :
    Inv (s.modDie d f) := hs.modDie_occ fun x hx => by rw [hf x]; exact hx

theorem Inv.modPart (hs : Inv s) {p : Nat} {f : Part → Part} : Inv (s.modPart p f) := hs.update

theorem Inv.setFlint (hs : Inv s) {d : Nat} {f : FlintState} : Inv (s.setFlint d f) := hs.update

theorem Inv.mscTouch (hs : Inv s) {p : Option Nat} {loc : Nat} {write : Bool} : Inv (s.mscTouch p loc write) := by
  unfold State.mscTouch
  split
  · split
    · exact .ite hs.modDie hs
    · dsimp only
      split
      · exact hs.modDie
      · split
        · exact hs
        · exact hs.modDie
  · exact hs

theorem Inv.dirtyMark (hs : Inv s) {p : Option Nat} {mpa : Nat} : Inv (s.dirtyMark p mpa) := by
  unfold State.dirtyMark
  split
  · exact hs
  · dsimp only
    split
    · split
      · exact hs
      · exact .ite hs.stored hs
    · exact hs

theorem Inv.homeWrite (hs : Inv s) {p : Option Nat} {loc : Nat} : Inv (s.homeWrite p loc) := hs.dirtyMark.mscTouch

theorem Inv.ptcInstall (hs : Inv s) {k : Nat} {e : PtcEntry} : Inv (s.ptcInstall k e) := hs.update

theorem Inv.translateVia (hs : Inv s) {k p off : Nat} {r w : Bool} : Inv (s.translateVia k p off r w).2 := by
  unfold State.translateVia
  split
  · split
    · exact hs
    · split
      · exact hs
      · split <;> exact hs
  · split
    · exact hs
    · exact .ite hs hs.ptcInstall

theorem Inv.ptcDrop (hs : Inv s) {gone : Nat → PtcEntry → Bool} : Inv (s.ptcDrop gone) := hs.update

theorem Inv.putWord (hs : Inv s) {mpa : Nat} {v : DWord} : Inv (s.putWord mpa v) := .ite hs.stored hs

theorem Inv.release (hs : Inv s) {line : Nat} : Inv (s.release line) := by
  have hgone : Inv { s with lines := s.lines.filter fun l => !(l.line == line) } :=
    ⟨hs.memory, hs.cores, hs.focus, hs.holder.sublist (List.filter_sublist.map _), hs.occupant⟩
  unfold State.release
  split
  · exact .ite hgone.homeWrite hgone
  · exact hgone

theorem Inv.releaseAll (hs : Inv s) {n : Nat} : Inv (s.releaseAll n) := hs.foldl fun _ _ ht => ht.release

theorem Inv.tableWritten (hs : Inv s) {w : TableWrite} {t : State} (e : s.tableWritten w = some t) : Inv t := by
  unfold State.tableWritten at e
  split at e
  · cases e
    exact hs
  · split at e
    · cases e
    · cases e
      exact hs.putWord.dirtyMark

theorem Inv.writesTried (hs : Inv s) : Inv s.writesTried := by
  unfold State.writesTried
  refine hs.update.foldl fun _ _ ht => ?_
  split
  · next e => exact ht.tableWritten e
  · exact ht.update

theorem Inv.frameScrubbed (hs : Inv s) {d : Nat} {e : ScrubEntry} : Inv (s.frameScrubbed d e) := by
  have hrecalled : Inv ((s.lines.filter fun l => decide (e.frame ≤ l.line) && decide (l.line < e.frame + 65536)).foldl
      (fun s l => s.release l.line) s) := hs.foldl fun _ _ ht => ht.release
  exact (hrecalled.remember (Memory.clear_wf _ _ hrecalled.memory)).putWord.ptcDrop.modDie.writesTried

theorem Inv.demanded (hs : Inv s) {frame : Nat} : Inv (s.demanded frame) := by
  unfold State.demanded
  split
  · exact hs.modDie
  · exact hs

theorem Inv.setGuestWord (hs : Inv s) {p off : Nat} {v : DWord} : Inv (s.setGuestWord p off v) := by
  unfold State.setGuestWord
  split
  · next e => exact hs.tableWritten e
  · dsimp only
    split
    · exact hs.update.demanded
    · exact hs.update

theorem Inv.putLinks (hs : Inv s) {p at_ : Nat} {ls : List (Nat × Nat)} : Inv (s.putLinks p at_ ls) := by
  induction ls generalizing s at_ with
  | nil => exact hs
  | cons l ls ih => exact ih hs.setGuestWord

theorem Inv.intern (hs : Inv s) {p : Nat} {links : List (Nat × Nat)} : Inv (s.intern p links).2 := by
  unfold State.intern
  split
  · split
    · exact hs
    · exact hs.putLinks.setGuestWord
  · exact hs

theorem Inv.walked (hs : Inv s) {k p n : Nat} : Inv (s.walked k p n) := .ite (.ite hs.modDie hs.modDie.update) hs

theorem Inv.fitWalk (hs : Inv s) {k p h region : Nat} : Inv (s.fitWalk k p h region).2 := by
  unfold State.fitWalk
  split
  · exact hs
  · exact hs.walked
  · split
    · exact hs
    · split
      · exact hs.walked
      · dsimp only
        split
        · exact hs
        · exact hs.walked
        · exact hs.walked

theorem Inv.booksDropped (hs : Inv s) {p : Nat} : Inv (s.booksDropped p) := hs.update

theorem Inv.bill (hs : Inv s) {p prin amount : Nat} : Inv (s.bill p prin amount) := hs.setGuestWord

theorem Inv.billLinks (hs : Inv s) {p rest : Nat} {ls : List (Nat × Nat)} {xs : List Nat} : Inv (s.billLinks p rest ls xs) := by
  induction ls generalizing s xs with
  | nil => cases xs <;> exact hs
  | cons l ls ih =>
    cases xs with
    | nil => exact hs
    | cons x xs => exact ih (.ite hs hs.bill)

theorem Inv.settle (hs : Inv s) {part : Option Nat} {h m : Nat} : Inv (s.settle part h m) := by
  unfold State.settle
  split
  · exact hs
  · split
    · exact .ite hs hs.bill
    · exact hs.billLinks

theorem Inv.putWords (hs : Inv s) {a : Nat} {ws : List DWord} : Inv (s.putWords a ws) := by
  induction ws generalizing s a with
  | nil => exact hs
  | cons w ws ih => exact ih hs.putWord

theorem Inv.errRecord (hs : Inv s) {d : Nat} {words : List DWord} : Inv (s.errRecord d words) :=
  .ite hs.putWords.modDie hs.modDie

theorem Inv.issueReq (hs : Inv s) {p i : Nat} : Inv (s.issueReq p i) := by
  unfold State.issueReq
  dsimp only
  split
  · exact hs
  · split
    · exact .ite hs.putWords.modPart hs
    · exact hs

theorem Inv.issueReqs (hs : Inv s) {p k i : Nat} : Inv (s.issueReqs p k i) := by
  induction k generalizing s i with
  | zero => exact hs
  | succ k ih => exact ih hs.issueReq

theorem Inv.pageMiss (hs : Inv s) {m : PageMiss} : Inv (s.pageMiss m) := by
  unfold State.pageMiss
  dsimp only
  split
  · exact hs.modPart
  · exact hs.modPart.issueReq

/-! ### Traps and how an instruction ends -/

theorem Keeps.chargeBy {price : Csrs → Nat} : Keeps (chargeBy price) := .modC

theorem Inv.niSend (hs : Inv s) {n : Nat} {m : Msg} : Inv (s.niSend n m) := hs.modCore

theorem Inv.report (hs : Inv s) {n : Option Nat} {part : Option Nat} {ltag : BitVec 16} {kind cause : Nat} :
    Inv (s.report n part ltag kind cause) := by
  unfold State.report
  split
  · exact hs
  · split
    · exact hs.modCore.update
    · exact hs.update

theorem Keeps.tableReady {part : Option Nat} {offs : State → Nat → List Nat} : Keeps (tableReady part offs) where
  keeps hs e := by
    unfold Machine.tableReady at e
    split at e <;> cases e
    exact hs

theorem Inv.parentDec (hs : Inv s) {n k : Nat} : Inv (s.parentDec n k) := .ite (.ite hs.update hs.niSend) hs

theorem Inv.decrement (hs : Inv s) {n k d : Nat} : Inv (s.decrement n k d) :=
  .ite hs.modCore.modCore.parentDec.update hs.modCore

theorem Inv.outOfService (hs : Inv s) {n : Nat} {failed : Bool} : Inv (s.outOfService n failed) :=
  .ite hs.modCore hs.modCore.update

theorem Inv.walkLeft (hs : Inv s) {p region : Nat} {passed : Bool} : Inv (s.walkLeft p region passed) := by
  unfold State.walkLeft
  split
  · next e => exact .ite (hs.fitWalk.of_snd e).update (hs.fitWalk.of_snd e)
  · next e1 => exact hs.fitWalk.of_snd e1

theorem Inv.standing (hs : Inv s) {t : TrapInfo} : Inv (s.standing t) := by
  have hmade : Inv (match t.miss with
      | some m => { s with hemWait := s.hemWait.filter fun w => !(w.2 == s.focus) }.pageMiss m
      | none => { s with hemWait := s.hemWait.filter fun w => !(w.2 == s.focus) }) := by
    split
    · exact hs.update.pageMiss
    · exact hs.update
  unfold State.standing
  dsimp only
  split
  · exact hmade.walkLeft
  · exact hmade

theorem Inv.trapTaken (hs : Inv s) {t : TrapInfo} {tag : Option (BitVec 12)} {at_ : BitVec 12} :
    Inv (trapTaken t tag at_ s) := .ite hs.outOfService (Inv.ite hs hs.settle).update

theorem Inv.trapEntry (hs : Inv s) {t : TrapInfo} {at_ : BitVec 12} : Inv (trapEntry t at_ s) := hs.standing.trapTaken

theorem Inv.takeTrap (hs : Inv s) {t : TrapInfo} : Inv (takeTrap t s) := by
  unfold Machine.takeTrap
  split
  · exact .ite hs.trapEntry hs.standing.update
  · exact hs.trapEntry

theorem Inv.takeStored (hs : Inv s) {p : Stored} : Inv (takeStored p s) := hs.update.trapTaken

theorem Inv.bodyOn (hs : Inv s) {r : Rep} : Inv (s.bodyOn r) := by
  unfold State.bodyOn
  split
  · exact .ite hs.update.takeStored hs.update
  · exact hs.update.takeStored
  · exact hs.update

theorem Inv.stalledOn (hs : Inv s) {_queue : Bool} : Inv (s.stalledOn _queue) := by
  unfold State.stalledOn
  split
  · exact hs.update
  · exact hs.update

theorem Inv.complete (hs : Inv s) {len : Nat} {f : Flow} : Inv (s.complete len f) := by
  unfold State.complete
  split
  · exact hs
  · exact hs.update
  · exact hs.update
  · dsimp only
    split
    · exact hs.update.bodyOn
    · exact hs.update

/-! ### Installing images -/

theorem Inv.copyIn (hs : Inv s) {p off loc n : Nat} : Inv (s.copyIn p off loc n) := by
  induction n generalizing s off loc with
  | zero => exact hs
  | succ n ih => exact ih hs.stored

theorem Inv.installImage (hs : Inv s) {n p : Nat} {i : RoutineInfo} : Inv (s.installImage n p i) := by
  unfold State.installImage
  refine .modCore ?_
  exact hs.copyIn.copyIn.remember (Memory.clean_wf _ _ hs.copyIn.copyIn.memory)

theorem Inv.modWindow (hs : Inv s) {q : Nat} {f : QWindow → QWindow} : Inv (s.modWindow q f) := hs.update

theorem Inv.packetDone (hs : Inv s) {k : Packet} : Inv (s.packetDone k) := by
  unfold State.packetDone
  split
  · exact hs.modWindow
  · exact hs

theorem Inv.installEnds (hs : Inv s) {p job : Nat} {r : Byte} : Inv (s.installEnds p job r) := by
  unfold State.installEnds
  split
  · exact hs
  · split
    · exact hs
    · exact hs.update.modPart.packetDone

theorem Inv.rests (hs : Inv s) {n : Nat} : Inv (s.rests n) := .ite hs.update hs

theorem Inv.installNext (hs : Inv s) {n : Nat} : Inv (s.installNext n) := by
  unfold State.installNext
  split
  · exact .ite hs hs
  · dsimp only
    split
    · exact hs
    · split
      · exact hs
      · split
        · exact hs.demanded.rests
        · refine .installEnds ?_
          split
          · exact hs.modCore.installImage
          · exact hs.modCore

/-! ### Loads and stores -/

theorem Inv.mapRun (hs : Inv s) {r w : Bool} {k off n : Nat} : Inv (mapRun s r w k off n).2 := by
  induction k generalizing s off n with
  | zero => exact hs
  | succ k ih =>
    have rest {u : State} (hu : Inv u) {off n m here : Nat} {scrub : Option Nat} : Inv (match mapRun u r w k off n with
        | (.runs l more, s) => (Mapped.runs ((m, here) :: l) (scrub.or more), s)
        | x => x).2 := by
      have hrun : Inv (mapRun u r w k off n).2 := ih hu
      split
      · next e => exact hrun.of_snd e
      · exact hrun
    unfold Machine.mapRun
    dsimp only
    split
    · exact hs
    · split
      · split
        · exact hs
        · exact rest hs
      · split
        · exact hs
        · split
          · next e => exact hs.translateVia.of_snd e
          · next e => exact rest (hs.translateVia.of_snd e)

theorem Inv.fitting (hs : Inv s) {region : Nat} {need : Need} {t : State} (e : s.fitting region need = .ok t) : Inv t := by
  unfold State.fitting at e
  dsimp only at e
  split at e
  · split at e <;> cases e
    exact hs.update
  · split at e
    · cases e
    · split at e
      · cases e
      · cases e
      · cases e
      · next hwalk =>
        split at e <;> cases e
        exact (hs.fitWalk.of_snd hwalk).update

theorem Keeps.fitCheck {region : Nat} {need : Need} {eval : DWord} : Keeps (fitCheck region need eval) where
  keeps hs e := by
    unfold Machine.fitCheck at e
    split at e
    · next hfit =>
      cases e
      exact hs.fitting hfit
    · cases e
    · cases e

theorem Keeps.accCap {a : Acc} : Keeps (accCap a) := by
  unfold Machine.accCap
  refine .bind .checkReg fun _ => .bind .getC fun _ => .ite ?_ ?_
  · exact .pure
  · refine .bind .checkReg fun _ => .bind .checkReg fun _ => .bind .checkReg fun _ => .getS fun _ _ => ?_
    dsimp only
    split
    · exact .bind .checkReg fun _ => .check
    · exact .check

theorem Keeps.accAlign {a : Acc} : Keeps (accAlign a) := .check

theorem Keeps.accFit {a : Acc} : Keeps (accFit a) := .bind .getC fun _ => .ite .pure .fitCheck

theorem Keeps.accMap {a : Acc} {off : Nat} : Keeps (accMap a off) where
  keeps hs e := by
    unfold Machine.accMap at e
    split at e
    · next hmap =>
      split at e <;> cases e
      exact hs.mapRun.of_snd hmap
    · next hmap =>
      have hu := hs.mapRun.of_snd hmap
      split at e <;> split at e <;> cases e <;> exact hu
    · cases e
    · split at e <;> cases e

theorem Keeps.awaitMarks {off n : Nat} {eval : DWord} : Keeps (awaitMarks off n eval) := by
  unfold Machine.awaitMarks
  refine .bind .getC fun _ => ?_
  split
  · exact .ite .modC .pure
  · exact .ite .raise .error

theorem Keeps.awaitPlace {p : Place} {eval : DWord} : Keeps (awaitPlace p eval) := by
  unfold Machine.awaitPlace
  refine .getS fun _ _ => ?_
  dsimp only
  split
  · refine .bind .awaitMarks fun _ => ?_
    split
    · exact .awaitMarks
    · exact .pure
  · exact .pure
  · split
    · exact .ite .awaitMarks .pure
    · exact .pure

theorem Keeps.awaitScrub {frame : Option Nat} : Keeps (awaitScrub frame) := by
  unfold Machine.awaitScrub
  split
  · exact .error
  · exact .pure

theorem Keeps.accWhere {a : Acc} {r : Range} {place : Option Place} : Keeps (accWhere a r place) := by
  unfold Machine.accWhere
  dsimp only
  split
  · exact .bind .pure fun _ => .getS fun _ _ => .bind .check fun _ => .bind .awaitScrub fun _ => .bind .awaitPlace fun _ =>
      .pure
  · exact .bind .accMap fun _ => .getS fun _ _ => .bind .check fun _ => .bind .awaitScrub fun _ => .bind .awaitPlace fun _ =>
      .pure
  · exact .raiseThen

theorem Keeps.keepingWalk {walk : Option (Nat × Bool)} {m : Ex α} (hm : Keeps m) : Keeps (keepingWalk walk m) where
  keeps hs e := by
    unfold Machine.keepingWalk at e
    split at e
    · cases e
    · exact hm.keeps hs e

theorem Keeps.access {a : Acc} : Keeps (access a) := by
  unfold Machine.access
  refine .bind .accCap fun _ => .bind .accAlign fun _ => .getS fun _ _ => ?_
  split
  · exact .raise
  · exact .bind .accFit fun _ => .keepingWalk .accWhere

/-- A line that no cache lists is listed once where it is filled (R17). -/
theorem Inv.lineAdded (hs : Inv s) {l : Line} (hfree : l.line ∉ s.lines.map Line.line) : Inv { s with lines := s.lines ++ [l] } where
  memory := hs.memory
  cores := hs.cores
  focus := hs.focus
  holder := by
    show ((s.lines ++ [l]).map Line.line).Nodup
    rw [List.map_append, List.map_singleton, List.nodup_append]
    refine ⟨hs.holder, List.nodup_singleton _, fun a ha b hb e => hfree ?_⟩
    rw [List.mem_singleton.mp hb] at e
    exact e ▸ ha
  occupant := hs.occupant

/-- The mask of a sector stands in memory: the lines stay. -/
theorem dirtyMark_lines (s : State) (p : Option Nat) (mpa : Nat) : (s.dirtyMark p mpa).lines = s.lines := by
  unfold State.dirtyMark
  split
  · rfl
  · dsimp only
    split
    · split
      · rfl
      · split <;> rfl
    · rfl

/-- A write at a home leaves the lines. -/
theorem homeWrite_lines (s : State) (p : Option Nat) (loc : Nat) : (s.homeWrite p loc).lines = s.lines := by
  rw [State.homeWrite, Agents.mscTouch_lines, dirtyMark_lines]

/-- A line that leaves its cache takes no other with it, and none comes. -/
theorem release_lines (s : State) (line : Nat) : (s.release line).lines.Sublist s.lines := by
  unfold State.release
  dsimp only
  split
  · split
    · rw [homeWrite_lines]
      exact List.filter_sublist
    · exact List.filter_sublist
  · exact List.filter_sublist

/-- A slice fills a line that nothing holds (R17). -/
theorem Inv.fill (hs : Inv s) {n line : Nat} (hfree : line ∉ s.lines.map Line.line) : Inv (s.fill n line) := by
  unfold State.fill
  dsimp only
  split
  · exact hs.lineAdded hfree
  · split
    · exact hs.release.lineAdded fun hm => hfree (((release_lines _ _).map _).subset hm)
    · exact hs.lineAdded hfree

theorem Inv.written (hs : Inv s) {p : Option Nat} {loc : Nat} : Inv (s.written p loc) := by
  have hlines : (s.lines.map fun l => if l.line == lineOf loc then { l with dirty := true } else l).map Line.line =
      s.lines.map Line.line := by
    rw [List.map_map]
    refine List.map_congr_left fun l _ => ?_
    show (if l.line == lineOf loc then { l with dirty := true } else l).line = l.line
    split <;> rfl
  have hdirtied : Inv { s with lines := s.lines.map fun l => if l.line == lineOf loc then { l with dirty := true } else l } :=
    ⟨hs.memory, hs.cores, hs.focus, by unfold SingleHolder; rw [hlines]; exact hs.holder, hs.occupant⟩
  exact .ite (.ite hdirtied hs.homeWrite) hs

/-- A line without a holder is listed by no cache. -/
theorem not_mem_lines_of_holder {line : Nat} (h : (s.holder line).isNone = true) : line ∉ s.lines.map Line.line := by
  intro hm
  obtain ⟨l, hl, rfl⟩ := List.mem_map.mp hm
  simp only [State.holder, Option.isNone_map, Option.isNone_iff_eq_none, List.find?_eq_none] at h
  exact h l hl (beq_self_eq_true _)

theorem Inv.touchLine (hs : Inv s) {n loc : Nat} {alloc : Bool} : Inv (s.touchLine n loc alloc) := by
  unfold State.touchLine
  split
  · next hnone =>
    have hfree := not_mem_lines_of_holder (Bool.and_eq_true_iff.mp hnone).2
    refine .ite (hs.mscTouch.fill ?_) hs.mscTouch
    rw [Agents.mscTouch_lines]
    exact hfree
  · exact hs

theorem Inv.perform (hs : Inv s) {n : Nat} {e : StoreEntry} : Inv (s.perform n e) :=
  (hs.touchLine.remember (Memory.perform_wf _ hs.touchLine.memory)).written

theorem Inv.landAt (hs : Inv s) {which : Nat → Flight → Bool} : Inv (s.landAt which) := hs.update.foldl fun _ _ ht => ht.perform

theorem Inv.land (hs : Inv s) {which : Flight → Bool} : Inv (s.land which) := hs.landAt

theorem Inv.landScope (hs : Inv s) {n : Nat} {scope : Scope} : Inv (s.landScope n scope) := hs.land

theorem Inv.leave (hs : Inv s) {n : Nat} : Inv (s.leave n) := by
  unfold State.leave
  split
  · exact hs
  · split
    · exact hs.modCore.update
    · exact .ite hs.modCore.land.perform hs.modCore.update

theorem Inv.leaveTo (hs : Inv s) {n keep k : Nat} : Inv (s.leaveTo n keep k) := by
  induction k generalizing s with
  | zero => exact hs
  | succ k ih => exact .ite hs (ih hs.leave)

theorem Inv.drain (hs : Inv s) {n : Nat} : Inv (s.drain n) := hs.leaveTo

theorem Inv.releaseFor (hs : Inv s) {n : Nat} {scope : Scope} : Inv (s.releaseFor n scope) := .ite hs.drain.landScope hs

theorem Keeps.pushStore {e : StoreEntry} : Keeps (pushStore e) := .modS fun _ hs => (Inv.ite hs hs.leave).update

theorem Inv.view (hs : Inv s) {a n : Nat} : Inv (s.view a n).2 := by
  unfold State.view
  dsimp only
  split
  · split
    · exact hs.land
    · exact hs.land.leaveTo.land
  · exact hs.land

theorem Keeps.loadRun {a n : Nat} {alloc : Bool} {num : Reg} : Keeps (loadRun a n alloc num) where
  keeps hs e := by
    unfold Machine.loadRun at e
    dsimp only at e
    split at e
    · cases e
      exact hs.update
    · cases e
      exact hs.touchLine.view.update

theorem Keeps.loadRuns {alloc : Bool} {num : Reg} {l : List (Nat × Nat)} : Keeps (loadRuns alloc num l) := by
  induction l with
  | nil => exact .pure
  | cons x r ih =>
    refine .bind .loadRun fun _ => ?_
    split
    · exact .pure
    · exact .bind ih fun _ => .pure

theorem Keeps.loadReg {off n : Nat} : Keeps (loadReg off n) := .getS fun _ _ => .ite .stall .pure

theorem Keeps.raiseFlags {f : BitVec 6} : Keeps (raiseFlags f) := .modC

theorem Keeps.loadPlace {p : Place} {alloc : Bool} {num : Reg} : Keeps (loadPlace p alloc num) := by
  unfold Machine.loadPlace
  split
  · exact .loadRuns
  · exact .loadReg
  · refine .getS fun _ _ => .bind .loadRun fun _ => ?_
    dsimp only
    split
    · exact .bind .loadRun fun _ => .bind .raiseFlags fun _ => .pure
    · exact .bind .pure fun _ => .bind .raiseFlags fun _ => .pure

theorem Keeps.storeRuns {v : Nat} {poison tag alloc : Bool} {l : List (Nat × Nat)} : Keeps (storeRuns v poison tag alloc l) := by
  induction l generalizing v with
  | nil => exact .pure
  | cons x r ih => exact .bind .pushStore fun _ => ih

theorem Keeps.storePlace {p : Place} {v : Nat} {poison tag alloc : Bool} : Keeps (storePlace p v poison tag alloc) := by
  unfold Machine.storePlace
  split
  · exact .storeRuns
  · exact .getS fun _ _ => .pushStore
  · exact .getS fun _ _ => .pushStore

theorem Keeps.chargeGmem {ea : DWord} : Keeps (chargeGmem ea) := .ite .chargeBy .pure

/-! ### Registers, queues and links -/

theorem Keeps.awaitBody {r : Reg} {write : Bool} : Keeps (awaitBody r write) := by
  unfold Machine.awaitBody
  refine .bind .getC fun _ => ?_
  split
  · exact .ite .stall .pure
  · exact .pure

theorem Keeps.loadVal {cap : Val} {num : Reg} {ea : DWord} {sz : BitVec 3} {alloc : Bool} :
    Keeps (loadVal cap num ea sz alloc) := by
  unfold Machine.loadVal
  refine .bind .access fun _ => .bind .loadPlace fun _ => .bind .chargeGmem fun _ => ?_
  split
  · exact .pure
  · exact .pure
  · exact .pure
  · exact .pure
  · exact .pure

theorem Keeps.storeVal {cap : Val} {num : Reg} {ea : DWord} {sz : BitVec 3} {v : Val} {dnum : Reg} {alloc : Bool} :
    Keeps (storeVal cap num ea sz v dnum alloc) := .bind .access fun _ => .bind .storePlace fun _ => .chargeGmem

theorem Keeps.rebind {r : Reg} {b : Binding} : Keeps (rebind r b) := .modC

theorem Keeps.blockQueue {α : Type} {r : Reg} : Keeps (blockQueue r : Ex α) := by
  unfold Machine.blockQueue
  refine .bind .getC fun _ => ?_
  split
  · exact .raiseReg
  · exact .stallQueue

theorem Keeps.pushLink {v : Val} : Keeps (pushLink v) := .bind .getC fun _ => .ite (.modS fun _ hs => hs.drain.update) .stall

theorem Keeps.popLink {fwd : Bool} : Keeps (popLink fwd) := by
  unfold Machine.popLink
  refine .getS fun _ _ => ?_
  dsimp only
  split
  · exact .stall
  · exact .bind (.modS fun _ ht => ht.modCore) fun _ => .bind .modC fun _ => .ite (.bind .pushLink fun _ => .pure) .pure

theorem Keeps.popBound {r : Reg} {b : Binding} : Keeps (popBound r b) := by
  unfold Machine.popBound
  split
  · exact .ite .raiseReg (.bind .loadVal fun _ => .bind .rebind fun _ => .pure)
  · refine .bind .getC fun _ => .ite ?_ ?_
    · exact .raiseReg
    · split
      · exact .blockQueue
      · exact .bind .modC fun _ => .pure
  · exact .ite .raiseReg .popLink

theorem Keeps.pushBound {r : Reg} {b : Binding} {v : Val} : Keeps (pushBound r b v) := by
  unfold Machine.pushBound
  split
  · exact .ite .raiseReg (.bind .storeVal fun _ => .rebind)
  · exact .bind .getC fun _ => .ite .raiseReg (.ite .modC .blockQueue)
  · exact .ite .pushLink .raiseReg

theorem Keeps.readReg {r : Reg} : Keeps (readReg r) := by
  unfold Machine.readReg
  refine .bind .getC fun _ => ?_
  split
  · exact .popBound
  · exact .bind .awaitBody fun _ => .pure

theorem Keeps.writeReg {r : Reg} {v : Val} : Keeps (writeReg r v) := by
  unfold Machine.writeReg
  refine .bind .getC fun _ => ?_
  split
  · exact .pushBound
  · exact .bind .awaitBody fun _ => .modC

theorem Keeps.readDest {r : Reg} : Keeps (readDest r) := .bind .getC fun _ => .ite .raiseReg .readReg

theorem Keeps.writeData {r : Reg} {x : DWord} {poison : Bool} : Keeps (writeData r x poison) := .writeReg

theorem Keeps.rawRegs {rs : List Reg} : Keeps (rawRegs rs) := by
  unfold Machine.rawRegs
  refine .bind .getC fun _ => ?_
  split
  · exact .raiseReg
  · refine .bind (.forM fun _ => .awaitBody) fun _ => ?_
    split
    · exact .raiseReg
    · exact .pure

theorem Keeps.readClean {r : Reg} : Keeps (readClean r) := .bind .readReg fun _ => .bind .checkReg fun _ => .pure

theorem Keeps.dryRun {m : Ex Unit} : Keeps (dryRun m) where
  keeps {s a t} hs e := by
    unfold Machine.dryRun at e
    cases hm : m s with
    | error x => rw [hm] at e; cases e
    | ok x =>
      rw [hm] at e
      cases e
      exact hs

theorem Keeps.needKernel : Keeps needKernel := .bind .getC fun _ => .check

theorem Keeps.denyCode : Keeps denyCode := .bind .getC fun _ => .check

/-! ### The matrix engine -/

theorem Keeps.mxFit {need : Need} : Keeps (mxFit need) where
  keeps hs e := by
    unfold Machine.mxFit at e
    split at e
    · cases e
      exact hs
    · split at e
      · next hfit =>
        cases e
        exact hs.fitting hfit
      · cases e
      · cases e
        split
        · exact hs.fitWalk
        · exact hs

theorem Inv.setSeam (hs : Inv s) {n : Nat} {e : Seam} : Inv (s.setSeam n e) := hs.update

theorem Inv.headed (hs : Inv s) {n : Nat} : Inv (s.headed n) := by
  unfold State.headed
  split
  · split
    · exact hs.setSeam.modCore
    · exact hs
  · exact hs

theorem Keeps.awaitMxq : Keeps awaitMxq := .bind .getC fun _ => .ite .pure .stall

theorem Keeps.mxEnter {op : MxOp} {sub : Nat} : Keeps (mxEnter op sub) := .modS fun _ hs => .ite hs hs.update.headed

theorem Keeps.mmaEx {d : Reg} {wa wc : BitVec 4} {a : Reg} {ks : BitVec 3} : Keeps (mmaEx d wa wc a ks) := by
  unfold Machine.mmaEx
  refine .bind .readClean fun _ => .bind .readClean fun _ => .bind .awaitMxq fun _ => .getS fun _ _ => ?_
  refine .ite ?_ (.bind .modC fun _ => .pure)
  dsimp only
  split
  case' h_1 => refine .bind .pure fun _ => ?_
  case' h_2 => refine .bind .mxFit fun _ => .bind .pure fun _ => ?_
  all_goals
    split
    · exact .bind .modC fun _ => .bind .modC fun _ => .pure
    · exact .bind .mxEnter fun _ => .bind .modC fun _ => .pure

theorem Inv.forEngine (hs : Inv s) {n : Nat} : Inv (s.forEngine n) := .ite hs.drain hs

theorem Keeps.bloadEx {wa : BitVec 4} {a : Reg} {ks : BitVec 3} : Keeps (bloadEx wa a ks) := by
  unfold Machine.bloadEx
  refine .bind .readClean fun _ => .bind .awaitMxq fun _ => .getS fun _ _ => ?_
  refine .ite ?_ .pure
  dsimp only
  split
  · exact .bind .raise fun _ => .pure
  · refine .bind .mxFit fun _ => .bind (.keepingWalk ?_) fun _ => ?_
    · refine .ite (.ite ?_ .stallThen) .raiseThen
      split
      · split
        · exact .raise
        · exact .stall
      · exact .pure
    · exact .bind (.modS fun _ ht => ht.forEngine) fun _ => .getS fun _ _ => .bind .modC fun _ => .bind .raiseFlags fun _ => .pure

theorem Keeps.brotEx : Keeps brotEx := .bind .awaitMxq fun _ => .bind .mxEnter fun _ => .pure

theorem Keeps.mxspillEx : Keeps mxspillEx := .bind .awaitMxq fun _ => .bind .mxEnter fun _ => .pure

theorem Keeps.mxwaitEx : Keeps mxwaitEx := by
  unfold Machine.mxwaitEx
  refine .bind .getC fun _ => .ite ?_ ?_
  · refine .bind .modC fun _ => ?_
    split
    · exact .raise
    · exact .pure
  · exact .stallThen

theorem Keeps.mxwtEx {a : Reg} : Keeps (mxwtEx a) :=
  .bind .denyCode fun _ => .bind .needKernel fun _ => .bind .readReg fun _ => .bind (.modS fun _ hs => hs.modCore) fun _ =>
    .pure

theorem Inv.mxDone (hs : Inv s) {n : Nat} : Inv (s.mxDone n) := hs.modCore.headed

theorem Inv.slotTaken (hs : Inv s) {n tile : Nat} : Inv (s.slotTaken n tile) := by
  unfold State.slotTaken
  split
  · exact hs.modCore
  · dsimp only
    split
    · exact hs.modCore
    · split
      · exact (hs.foldl fun _ _ ht => ht.modCore).modCore
      · exact hs

theorem Inv.putPart (hs : Inv s) {x : Nat × QWord × Bool} : Inv (s.putPart x) := hs.stored

theorem Inv.mxTell (hs : Inv s) {n : Nat} {q : MxCmd} {reason addr : Nat} : Inv (s.mxTell n q reason addr) :=
  .ite hs.modCore hs.report

theorem Inv.mxCancel (hs : Inv s) {n i reason addr : Nat} : Inv (s.mxCancel n i reason addr) := by
  unfold State.mxCancel
  dsimp only
  split
  · exact hs
  · exact hs.modCore.headed.foldl fun _ _ ht => ht.mxTell

theorem Inv.readElem (hs : Inv s) {n : Nat} {m : Mma} {x : Nat} : Inv (s.readElem n m x) := by
  unfold State.readElem
  exact hs.forEngine.modCore

theorem Inv.mmaReads (hs : Inv s) {n : Nat} {m : Mma} : Inv (s.mmaReads n m) := by
  unfold State.mmaReads
  split
  · split
    · split
      · dsimp only
        split
        · exact hs.mxCancel
        · split
          · exact hs
          · exact hs.slotTaken.setSeam.readElem
      · dsimp only
        split
        · exact hs.mxCancel
        · split
          · exact hs
          · exact hs.setSeam.readElem
    · dsimp only
      split
      · exact hs.mxCancel
      · split
        · exact hs
        · exact hs
  · dsimp only
    split
    · exact hs.mxCancel
    · split
      · exact hs
      · exact hs.readElem

theorem Inv.mmaWrites (hs : Inv s) {n : Nat} {m : Mma} : Inv (s.mmaWrites n m) := by
  unfold State.mmaWrites
  split
  · exact hs.forEngine.modCore
  · split
    · exact hs.putPart.modCore
    · exact (Inv.ite hs.modCore.decrement hs.modCore).mxDone

theorem Inv.mxStep (hs : Inv s) {n : Nat} : Inv (s.mxStep n) := by
  unfold State.mxStep
  split
  · exact hs.modCore.mxDone
  · exact .ite hs.mmaReads hs.mmaWrites
  · exact hs

theorem Inv.rotate (hs : Inv s) {n : Nat} : Inv (s.rotate n) := by
  unfold State.rotate
  split
  · dsimp only
    split
    · exact hs
    · split
      · exact hs
      · split
        · exact hs
        · exact hs.modCore.mxDone
      · exact hs
  · dsimp only
    split
    · exact hs
    · split
      · exact hs.modCore.modCore
      · split
        · exact hs
        · exact hs.modCore.mxDone
      · exact hs

theorem Inv.watchdog (hs : Inv s) {n : Nat} : Inv (s.watchdog n) := by
  unfold State.watchdog
  split
  · exact .ite hs hs.update.mxCancel
  · exact hs

theorem Inv.serviced (hs : Inv s) {cycles : Nat} : Inv (s.serviced cycles) := hs.update

/-! ### Accumulators -/

theorem Keeps.accRecords {w : BitVec 4} {us : List RecUse} : Keeps (accRecords w us) :=
  .bind .getC fun _ => .bind .check fun _ => .bind (.eachOk fun _ => .check) fun _ => .bind (.eachOk fun _ => .check) fun _ =>
    .bind (.eachOk fun _ => .check) fun _ => .getS fun _ _ => .bind (.eachOk fun _ => .ite .pure .fitCheck) fun _ =>
      .keepingWalk (.eachOk fun _ => .awaitMarks)

theorem Keeps.accClean {l : List (Reg × Val)} : Keeps (accClean l) := .eachOk fun _ => .checkReg

theorem Keeps.readRecord {o : Nat} {num : Reg} : Keeps (readRecord o num) := .getS fun _ _ => .bind .loadRuns fun _ => .pure

theorem Keeps.writeRecord {o : Nat} {r : Record} {value status : Bool} : Keeps (writeRecord o r value status) :=
  .getS fun _ _ => .bind .storeRuns fun _ => .storeRuns

theorem Keeps.addTerms {w : BitVec 4} {a : Reg} {pos : Val} {terms : List Term} {poison : Bool} :
    Keeps (addTerms w a pos terms poison) :=
  .bind .accClean fun _ => .bind .accRecords fun _ => .bind .getC fun _ => .bind (.eachOk fun _ => .bind .readRecord fun _ =>
    .writeRecord) fun _ => .pure

theorem Keeps.accclrEx {w : BitVec 4} {a b : Reg} : Keeps (accclrEx w a b) :=
  .bind .readReg fun _ => .bind .readReg fun _ => .bind .accClean fun _ => .bind .accRecords fun _ => .bind .getC fun _ =>
    .bind (.eachOk fun _ => .writeRecord) fun _ => .pure

theorem Keeps.accaddEx {w : BitVec 4} {a b : Reg} {fmt : AccFmt} : Keeps (accaddEx w a b fmt) :=
  .bind .readReg fun _ => .bind .readReg fun _ => .addTerms

theorem Keeps.accaddvEx {w : BitVec 4} {a b : Reg} {fmt : AccFmt} : Keeps (accaddvEx w a b fmt) :=
  .bind .readReg fun _ => .bind .readReg fun _ => .addTerms

theorem Keeps.accfmaEx {w : BitVec 4} {d a b : Reg} : Keeps (accfmaEx w d a b) :=
  .bind .readReg fun _ => .bind .readReg fun _ => .bind .readReg fun _ => .addTerms

theorem Keeps.acccmbEx {w : BitVec 4} {a b : Reg} : Keeps (acccmbEx w a b) :=
  .bind .readReg fun _ => .bind .readReg fun _ => .bind .accClean fun _ => .bind .accRecords fun _ => .bind .getC fun _ =>
    .bind .readRecord fun _ => .bind .readRecord fun _ => .bind .writeRecord fun _ => .pure

theorem Keeps.accrndEx {d : Reg} {w : BitVec 4} {b : Reg} {fmt : AccTarget} {mode : RMode} :
    Keeps (accrndEx d w b fmt mode) :=
  .bind .readReg fun _ => .bind .accClean fun _ => .bind .accRecords fun _ => .bind .getC fun _ => .bind .readRecord fun _ =>
    .bind .raiseFlags fun _ => .bind .writeData fun _ => .pure

theorem Keeps.accstEx {w : BitVec 4} {a b : Reg} : Keeps (accstEx w a b) := by
  unfold Machine.accstEx
  refine .bind .readReg fun _ => .bind .readReg fun _ => .bind .accClean fun _ => .bind .accRecords fun _ => ?_
  refine .bind .access fun _ => .getS fun _ _ => ?_
  dsimp only
  split
  · exact .bind (.eachOk fun _ => .bind .loadRun fun _ => .storeRuns) fun _ => .bind .chargeGmem fun _ => .pure
  · exact .bind .chargeGmem fun _ => .pure

/-! ### Atomics and SC operations -/

theorem Inv.settleFor (hs : Inv s) {a n : Nat} : Inv (s.settleFor a n) := (Inv.ite hs.drain (.ite hs.leaveTo hs)).land.update

theorem Keeps.amoAt {f : AmoFn} {loc : Nat} {dw : Bool} {b comparand : DWord} {bp : Bool} {scopes : List Scope} :
    Keeps (amoAt f loc dw b comparand bp scopes) where
  keeps {s _ _} hs e := by
    have hreleased : Inv (scopes.foldl (fun (s : State) scope => s.releaseFor s.focus scope) (s.settleFor loc (amoBytes dw))) :=
      hs.settleFor.foldl fun _ _ ht => ht.releaseFor
    unfold Machine.amoAt at e
    cases e
    dsimp only
    split
    · exact hreleased.stored.written.update
    · exact hs.settleFor.update

theorem Keeps.amoEx {f : AmoFn} {cas : Bool} {d a b : Reg} {scope : Scope} {order : AmoOrder} {dw : Bool} :
    Keeps (amoEx f cas d a b scope order dw) :=
  .ite (.bind .readDest fun _ => .bind .readReg fun _ => .bind .readReg fun _ => .bind .access fun _ => .getS fun _ _ =>
    .bind .amoAt fun _ => .ite (.bind .modC fun _ => .bind .chargeGmem fun _ => .bind .writeReg fun _ => .pure)
      (.bind .chargeGmem fun _ => .bind .writeReg fun _ => .pure)) (.bind .pure fun _ => .bind .readReg fun _ =>
        .bind .readReg fun _ => .bind .access fun _ => .getS fun _ _ => .bind .amoAt fun _ =>
          .ite (.bind .modC fun _ => .bind .chargeGmem fun _ => .bind .writeReg fun _ => .pure) (.bind .chargeGmem fun _ =>
            .bind .writeReg fun _ => .pure))

theorem Keeps.scBegin {fn : Nat} {d a b : Reg} : Keeps (scBegin fn d a b) :=
  .bind .readReg fun _ => .ite (.bind .pure fun _ => .bind .access fun _ =>
    .ite (.bind (.modS fun _ hs => hs.settleFor) fun _ => .bind .chargeGmem fun _ => .bind .modC fun _ => .pure)
      (.bind .dryRun fun _ => .bind (.modS fun _ hs => hs.settleFor) fun _ => .bind .chargeGmem fun _ => .bind .modC fun _ =>
        .pure)) (.bind .readReg fun _ => .bind .access fun _ => .ite (.bind (.modS fun _ hs => hs.settleFor) fun _ =>
          .bind .chargeGmem fun _ => .bind .modC fun _ => .pure) (.bind .dryRun fun _ => .bind (.modS fun _ hs => hs.settleFor)
            fun _ => .bind .chargeGmem fun _ => .bind .modC fun _ => .pure))

theorem Keeps.scEx {fn : Nat} {d a b : Reg} : Keeps (scEx fn d a b) := by
  unfold Machine.scEx
  refine .bind .getC fun _ => ?_
  split
  · exact .scBegin
  · refine .ite ?_ ?_
    · exact .stallThen
    · split
      · exact .pure
      · exact .getS fun _ _ => .bind .modC fun _ => .ite .pure (.bind .writeReg fun _ => .pure)

theorem Keeps.fenceStores : Keeps fenceStores := .bind (.modS fun _ hs => hs.drain) fun _ => .bind .modC fun _ => .pure

theorem Keeps.fenceAcquire {scope : Scope} : Keeps (fenceAcquire scope) := .ite (.bind .modC fun _ => .pure) .pure

theorem Keeps.fenceRelease {scope : Scope} : Keeps (fenceRelease scope) := .ite (.bind .modC fun _ => .pure) .pure

theorem Keeps.fenceBoth {scope : Scope} : Keeps (fenceBoth scope) := .bind .fenceStores fun _ => .fenceRelease

theorem Keeps.fenceMatrix : Keeps fenceMatrix := .bind .getC fun _ => .ite (.bind .modC fun _ => .pure) .stallThen

end Sys2Proof.Claims
end

section
/-! PROOF. O58: chains, streamers, the agents of the memory system and what a core sends keep the invariant. -/

namespace Sys2Proof.Claims
open Sys2Proof.Machine
variable {s : State} {α : Type}

/-! ### Chains and unpicking -/

theorem Keeps.internAs {links : List (Nat × Nat)} : Keeps (internAs links) := by
  unfold Machine.internAs
  refine .getS fun _ hs => ?_
  split
  · exact .raise
  · split
    · next e1 => exact .bind (.modS fun _ _ => (hs.intern.of_snd e1).update) fun _ => .pure
    · exact .stall
    · exact .error
    · exact .raise

theorem Keeps.currentLinks : Keeps currentLinks := by
  unfold Machine.currentLinks
  refine .getS fun _ _ => .bind .tableReady fun _ => ?_
  split
  · exact .pure
  · exact .raise

theorem Keeps.readGrant {a : Reg} : Keeps (readGrant a) := by
  unfold Machine.readGrant
  refine .bind .readClean fun _ => .bind .checkReg fun _ => .bind .checkReg fun _ => .bind .check fun _ => ?_
  refine .bind .check fun _ => .getS fun _ _ => ?_
  dsimp only
  split
  · exact .bind .pure fun _ => .bind .awaitScrub fun _ => .bind .awaitPlace fun _ => .bind .loadPlace fun _ => .pure
  · exact .bind .accMap fun _ => .bind .awaitScrub fun _ => .bind .awaitPlace fun _ => .bind .loadPlace fun _ => .pure
  · exact .raiseThen

theorem Keeps.adoptEx {d a : Reg} : Keeps (adoptEx d a) :=
  .bind .denyCode fun _ => .bind .readGrant fun _ => .bind .currentLinks fun _ => .getS fun _ _ => .bind .check fun _ =>
    .bind .check fun _ => .bind .check fun _ => .bind .check fun _ => .bind .tableReady fun _ => .bind .check fun _ =>
      .bind .internAs fun _ => .bind .writeData fun _ => .bind .chargeBy fun _ => .pure

theorem Keeps.shedEx {d : Reg} : Keeps (shedEx d) :=
  .bind .getC fun _ => .bind .check fun _ => .bind .currentLinks fun _ => .ite .raise (.bind .internAs fun _ => .bind .writeData
    fun _ => .pure)

theorem Keeps.chngetEx {d a : Reg} : Keeps (chngetEx d a) :=
  .bind .readClean fun _ => .getS fun _ _ => .ite (.bind .tableReady fun _ => .bind .writeData fun _ => .pure)
    (.bind .writeData fun _ => .pure)

theorem Inv.fitResult (hs : Inv s) {region : Nat} {r : DWord × State} (e : s.fitResult region = .ok r) : Inv r.2 := by
  unfold State.fitResult at e
  dsimp only at e
  split at e
  · cases e
    exact hs.update
  · split at e
    · cases e
      exact hs
    · split at e
      · cases e
      · next hwalk =>
        cases e
        exact hs.fitWalk.of_snd hwalk
      · next hwalk =>
        cases e
        exact hs.fitWalk.of_snd hwalk
      · next hwalk =>
        cases e
        exact (hs.fitWalk.of_snd hwalk).update

theorem Keeps.fitEx {d a : Reg} : Keeps (fitEx d a) := by
  refine .bind .readClean fun _ => .bind .checkReg fun _ => .getS fun _ hs => ?_
  split
  · exact .error
  · next e => exact .bind (.modS fun _ _ => hs.fitResult e) fun _ => .bind .writeData fun _ => .pure

theorem Inv.kill (hs : Inv s) {p q : Nat} : Inv (s.kill p q) := hs.setGuestWord

theorem Inv.unpickBegin (hs : Inv s) {p q : Nat} {domain : Bool} {issuer : Option Nat} :
    Inv (s.unpickBegin p q domain issuer).2 := by
  unfold State.unpickBegin
  split
  · exact hs
  · split
    · exact hs
    · exact hs.kill.update
    · split
      · exact hs
      · exact hs

theorem Keeps.unpickEx {d a : Reg} : Keeps (unpickEx d a) := by
  unfold Machine.unpickEx
  refine .bind .getC fun _ => ?_
  split
  · exact .getS fun _ _ => .ite (.bind .modC fun _ => .bind .writeData fun _ => .pure) .pure
  · refine .bind .denyCode fun _ => .bind .readClean fun _ => .getS fun _ _ => ?_
    refine .ite ?_ (.bind .checkReg fun _ => .bind .checkReg fun _ => .bind .checkReg fun _ => ?_)
    all_goals
      refine .bind .modC fun _ => .getS fun _ ht => ?_
      split
      · exact .bind .writeData fun _ => .pure
      · refine .bind .tableReady fun _ => ?_
        split
        · exact .bind .writeData fun _ => .pure
        · next e =>
          exact .bind .dryRun fun _ => .bind (.modS fun _ _ => (ht.unpickBegin.of_snd e).update) fun _ => .pure

theorem Keeps.chargeEx {a : Reg} : Keeps (chargeEx a) := .bind .readClean fun _ => .bind .modC fun _ => .pure

theorem Keeps.chnsetEx {a : Reg} : Keeps (chnsetEx a) := by
  unfold Machine.chnsetEx
  refine .bind .denyCode fun _ => .bind .needKernel fun _ => .bind .readClean fun _ => .getS fun _ _ => ?_
  split
  · exact .raise
  · exact .bind .tableReady fun _ => .bind .check fun _ => .bind .modC fun _ => .pure

/-! ### Streamers -/

/-- What a command's piece comes to keeps the invariant: the state that it leaves, or the one in which it fails. -/
def PieceKeeps {β : Type} (left : β → State) : Except PieceStop β → Prop
  | .ok b => Inv (left b)
  | .error (.fail _ s) => Inv s
  | .error _ => True

theorem PieceKeeps.ok {β : Type} {left : β → State} {r : Except PieceStop β} {b : β} (h : PieceKeeps left r) (e : r = .ok b) :
    Inv (left b) := by
  subst e
  exact h

theorem PieceKeeps.fail {β : Type} {left : β → State} {r : Except PieceStop β} {c : Nat} {t : State} (h : PieceKeeps left r)
    (e : r = .error (.fail c t)) : Inv t := by
  subst e
  exact h

/-- A stop that an earlier part has made is the stop of the whole. -/
theorem PieceKeeps.error {β γ : Type} {left : β → State} {left' : γ → State} {r : Except PieceStop β} {x : PieceStop}
    (h : PieceKeeps left r) (e : r = .error x) : PieceKeeps left' (.error x : Except PieceStop γ) := by
  subst e
  cases x with
  | fail c t => exact h
  | aside m => trivial
  | scrub f => trivial
  | wait => trivial

theorem PieceKeeps.ite {β : Type} {left : β → State} {c : Prop} [Decidable c] {a b : Except PieceStop β} (ha : PieceKeeps left a)
    (hb : PieceKeeps left b) : PieceKeeps left (if c then a else b) := by
  split
  · exact ha
  · exact hb

theorem Inv.globalStreamer (hs : Inv s) {cache p off die : Nat} : Inv (s.globalStreamer cache p off die).2 := by
  unfold State.globalStreamer
  split
  · next e => exact hs.translateVia.of_snd e
  · next e1 => exact hs.translateVia.of_snd e1

theorem Inv.streamerFor (hs : Inv s) {e : EngCmd} : Inv (s.streamerFor e).2 := by
  unfold State.streamerFor
  split
  · exact hs
  · dsimp only
    split
    · exact hs.globalStreamer
    · exact hs
    · exact hs
    · exact hs

theorem Inv.startJob (hs : Inv s) {e : EngCmd} {key : Option Nat} : Inv (s.startJob e key) := hs.update

theorem Inv.launchCmd (hs : Inv s) {e : EngCmd} : Inv (s.launchCmd e) := hs.streamerFor.startJob

theorem Inv.engFit (hs : Inv s) {key p h region : Nat} {need : Need} : PieceKeeps id (s.engFit key p h region need) := by
  unfold State.engFit
  dsimp only
  split
  · split
    · exact hs.update
    · exact hs
  · split
    · trivial
    · next e => exact hs.fitWalk.of_snd e
    · next e => exact hs.fitWalk.of_snd e
    · next e =>
      split
      · exact (hs.fitWalk.of_snd e).update
      · exact hs.fitWalk.of_snd e

theorem Inv.engReach (hs : Inv s) {j : Nat} {job : EngJob} {piece a region : Nat} {need : Need} :
    PieceKeeps Prod.snd (s.engReach j job piece a region need) := by
  have hfit : PieceKeeps id (s.engFit job.streamer job.cmd.part job.cmd.chain.toNat region need) := hs.engFit
  have hat (loc : Nat) : PieceKeeps Prod.snd
      ((s.engFit job.streamer job.cmd.part job.cmd.chain.toNat region need).map fun s => (loc, s)) := by
    cases e : s.engFit job.streamer job.cmd.part job.cmd.chain.toNat region need with
    | ok t => exact hfit.ok e
    | error x => exact hfit.error e
  unfold State.engReach
  dsimp only
  split
  · split
    · exact hat _
    · exact hs
  · split
    · exact hat _
    · exact hs
  · split
    · exact hat _
    · exact hs
  · split
    · exact hat _
    · exact hs
  · cases e : s.engFit job.streamer job.cmd.part job.cmd.chain.toNat region need with
    | error x => exact hfit.error e
    | ok t =>
      have ht : Inv t := hfit.ok e
      show PieceKeeps Prod.snd (match t.translateVia _ _ _ _ _ with
        | (.error _, _) => _
        | (.ok _, _) => _)
      split
      · trivial
      · next htr =>
        have hu := ht.translateVia.of_snd htr
        split
        · exact hu
        · split
          · trivial
          · exact hu
  · exact hs

theorem Inv.rowIndex (hs : Inv s) {j : Nat} {job : EngJob} {piece r : Nat} : PieceKeeps Prod.snd (s.rowIndex j job piece r) := by
  unfold State.rowIndex
  dsimp only
  split
  · split
    · exact hs
    · split
      · exact hs
      · split
        · next e => exact hs.engReach.error e
        · next e =>
          have ht := hs.engReach.ok e
          exact ht
  · exact hs

theorem Inv.pieceAt (hs : Inv s) {j : Nat} {job : EngJob} {b : Nat} : PieceKeeps Prod.snd (s.pieceAt j job b) := by
  unfold State.pieceAt
  dsimp only
  split
  · next e => exact hs.rowIndex.error e
  · next e =>
    have ht := hs.rowIndex.ok e
    refine .ite ?_ ?_ <;> exact ht

theorem Inv.delivered (hs : Inv s) {j : Nat} {job : EngJob} {p : HeldPiece} : Inv (s.delivered j job p) := by
  unfold State.delivered
  dsimp only
  split
  · split
    · exact hs.update.modCore.update
    · exact hs.update
  · split
    · exact hs.update.modCore
    · exact hs.update

theorem Inv.agentStore (hs : Inv s) {p : Option Nat} {loc n v : Nat} {poison : Bool} : Inv (s.agentStore p loc n v poison) :=
  hs.stored.written

theorem Inv.readPiece (hs : Inv s) {j : Nat} {job : EngJob} {b : Nat} : PieceKeeps id (s.readPiece j job b) := by
  unfold State.readPiece
  split
  · next e => exact hs.pieceAt.error e
  · next p t e =>
    have ht : Inv t := hs.pieceAt.ok e
    dsimp only
    generalize hsource :
      (if job.cmd.remote.isSome && job.cmd.remote != some t.modnum && job.cmd.kind == EngKind.gather then _ else _ :
        Except PieceStop (Nat × Bool × State)) = source
    have hread : PieceKeeps (fun x : Nat × Bool × State => x.2.2) source := by
      rw [← hsource]
      refine .ite (.ite ht (.ite ht ht)) ?_
      split
      · next e => exact ht.engReach.error e
      · next loc u e =>
        have hu : Inv u := ht.engReach.ok e
        have hv : Inv (u.mscTouch (some job.cmd.part) loc false) := hu.mscTouch
        exact .ite hu hv
    split
    · exact hread.error rfl
    · have hu := hread.ok rfl
      refine .ite (.ite hu (.ite hu.update hu)) ?_
      split
      · next e => exact hu.engReach.error e
      · next e =>
        have hv := hu.engReach.ok e
        exact hv.update

theorem Inv.writePiece (hs : Inv s) {j : Nat} {job : EngJob} {p : HeldPiece} : Inv (s.writePiece j job p) := by
  unfold State.writePiece
  refine .delivered ?_
  split
  · exact hs.agentStore
  · exact hs

theorem Inv.stopChannel (hs : Inv s) {e : EngCmd} : Inv (s.stopChannel e) := by
  unfold State.stopChannel
  split
  · dsimp only
    have hbind (m : Option Nat) (f : Core → Core) : Inv (match m with
        | some m => s.modCore m f
        | none => s) := by
      cases m with
      | none => exact hs
      | some m => exact hs.modCore
    exact hbind _ _
  · exact hs

theorem Inv.ckptDone (hs : Inv s) {e : EngCmd} : Inv (s.ckptDone e) := by
  unfold State.ckptDone
  split
  · exact hs.agentStore.agentStore
  · exact hs

theorem Inv.closeJob (hs : Inv s) {j : Nat} {cause : Option Nat} : Inv (s.closeJob j cause) := by
  unfold State.closeJob
  split
  · exact hs
  · split
    · exact hs.update.settle.ckptDone
    · exact hs.update.settle.stopChannel.report

theorem Inv.endJob (hs : Inv s) {j : Nat} {job : EngJob} {cause : Option Nat} : Inv (s.endJob j job cause) := by
  unfold State.endJob
  dsimp only
  split
  · exact hs.closeJob
  · split
    · exact hs.closeJob
    · split
      · exact hs.closeJob
      · split
        · next e =>
          have ht := hs.engReach.ok e
          exact ht.agentStore.closeJob
        · next e => exact (hs.engReach.fail e).closeJob
        · exact hs.update.pageMiss
        · exact hs.update.demanded
        · exact hs.update

theorem Inv.piecesLand (hs : Inv s) {j : Nat} : Inv (s.piecesLand j) := by
  unfold State.piecesLand
  split
  · exact hs
  · refine hs.foldl fun _ _ ht => ?_
    split
    · exact ht.writePiece
    · exact ht

theorem Inv.jobOn (hs : Inv s) {j : Nat} : Inv (s.jobOn j) := by
  unfold State.jobOn
  split
  · exact hs
  · exact .ite hs.endJob hs

theorem Inv.streamerPiece (hs : Inv s) {j b : Nat} : Inv (s.streamerPiece j b) := by
  unfold State.streamerPiece
  split
  · exact hs
  · split
    · exact hs
    · dsimp only
      split
      · exact .ite hs.update hs.update.writePiece.jobOn
      · split
        · exact hs.update.jobOn
        · split
          · exact hs.update
          · split
            · next e => exact hs.update.readPiece.ok e
            · next e => exact (hs.update.readPiece.fail e).update.jobOn
            · exact hs.update.pageMiss
            · exact hs.update.demanded
            · exact hs.update

/-! ### The agents of the memory system -/

theorem Inv.flightLands (hs : Inv s) {i : Nat} : Inv (s.flightLands i) := hs.landAt

theorem Inv.drainStep (hs : Inv s) {what : Drain} : Inv (s.drainStep what) := by
  unfold State.drainStep
  split
  · exact hs.leave
  · exact hs.flightLands

theorem Inv.remoteWord (hs : Inv s) {i : Nat} : Inv (s.remoteWord i) := by
  unfold State.remoteWord
  split
  · exact .ite hs.flightLands hs
  · exact hs

theorem Inv.sliceRequest (hs : Inv s) {n line : Nat} {fill : Bool} : Inv (s.sliceRequest n line fill) := .ite hs.touchLine hs

theorem Inv.evict (hs : Inv s) {n line : Nat} : Inv (s.evict n line) := .ite hs.release hs

theorem Inv.scPresented (hs : Inv s) {n : Nat} : Inv (s.scPresented n) := by
  unfold State.scPresented
  split
  · exact .ite hs.modCore hs
  · exact hs

theorem Inv.scOne (hs : Inv s) {n : Nat} : Inv (s.scOne n) := by
  unfold State.scOne
  split
  · exact hs
  · refine .modCore ?_
    split
    · exact hs
    · exact hs.stored.written
    · exact hs.stored.written
    · exact hs.stored.written

theorem Inv.scApplied (hs : Inv s) {die w : Nat} : Inv (s.scApplied die w) := .ite (hs.update.foldl fun _ _ ht => ht.scOne) hs

theorem Inv.fittingWalked (hs : Inv s) {n region : Nat} {need : Need} : Inv (s.fittingWalked n region need) := by
  unfold State.fittingWalked
  dsimp only
  split
  · exact hs
  · split
    · next e1 => exact (hs.focusOn.fitting e1).focusOn
    · exact hs

theorem Inv.unpickPresented (hs : Inv s) {i : Nat} : Inv (s.unpickPresented i) := .ite hs.update hs

theorem Inv.mxUnpick (hs : Inv s) {n p q k : Nat} : Inv (s.mxUnpick n p q k) := by
  induction k generalizing s with
  | zero => exact hs
  | succ k ih =>
    unfold State.mxUnpick
    split
    · exact hs
    · exact ih hs.mxCancel

theorem Inv.panelBookDropped (hs : Inv s) {p k : Nat} : Inv (s.panelBookDropped p k) := hs.update

theorem Inv.coreReceives (hs : Inv s) {u : Unpick} {n : Nat} : Inv (s.coreReceives u n) := by
  unfold State.coreReceives
  split
  · exact hs.modCore.drain.panelBookDropped
  · refine .mxUnpick ?_
    split
    · exact .ite hs.modCore.drain.modCore hs.modCore.drain
    · exact hs.modCore.drain

theorem Inv.cutJob (hs : Inv s) {j : Nat} : Inv (s.cutJob j) := hs.update

theorem Inv.streamerReceives (hs : Inv s) {u : Unpick} {key : Nat} : Inv (s.streamerReceives u key) := by
  unfold State.streamerReceives
  split
  · exact hs.update
  · refine hs.update.foldl fun _ _ ht => ?_
    split
    · exact .ite ht.cutJob ht
    · exact ht

theorem Inv.unpickReceived (hs : Inv s) {i n : Nat} : Inv (s.unpickReceived i n) := by
  unfold State.unpickReceived
  split
  · exact hs
  · split
    · exact hs
    · split
      · exact (Inv.ite hs.streamerReceives hs).update
      · exact (Inv.ite hs.coreReceives hs).update

theorem Inv.peerAcked (hs : Inv s) {i : Nat} {m : BitVec 12} : Inv (s.peerAcked i m) := hs.update

theorem Inv.unpickCompleted (hs : Inv s) {i : Nat} : Inv (s.unpickCompleted i) := by
  unfold State.unpickCompleted
  split
  · exact hs
  · split
    · split
      · exact hs.update
      · exact .ite hs.update.booksDropped hs.update.booksDropped.modPart
    · exact hs

theorem Inv.domainUnpicked (hs : Inv s) {p q : Nat} : Inv (s.domainUnpicked p q) := hs.unpickBegin

theorem Inv.bookFlushed (hs : Inv s) {p : Nat} : Inv (s.bookFlushed p) := by
  unfold State.bookFlushed
  exact hs.update.modPart

/-- What the answer to another module's RREAD leaves, given or waiting. -/
def AnswerKeeps : Except State (RReadAnswer × State) → Prop
  | .ok r => Inv r.2
  | .error t => Inv t

theorem AnswerKeeps.given {a : RReadAnswer} (hs : Inv s) : AnswerKeeps (.ok (a, s)) := hs

theorem AnswerKeeps.ite {c : Prop} [Decidable c] {a b : Except State (RReadAnswer × State)} (ha : AnswerKeeps a) (hb : AnswerKeeps b) :
    AnswerKeeps (if c then a else b) := by
  split
  · exact ha
  · exact hb

theorem Inv.rreadAnswer (hs : Inv s) {p : Nat} {links : List (Nat × Nat)} {region : Nat} {addr : DWord} {src : BitVec 20}
    {ltag : BitVec 16} : AnswerKeeps (s.rreadAnswer p links region addr src ltag) := by
  unfold State.rreadAnswer
  dsimp only
  split
  · exact hs
  · split
    · exact hs
    · exact hs.demanded
    · next e =>
      have ht := hs.intern.of_snd e
      split
      · exact ht
      · split
        · next e => exact (ht.fitWalk.of_snd e).demanded
        · next e => exact ht.fitWalk.of_snd e
        · next e => exact ht.fitWalk.of_snd e
        · next e =>
          have hu := ht.fitWalk.of_snd e
          split
          · exact hu
          · split
            · exact hu.pageMiss
            · split
              · exact hu.demanded
              · refine AnswerKeeps.ite ?_ ?_
                · exact AnswerKeeps.given hu
                · exact AnswerKeeps.given hu
    · exact hs

theorem Inv.rreadServed (hs : Inv s) {side : RReadSide} : Inv (s.rreadServed side) := by
  unfold State.rreadServed
  split
  · split
    · exact .ite hs.modCore hs
    · exact hs
  · next p links region addr src ltag =>
    have hanswer : AnswerKeeps (s.rreadAnswer p links region addr src ltag) := hs.rreadAnswer
    split
    · next r e =>
      rw [e] at hanswer
      exact Inv.update hanswer
    · next t e =>
      rw [e] at hanswer
      exact hanswer

theorem Inv.earlyLoaded (hs : Inv s) {n : Nat} {st : Stream} {ea : DWord} {k : Nat} {alloc : Bool} :
    Inv (s.earlyLoaded n st ea k alloc) := by
  unfold State.earlyLoaded
  dsimp only
  refine .ite hs ?_
  split
  · exact hs
  · split
    · next e =>
      have ht := Keeps.accWhere.keeps hs.focusOn e
      refine .ite hs (.focusOn ?_)
      exact ht.touchLine.update
    · exact hs

theorem Inv.latchRead (hs : Inv s) {n : Nat} {st : Stream} {x : Nat} : Inv (s.latchRead n st x) := by
  unfold State.latchRead
  split
  · dsimp only
    split
    · exact .ite hs hs.focusOn.forEngine.update.focusOn
    · exact hs
  · dsimp only
    split
    · exact .ite hs hs.focusOn.forEngine.update.focusOn
    · exact hs

theorem Inv.hostAccessed (hs : Inv s) {mpa n : Nat} {op : HostOp} : Inv (s.hostAccessed mpa n op) := by
  unfold State.hostAccessed
  refine .ite hs ?_
  dsimp only
  split
  · exact hs.update
  · refine .written ?_
    exact hs.remember (Memory.store_wf _ _ _ _ _ hs.memory)

/-! ### Arithmetic -/

theorem Keeps.alu2 {op : DWord → DWord → DWord} {d a b : Reg} : Keeps (alu2 op d a b) :=
  .bind .readReg fun _ => .bind .readReg fun _ => .bind .writeData fun _ => .pure

theorem Keeps.alu1 {op : DWord → DWord} {d a : Reg} : Keeps (alu1 op d a) :=
  .bind .readReg fun _ => .bind .writeData fun _ => .pure

theorem Keeps.selEx {d a b : Reg} : Keeps (selEx d a b) :=
  .bind .readDest fun _ => .bind .readReg fun _ => .bind .readReg fun _ => .bind .writeData fun _ => .pure

theorem Keeps.constEx {d : Reg} {v : DWord} : Keeps (constEx d v) := .bind .writeData fun _ => .pure

theorem Keeps.lisEx {d : Reg} {imm : BitVec 20} : Keeps (lisEx d imm) :=
  .bind .readDest fun _ => .bind .writeData fun _ => .pure

/-! ### Bindings -/

theorem Keeps.awaitRange {r : Reg} : Keeps (awaitRange r) := by
  unfold Machine.awaitRange
  refine .bind .getC fun _ => ?_
  split
  · exact .ite .stall .pure
  · exact .pure

theorem Keeps.needBindable {d : Reg} : Keeps (needBindable d) :=
  .bind .awaitRange fun _ => .bind .getC fun _ => .bind .checkReg fun _ => .bind .checkReg fun _ => .checkReg

theorem Keeps.bindReg {d : Reg} {b : Binding} : Keeps (bindReg d b) := .bind .modC fun _ => .pure

theorem Keeps.sbindEx {d a b : Reg} : Keeps (sbindEx d a b) := by
  unfold Machine.sbindEx
  refine .bind .needBindable fun _ => .bind .awaitRange fun _ => .bind .awaitRange fun _ => .bind .rawRegs fun _ => ?_
  split
  · exact .bind .checkReg fun _ => .bind .checkReg fun _ => .bind .checkReg fun _ => .bindReg
  · exact .pure

theorem Keeps.qbindEx {d : Reg} {q : BitVec 2} {pop : Bool} : Keeps (qbindEx d q pop) := .bind .needBindable fun _ => .bindReg

theorem Keeps.lbindEx {d : Reg} {out fwd : Bool} : Keeps (lbindEx d out fwd) :=
  .bind .needBindable fun _ => .bind .checkReg fun _ => .bindReg

theorem Keeps.unbindEx {d : Reg} : Keeps (unbindEx d) := .bind .awaitRange fun _ => .bind .modC fun _ => .pure

theorem Keeps.bstatEx {d a : Reg} : Keeps (bstatEx d a) :=
  .bind .awaitRange fun _ => .bind .awaitRange fun _ => .getS fun _ _ => .bind .writeData fun _ => .pure

/-! ### Capabilities -/

theorem Keeps.inspectEx {f : Val → DWord} {d a : Reg} : Keeps (inspectEx f d a) :=
  .bind .readReg fun _ => .bind .writeData fun _ => .pure

theorem Keeps.needUnsealed {v : Val} {r : Reg} : Keeps (needUnsealed v r) := .checkReg

theorem Keeps.moveEx {f : DWord → DWord → DWord} {d a b : Reg} : Keeps (moveEx f d a b) :=
  .bind .readReg fun _ => .bind .readReg fun _ => .bind .needUnsealed fun _ => .bind .writeReg fun _ => .pure

theorem Keeps.cinciEx {d a : Reg} {imm : BitVec 15} : Keeps (cinciEx d a imm) :=
  .bind .readReg fun _ => .bind .needUnsealed fun _ => .bind .writeReg fun _ => .pure

theorem Keeps.boundEx {d a : Reg} {x : Val} {n : Nat} {poison : Bool} : Keeps (boundEx d a x n poison) := by
  unfold Machine.boundEx
  refine .bind .checkReg fun _ => .bind .checkReg fun _ => ?_
  split
  · exact .raise
  · exact .bind .writeReg fun _ => .pure

theorem Keeps.csetbndEx {d a b : Reg} : Keeps (csetbndEx d a b) := .bind .readReg fun _ => .bind .readReg fun _ => .boundEx

theorem Keeps.csetbiEx {d a : Reg} {len : BitVec 15} : Keeps (csetbiEx d a len) := .bind .readReg fun _ => .boundEx

theorem Keeps.candpermEx {d a b : Reg} : Keeps (candpermEx d a b) :=
  .bind .readReg fun _ => .bind .readReg fun _ => .bind .needUnsealed fun _ => .bind .getC fun _ => .bind .writeReg fun _ =>
    .pure

theorem Keeps.needAuthority {y : Val} {b : Reg} {perm : QWord → Bool} : Keeps (needAuthority y b perm) :=
  .bind .checkReg fun _ => .bind .checkReg fun _ => .checkReg

theorem Keeps.csealEx {d a b : Reg} : Keeps (csealEx d a b) :=
  .bind .readReg fun _ => .bind .readReg fun _ => .bind .checkReg fun _ => .bind .checkReg fun _ => .bind .needAuthority
    fun _ => .bind .check fun _ => .bind .writeReg fun _ => .pure

theorem Keeps.cunsealEx {d a b : Reg} : Keeps (cunsealEx d a b) :=
  .bind .readReg fun _ => .bind .readReg fun _ => .bind .checkReg fun _ => .bind .checkReg fun _ => .bind .needAuthority
    fun _ => .bind .check fun _ => .bind .writeReg fun _ => .pure

theorem Keeps.cmovEx {d a : Reg} : Keeps (cmovEx d a) := .bind .readReg fun _ => .bind .writeReg fun _ => .pure

theorem Keeps.ctestsubEx {d a b : Reg} : Keeps (ctestsubEx d a b) :=
  .bind .readReg fun _ => .bind .readReg fun _ => .bind .writeData fun _ => .pure

theorem Keeps.cclrtagEx {d a : Reg} : Keeps (cclrtagEx d a) := .bind .readReg fun _ => .bind .writeReg fun _ => .pure

/-! ### Sending -/

theorem Keeps.sendHead {f : SendForm} {a b : Reg} : Keeps (sendHead f a b) :=
  .bind .getC fun _ => .bind .rawRegs fun _ => .bind .check fun _ => .bind .check fun _ => .bind .check fun _ =>
    .bind .check fun _ => .getS fun _ _ => .bind .check fun _ => .pure

theorem Keeps.place {hdr : DWord} {body : SendBody} {copies : List Copy} : Keeps (place hdr body copies) :=
  .bind .getC fun _ => .bind .check fun _ => .ite (.bind .modC fun _ => .chargeBy) .stallThen

theorem Keeps.placeMsg {hdr : DWord} {words : List DWord} {cap : Option QWord} {poison : Bool} :
    Keeps (placeMsg hdr words cap poison) :=
  .getS fun _ _ => .ite (.bind .tableReady fun _ => .bind .place fun _ => .pure) (.bind .place fun _ => .pure)

theorem Keeps.sendEx {a b : Reg} : Keeps (sendEx a b) := by
  unfold Machine.sendEx
  refine .bind .sendHead fun _ => ?_
  split
  · exact .placeMsg

theorem Keeps.sendcEx {d a b : Reg} : Keeps (sendcEx d a b) := by
  unfold Machine.sendcEx
  refine .bind .sendHead fun _ => ?_
  split
  · exact .bind .checkReg fun _ => .bind .checkReg fun _ => .placeMsg

theorem Keeps.readPayload {cap : Val} {b : Reg} {n align : Nat} : Keeps (readPayload cap b n align) :=
  .bind .access fun _ => .bind .loadPlace fun _ => .bind .chargeGmem fun _ => .pure

theorem Keeps.senddEx {a b : Reg} : Keeps (senddEx a b) := by
  unfold Machine.senddEx
  refine .bind .sendHead fun _ => ?_
  split
  · exact .bind .getC fun _ => .ite (.bind .pure fun _ => .placeMsg) (.bind .readPayload fun _ => .placeMsg)

theorem Keeps.sendkEx {a b : Reg} : Keeps (sendkEx a b) :=
  .bind .getC fun _ => .bind .rawRegs fun _ => .bind .readPayload fun _ => .bind .check fun _ => .bind .place fun _ => .pure

theorem Keeps.postEx {d a b : Reg} : Keeps (postEx d a b) := by
  unfold Machine.postEx
  refine .bind .sendHead fun _ => ?_
  split
  · refine .getS fun _ _ => ?_
    split
    · exact .raise
    · exact .bind .place fun _ => .pure

theorem Keeps.mcastEx {d a b : Reg} : Keeps (mcastEx d a b) := by
  unfold Machine.mcastEx
  refine .bind .sendHead fun _ => ?_
  split
  · exact .getS fun _ _ => .bind .check fun _ => .bind .place fun _ => .pure

theorem Keeps.sendeEx {a b : Reg} : Keeps (sendeEx a b) := by
  unfold Machine.sendeEx
  refine .bind .sendHead fun _ => ?_
  split
  · refine .bind .getC fun _ => .bind .check fun _ => ?_
    split
    · exact .bind .check fun _ => .placeMsg
    · exact .raise

theorem Keeps.rreadBegin {d a b : Reg} : Keeps (rreadBegin d a b) :=
  .bind .readClean fun _ => .bind .readReg fun _ => .bind .accCap fun _ => .bind .accAlign fun _ => .bind .check fun _ =>
    .getS fun _ _ => .ite (.bind .loadVal fun _ => .bind .writeReg fun _ => .pure) (.bind .dryRun fun _ => .bind .modC fun _ =>
      .pure)

theorem Keeps.rreadEx {d a b : Reg} : Keeps (rreadEx d a b) := by
  unfold Machine.rreadEx
  refine .bind .getC fun _ => ?_
  split
  · exact .rreadBegin
  · split
    · exact .pure
    · exact .error
    · exact .getS fun _ _ => .bind .modC fun _ => .bind .chargeBy fun _ => .bind .writeData fun _ => .pure

theorem Inv.releaseAtEnd (hs : Inv s) : Inv s.releaseAtEnd := by
  unfold State.releaseAtEnd
  split
  · exact hs
  · exact hs
  · exact hs.drain
  · exact hs.releaseFor

theorem Inv.launchEngines (hs : Inv s) : Inv s.launchEngines := hs.update.foldl fun _ _ ht => ht.launchCmd

theorem Inv.settleMeter (hs : Inv s) : Inv s.settleMeter := .ite hs.settle.update hs.settle

theorem Inv.taskGone (hs : Inv s) : Inv s.taskGone := hs.update.settleMeter.update

theorem Inv.noteHolder (hs : Inv s) : Inv s.noteHolder := by
  unfold State.noteHolder
  split
  · exact hs
  · split
    · exact .ite hs.modPart (.ite hs.modPart hs)
    · exact .ite hs.modPart hs

theorem Keeps.endEx : Keeps endEx := by
  unfold Machine.endEx
  refine .bind .getC fun _ => .ite ?_ ?_
  · exact .stallThen
  · split
    · exact .raise
    · exact .bind (.modS fun _ hs => hs.releaseAtEnd) fun _ => .bind (.modS fun _ hs => hs.noteHolder) fun _ =>
        .bind .modC fun _ => .bind (.modS fun _ hs => hs.launchEngines) fun _ => .bind (.modS fun _ hs => hs.taskGone) fun _ =>
          .pure

theorem Keeps.abortEx : Keeps abortEx :=
  .bind .getC fun _ => .ite .stallThen (.bind .modC fun _ => .bind (.modS fun _ hs => hs.taskGone) fun _ => .pure)

/-! ### Local time -/

theorem Inv.evDispatch (hs : Inv s) {n : Nat} : Inv (s.evDispatch n) := by
  unfold State.evDispatch
  split
  · exact hs
  · exact hs.modCore

theorem Inv.zeroForget (hs : Inv s) {n : Nat} : Inv (s.zeroForget n) := by
  unfold State.zeroForget
  split
  · exact hs
  · exact hs.modPart

theorem Keeps.needOn : Keeps needOn := .bind .getC fun _ => .check

theorem Keeps.ltonEx {a : Reg} : Keeps (ltonEx a) := by
  unfold Machine.ltonEx
  refine .bind .readClean fun _ => .getS fun _ _ => .ite ?_ (.bind .modC fun _ => ?_)
  all_goals
    dsimp only
    split
    · exact .pure
    · split
      · exact .raise
      · exact .bind (.modS fun _ ht => ht.modPart) fun _ => .pure

theorem Keeps.ltoffEx : Keeps ltoffEx := .bind .needOn fun _ => .bind (.modS fun _ hs => hs.update.zeroForget) fun _ => .pure

theorem Keeps.ltclkEx {d a : Reg} : Keeps (ltclkEx d a) :=
  .bind .readClean fun _ => .bind .needOn fun _ => .getS fun _ _ => .bind .writeData fun _ => .pure

theorem Keeps.ltchanEx {a : Reg} : Keeps (ltchanEx a) :=
  .bind .readClean fun _ => .bind .getC fun _ => .bind .check fun _ => .ite (.bind .modC fun _ => .pure) (.bind .modC fun _ =>
    .pure)

theorem Keeps.announce : Keeps announce := .getS fun _ _ => .bind .place fun _ => .pure

theorem Keeps.ltannEx : Keeps ltannEx := .bind .needOn fun _ => .announce

theorem Keeps.ltnullEx {a : Reg} : Keeps (ltnullEx a) :=
  .bind .readClean fun _ => .bind .needOn fun _ => .bind .modC fun _ => .announce

theorem Inv.sendClock (hs : Inv s) {n : Nat} {word1 : DWord} {chans : List Nat} : Inv (s.sendClock n word1 chans) :=
  .ite hs hs.modCore

theorem Inv.sendProbe (hs : Inv s) {n i : Nat} : Inv (s.sendProbe n i) := by
  unfold State.sendProbe
  exact hs.sendClock.modCore

theorem Inv.probeRound (hs : Inv s) {n : Nat} : Inv (s.probeRound n) := by
  unfold State.probeRound
  dsimp only
  split
  · exact .ite (Inv.ite hs.sendProbe hs).sendProbe.modCore (.ite hs.sendProbe hs)
  · exact .ite hs.sendProbe hs

theorem Inv.round (hs : Inv s) {n : Nat} : Inv (s.round n) := by
  unfold State.round
  dsimp only
  split
  · exact hs.modCore
  · split
    · refine .modCore ?_
      refine .probeRound ?_
      split
      · exact .ite hs.update.modCore.sendClock hs.update
      · exact hs.update
    · exact hs

theorem Inv.raiseZerola (hs : Inv s) {n initiator : Nat} : Inv (s.raiseZerola n initiator) := hs.modCore

theorem Inv.probeArrives (hs : Inv s) {n : Nat} {ch : InChan} {word1 : DWord} : Inv (s.probeArrives n ch word1) := by
  unfold State.probeArrives
  split
  · exact .ite hs (.ite (.ite hs.raiseZerola.sendClock hs) (.ite hs.modCore hs))
  · dsimp only
    split
    · split
      · exact hs.raiseZerola.sendClock
      · exact hs
    · exact hs

theorem Inv.dropEvents (hs : Inv s) {n cause : Nat} : Inv (s.dropEvents n cause) := by
  unfold State.dropEvents
  refine hs.foldl fun _ _ ht => ?_
  dsimp only
  split
  · exact .ite ht ht.modCore.report
  · exact ht

theorem Inv.serveZerola (hs : Inv s) {n initiator : Nat} : Inv (s.serveZerola n initiator) := hs.modCore.dropEvents.zeroForget

theorem Inv.zerolaEntry (hs : Inv s) {n : Nat} : Inv (s.zerolaEntry n) := by
  unfold State.zerolaEntry
  dsimp only
  split
  · exact hs
  · split
    · exact hs
    · exact hs.modCore.serveZerola

/-! ### Sampling -/

theorem Keeps.smparmEx {a b : Reg} : Keeps (smparmEx a b) :=
  .bind .readReg fun _ => .bind .readReg fun _ => .bind .checkReg fun _ => .bind .checkReg fun _ => .bind .getC fun _ =>
    .bind .check fun _ => .bind .modC fun _ => .pure

theorem Keeps.smpinjEx {a b : Reg} : Keeps (smpinjEx a b) := by
  unfold Machine.smpinjEx
  refine .bind .rawRegs fun _ => ?_
  split
  · exact .getS fun _ _ => .bind .check fun _ => .bind .place fun _ => .pure
  · exact .pure

theorem Keeps.smpgetEx {d a : Reg} : Keeps (smpgetEx d a) :=
  .bind .readClean fun _ => .bind .modC fun _ => .bind .getC fun _ => .bind .writeReg fun _ => .pure

end Sys2Proof.Claims
end

section
/-! PROOF. O58: messages, front ends, scheduling, launches, partitions and saved contexts keep the invariant. -/

namespace Sys2Proof.Claims
open Sys2Proof.Machine
variable {s : State} {α : Type}

/-! ### Messages that travel -/

theorem Inv.setSends (hs : Inv s) {u : Sender} {l : List SendEntry} : Inv (s.setSends u l) := by
  unfold State.setSends
  split
  · exact hs.modCore
  · exact hs.modCore
  · exact hs.modDie
  · exact hs.modDie

theorem Inv.setCopy (hs : Inv s) {u : Sender} {slot i : Nat} {f : Copy → Copy} : Inv (s.setCopy u slot i f) := hs.setSends

theorem Inv.dropCopy (hs : Inv s) {u : Sender} {slot i : Nat} : Inv (s.dropCopy u slot i) := hs.setSends

theorem Inv.clockArrives (hs : Inv s) {n : Nat} {m : Msg} : Inv (s.clockArrives n m) := by
  unfold State.clockArrives
  dsimp only
  split
  · exact hs.modCore
  · exact hs.modCore.probeArrives

/-- What an arrival comes to keeps the invariant. -/
def ArrivalKeeps : Arrival → Prop
  | .accepted s => Inv s
  | _ => True

theorem ArrivalKeeps.accepted {r : Arrival} (h : ArrivalKeeps r) {t : State} (e : r = .accepted t) : Inv t := by
  subst e
  exact h

theorem Inv.arrive (hs : Inv s) {m : Msg} {n : Nat} {retry : Bool} : ArrivalKeeps (s.arrive m n retry) := by
  unfold State.arrive
  split
  · trivial
  · dsimp only
    split
    · split
      · trivial
      · split
        · trivial
        · exact hs.modCore
    · split
      · exact hs.decrement
      · split
        · exact hs.clockArrives
        · split
          · exact hs.modCore
          · split
            · trivial
            · exact hs.setCore

theorem Inv.arriveFar (hs : Inv s) {m : Msg} {n : Nat} {retry : Bool} : ArrivalKeeps (s.arriveFar m n retry) := by
  unfold State.arriveFar
  dsimp only
  split
  · trivial
  · split
    · split
      · exact hs.modCore
      · exact hs.arrive
    · split
      · next h t hintern =>
        have ht : Inv t := hs.intern.of_snd hintern
        split
        · trivial
        · exact ht.arrive
      · trivial
      · trivial
      · exact hs.modCore

theorem Inv.deliver (hs : Inv s) {kind : Nat} {src : MsgSrc} : Inv (s.deliver kind src) := by
  unfold State.deliver
  split
  · split
    · split
      · next e => exact hs.arriveFar.accepted e
      · exact hs.demanded
      · exact hs
    · exact hs
  · split
    · exact hs
    · split
      · split
        · next e =>
          have ht := hs.arrive.accepted e
          dsimp only
          refine .dropCopy ?_
          split
          · exact ht.modCore
          · exact ht
        · exact hs.setCopy
        · exact hs
        · exact hs.demanded
      · exact hs
  · split
    · exact hs
    · split
      · split
        · exact hs.dropCopy
        · exact hs.setCopy
        · exact hs.setCopy
        · exact .ite hs hs.setCopy
        · exact hs
      · exact hs

theorem Inv.handOver (hs : Inv s) {u : Sender} {slot i : Nat} {o : Outgoing} {why : Reason} :
    Inv (s.handOver u slot i o why) := by
  unfold State.handOver
  refine .dropCopy ?_
  split
  · exact (Inv.ite hs.modCore hs).modCore
  · exact (Inv.ite hs.modCore hs).modCore
  · exact (Inv.ite hs.modCore hs).report

theorem Inv.handAll {u : Sender} {m : BitVec 12} {k : Nat} (hs : Inv s) : Inv (s.handAll u m k) := by
  induction k generalizing s with
  | zero => exact hs
  | succ k ih =>
    unfold State.handAll
    split
    · exact ih hs.handOver
    · exact hs

theorem Inv.lostModule (hs : Inv s) {m : BitVec 12} : Inv (s.lostModule m) := by
  unfold State.lostModule
  split
  · exact hs
  · exact Inv.foldl hs.update fun _ _ ht => ht.handAll

theorem Inv.refused (hs : Inv s) {u : Sender} {slot i : Nat} : Inv (s.refused u slot i) := by
  unfold State.refused
  split
  · exact hs
  · split
    · split
      · exact hs.dropCopy
      · exact .ite hs.handOver hs.setCopy
    · exact hs

theorem Inv.retry (hs : Inv s) {u : Sender} {slot i : Nat} : Inv (s.retry u slot i) := by
  unfold State.retry
  split
  · exact hs
  · split
    · exact hs.update.setCopy
    · exact hs

theorem Inv.combine (hs : Inv s) {u v : Sender} {slotU copyU slotV copyV : Nat} :
    Inv (s.combine u v slotU copyU slotV copyV) := by
  unfold State.combine
  split
  · exact .ite hs.setSends.dropCopy hs
  · exact hs

theorem Inv.decrementArrives (hs : Inv s) {i : Nat} : Inv (s.decrementArrives i) := by
  unfold State.decrementArrives
  split
  · exact hs
  · exact hs.update.decrement

theorem Inv.flipArrives (hs : Inv s) {i : Nat} : Inv (s.flipArrives i) := by
  unfold State.flipArrives
  split
  · exact hs
  · exact hs.update.modCore

/-! ### Front ends -/

theorem Inv.mirror (hs : Inv s) {b : Qsb} : Inv (s.mirror b) := hs.putWord

theorem Inv.queueError (hs : Inv s) {q : Nat} {reason : Byte} {fidx : BitVec 32} : Inv (s.queueError q reason fidx) := by
  unfold State.queueError
  dsimp only
  split
  · exact hs.modWindow.mirror
  · exact hs.modWindow

theorem Inv.packetError (hs : Inv s) {k : Packet} {reason : Byte} : Inv (s.packetError k reason) := by
  unfold State.packetError
  split
  · exact hs.queueError
  · exact hs

/-- What a front end's store comes to keeps the invariant. -/
def FrontKeeps : FrontEnd → Prop
  | .done s => Inv s
  | .waits s => Inv s
  | .failed => True

theorem FrontKeeps.done {r : FrontEnd} (h : FrontKeeps r) {t : State} (e : r = .done t) : Inv t := by
  subst e
  exact h

theorem FrontKeeps.waits {r : FrontEnd} (h : FrontKeeps r) {t : State} (e : r = .waits t) : Inv t := by
  subst e
  exact h

theorem Inv.frontStore (hs : Inv s) {p : Nat} {chain ltag : BitVec 16} {addr v : DWord} {near : Option Nat} {who : FrontWait} :
    FrontKeeps (s.frontStore p chain ltag addr v near who) := by
  unfold State.frontStore
  split
  · trivial
  · split
    · exact hs.demanded
    · trivial
    · exact hs.agentStore
    · split
      · trivial
      · exact hs
      · exact hs.pageMiss
      · exact hs.demanded
      · exact hs.agentStore

theorem Inv.offer (hs : Inv s) {src : PktSrc} {kind : Nat} {t : State} (e : s.offer src kind = .error t) : Inv t := by
  unfold State.offer at e
  split at e
  · split at e
    · cases e
      exact hs
    · split at e <;> cases e
      exact hs
  · split at e
    · cases e
      exact hs
    · split at e
      · cases e
        exact hs
      · split at e
        · cases e
          exact hs
        · cases e
          exact hs.pageMiss
        · cases e
          exact hs.demanded
        · cases e
          exact hs.queueError
        · split at e
          · cases e
            exact hs.queueError
          · split at e <;> cases e
            exact hs

theorem Inv.pastTaken {q k : Nat} {i : BitVec 32} (hs : Inv s) : Inv (s.pastTaken q i k).2 := by
  induction k generalizing s i with
  | zero => exact hs
  | succ k ih =>
    unfold State.pastTaken
    split
    · exact ih hs.update
    · exact hs

theorem Inv.take (hs : Inv s) {o : Offer} : Inv (s.take o) := by
  unfold State.take
  split
  · exact hs.modDie
  · refine .modDie (.modWindow (.putWord (.pastTaken ?_)))
    exact hs.modWindow.update

theorem Inv.onPacket (hs : Inv s) {src : PktSrc} {kind : Nat} {f : State → Offer → State} (hf : ∀ {t o}, Inv t → Inv (f t o)) :
    Inv (s.onPacket src kind f) := by
  unfold State.onPacket
  split
  · next e => exact hs.offer e
  · exact hf hs.take

/-! ### The kernel of a core -/

theorem Inv.removeStart (hs : Inv s) {n : Nat} {t : Trigger} {ltag : BitVec 16} {cause : Nat} :
    Inv (s.removeStart n t ltag cause) := hs.modCore.report

theorem Inv.parkStart (hs : Inv s) {n : Nat} {t : Trigger} {tag : BitVec 12} : Inv (s.parkStart n t tag) := hs.modCore

theorem Inv.kernelCharge (hs : Inv s) {n : Nat} : Inv (s.kernelCharge n) := hs.settle

theorem Inv.kernelSend (hs : Inv s) {n prio cls dmod dcore : Nat} {words : List DWord} {chain : BitVec 16} {work : DWord}
    {ltag : BitVec 16} :
    Inv (s.kernelSend n prio cls dmod dcore words chain work ltag) := hs.niSend

theorem Inv.lateFrame (hs : Inv s) {n : Nat} {v : Service} {dsd : DWord} : Inv (s.lateFrame n v dsd) := by
  unfold State.lateFrame
  split
  · exact hs
  · exact hs.kernelSend

theorem Inv.copySlate {p src dst k : Nat} (hs : Inv s) : Inv (s.copySlate p src dst k) := by
  induction k generalizing s src dst with
  | zero => exact hs
  | succ k ih => exact ih hs.setGuestWord

theorem Inv.slateCopied (hs : Inv s) {p grp : Nat} : Inv (s.slateCopied p grp) := hs.copySlate

theorem Inv.slateBegin (hs : Inv s) {n : Nat} {v : Service} {t : State} (e : s.slateBegin n v = some t) : Inv t := by
  unfold State.slateBegin at e
  split at e
  · obtain ⟨op, -, rfl⟩ := Option.map_eq_some_iff.mp e
    exact hs.slateCopied.drain.modCore
  · cases e

theorem Inv.thimbleTrapped (hs : Inv s) {n : Nat} {v : Service} : Inv (s.thimbleTrapped n v) := by
  unfold State.thimbleTrapped
  split
  · dsimp only
    split
    · exact hs.modPart.kernelSend
    · exact hs.modPart
  · exact hs

theorem Inv.dispose (hs : Inv s) {n : Nat} {v : Service} : Inv (s.dispose n v) := by
  unfold State.dispose
  split
  · split
    · exact hs.parkStart
    · exact hs
  · refine .removeStart ?_
    refine .thimbleTrapped ?_
    split
    · exact hs.lateFrame
    · exact hs

/-! ### Windows -/

theorem Keeps.wsetEx {w : BitVec 4} {a : Reg} : Keeps (wsetEx w a) :=
  .bind .readClean fun _ => .bind .check fun _ => .bind .modC fun _ => .pure

theorem Keeps.wgetEx {d : Reg} {w : BitVec 4} : Keeps (wgetEx d w) := .bind .getC fun _ => .bind .writeReg fun _ => .pure

theorem Keeps.dtloadEx {a : Reg} {tblB : Bool} : Keeps (dtloadEx a tblB) := by
  unfold Machine.dtloadEx
  refine .bind .readReg fun _ => .bind .accCap fun _ => .bind .accAlign fun _ => .getS fun _ _ => ?_
  split
  · exact .raise
  · exact .bind .accFit fun _ => .bind (.keepingWalk .awaitMarks) fun _ => .bind .loadRuns fun _ => .bind .modC fun _ =>
      .bind .raiseFlags fun _ => .pure

/-! ### Scheduling -/

theorem Inv.writeData (hs : Inv s) {n : Nat} {ws : List (Nat × DWord × Bool)} : Inv (s.writeData n ws) :=
  hs.foldl fun _ _ ht => ht.agentStore

theorem Inv.begin (hs : Inv s) {n : Nat} {t : Trigger} : Inv (s.begin n t) := by
  unfold State.begin
  split
  · split
    · exact hs.demanded.rests
    · dsimp only
      split
      · exact hs.writeData.modCore
      · exact hs.writeData.modCore.focusOn.trapEntry.focusOn
  · split
    · exact hs.modCore.report
    · exact hs.modCore

theorem Inv.unpark (hs : Inv s) {n : Nat} {tag : BitVec 12} {retry : Bool} : Inv (s.unpark n tag retry) :=
  .ite (hs.modCore.foldl fun _ _ ht => ht.modCore) (hs.modCore.foldl fun _ _ ht => ht.removeStart)

theorem Inv.systemMsg (hs : Inv s) {n slot : Nat} : Inv (s.systemMsg n slot) := by
  unfold State.systemMsg
  exact hs.modCore

theorem Inv.kernelWork (hs : Inv s) {n : Nat} {w : KWork} : Inv (s.kernelWork n w) := by
  unfold State.kernelWork
  split
  · exact hs.systemMsg
  · exact hs.report
  · exact hs.unpark
  · exact hs
  · exact hs.serveZerola

theorem Inv.recordsDue (hs : Inv s) : Inv s.recordsDue := hs.foldl fun _ _ ht => ht.modDie.foldl fun _ _ hu => hu.errRecord

theorem Inv.dyingEnds (hs : Inv s) {p : Nat} : Inv (s.dyingEnds p) := .ite hs.modPart.recordsDue hs

theorem Inv.terminateNow (hs : Inv s) {p : Nat} : Inv (s.terminateNow p) :=
  ((hs.modPart.update.foldl fun _ _ ht => ht.modCore).foldl fun _ _ ht => ht.modDie).dyingEnds

theorem Inv.terminate (hs : Inv s) {p : Nat} : Inv (s.terminate p) := .ite hs.modPart hs.terminateNow

theorem Inv.idle (hs : Inv s) {n : Nat} : Inv (s.idle n) := hs.modCore.rests

theorem Inv.dispatchTask (hs : Inv s) {n : Nat} : Inv (s.dispatchTask n) := by
  unfold State.dispatchTask
  split
  · dsimp only
    split
    · exact hs
    · split
      · exact hs.installNext
      · split
        · exact hs.modCore.kernelWork.kernelCharge
        · exact hs.idle
  · split
    · dsimp only
      split
      · exact hs
      · split
        · exact hs.installNext
        · split
          · exact hs.modCore.kernelWork.kernelCharge
          · exact hs.modCore.dyingEnds.rests
    · dsimp only
      split
      · exact hs
      · split
        · exact hs.installNext
        · split
          · exact hs.modCore.kernelWork.kernelCharge
          · split
            · exact hs.rests
            · split
              · exact hs.begin
              · exact hs.idle

theorem Inv.budgetTrap (hs : Inv s) : Inv s.budgetTrap := .ite hs.update.trapEntry hs.update.takeTrap

theorem Inv.budgetExpiry (hs : Inv s) {n : Nat} : Inv (s.budgetExpiry n) := by
  unfold State.budgetExpiry
  split
  · exact hs
  · exact hs.update.focusOn.budgetTrap.focusOn

theorem Inv.age (hs : Inv s) {n q i : Nat} : Inv (s.age n q i) := by
  unfold State.age
  split
  · exact hs
  · exact hs
  · exact .ite hs hs.update.modCore

theorem Inv.moveTasks {n m k : Nat} (hs : Inv s) : Inv (s.moveTasks n m k) := by
  induction k generalizing s with
  | zero => exact hs
  | succ k ih =>
    unfold State.moveTasks
    split
    · exact hs
    · exact ih hs.modCore

theorem Inv.balance (hs : Inv s) {n : Nat} : Inv (s.balance n) := by
  unfold State.balance
  split
  · exact hs
  · dsimp only
    split
    · exact hs
    · refine .kernelCharge (.foldl (.foldl hs fun _ _ ht => ht.niSend) fun _ _ ht => ?_)
      split
      · exact .ite ht.moveTasks ht
      · exact ht

/-! ### Launches -/

theorem Inv.modLaunch (hs : Inv s) {p : Nat} {tag : BitVec 16} {f : Launch → Launch} : Inv (s.modLaunch p tag f) := hs.update

theorem Inv.keyRead (hs : Inv s) {l : Launch} {k : StreamKey} : FrontKeeps (s.keyRead l k) := by
  unfold State.keyRead
  split
  · trivial
  · split
    · exact hs.demanded
    · trivial
    · trivial
    · exact hs
    · exact hs.pageMiss
    · exact hs.demanded
    · dsimp only
      split
      · exact hs
      · trivial

theorem Inv.keyWrite (hs : Inv s) {l : Launch} {k : StreamKey} : FrontKeeps (s.keyWrite l k) := by
  unfold State.keyWrite
  split
  · trivial
  · exact hs
  · exact hs.pageMiss
  · exact hs.demanded
  · exact hs.agentStore

theorem Inv.settleKey (hs : Inv s) {l : Launch} : Inv (s.settleKey l) := by
  unfold State.settleKey
  split
  · exact hs
  · dsimp only
    split
    · exact hs.modLaunch
    · next e => exact hs.keyRead.waits e
    · split
      · exact hs.modLaunch
      · split
        · exact hs.modLaunch
        · next e => exact hs.keyWrite.waits e
        · next e => exact (hs.keyWrite.done e).modLaunch

theorem Inv.admitted (hs : Inv s) {o : Offer} {tag : BitVec 16} : Inv (s.admitted o tag) := by
  unfold State.admitted
  dsimp only
  split
  · exact hs.update
  · split
    · exact hs.update.settleKey
    · split
      · exact hs.update
      · exact hs.update

theorem Inv.dispatchPacket (hs : Inv s) {src : PktSrc} {kind tag : Nat} : Inv (s.dispatchPacket src kind tag) := by
  unfold State.dispatchPacket
  split
  · next e => exact hs.offer e
  · split
    · exact hs.demanded
    · exact .ite hs.take.admitted hs

theorem Inv.frontSend (hs : Inv s) {d : Nat} {m : Msg} {core : Nat} : Inv (s.frontSend d m core) := hs.modDie

theorem Inv.holdGang (hs : Inv s) {l : Launch} {k : Nat} : Inv (s.holdGang l k) := by
  unfold State.holdGang
  refine hs.foldl fun _ _ ht => ?_
  split
  · exact ht.modCore
  · exact ht

theorem Inv.taskSend (hs : Inv s) {p : Nat} {tag : BitVec 16} : Inv (s.taskSend p tag) := by
  unfold State.taskSend
  split
  · exact hs
  · split
    · exact .ite hs hs.settleKey
    · split
      · exact hs
      · dsimp only
        split
        · exact hs
        · split
          · exact (Inv.ite hs.holdGang hs).modLaunch.report
          · exact (Inv.ite hs.holdGang hs).modLaunch.frontSend

theorem Inv.sendkArrives (hs : Inv s) {n slot : Nat} : Inv (s.sendkArrives n slot) := by
  unfold State.sendkArrives
  split
  · split
    · exact hs.modCore.modDie
    · exact hs
  · exact hs

theorem Inv.dropRoutine (hs : Inv s) {p : Nat} {r : Byte} : Inv (s.dropRoutine p r) :=
  .ite hs (hs.modPart.foldl fun _ _ ht => ht.modCore)

theorem Inv.uninstallEnds (hs : Inv s) : Inv s.uninstallEnds := by
  unfold State.uninstallEnds
  refine hs.update.foldl fun _ _ ht => ?_
  split
  · exact ht.dropRoutine.packetDone
  · exact ht

theorem Inv.closeLaunch (hs : Inv s) {l : Launch} : Inv (s.closeLaunch l) := hs.update.packetDone.uninstallEnds.dyingEnds

theorem Inv.drainPart (hs : Inv s) {p : Nat} : Inv (s.drainPart p) := hs.foldl fun _ _ ht => ht.drain.land

theorem Inv.recordDropped (hs : Inv s) {l : Launch} : Inv (s.recordDropped l) := hs.packetError.closeLaunch

theorem Inv.launchCompletes (hs : Inv s) {p : Nat} {tag : BitVec 16} : Inv (s.launchCompletes p tag) := by
  unfold State.launchCompletes
  split
  · exact hs.dyingEnds
  · split
    · have ht : Inv (s.drainPart p) := hs.drainPart
      dsimp only
      split
      · exact ht.closeLaunch
      · split
        · next e => exact (ht.frontStore.done e).closeLaunch
        · next e => exact ht.frontStore.waits e
        · exact ht.recordDropped
    · exact hs

theorem Inv.reportArrives (hs : Inv s) {i : Nat} : Inv (s.reportArrives i) := by
  unfold State.reportArrives
  split
  · exact hs
  · exact hs.update.modLaunch

/-! ### Packets -/

theorem Inv.doorbell (hs : Inv s) {a : RegAgent} {q : Nat} {v : BitVec 32} : Inv (s.doorbell a q v) := by
  unfold State.doorbell
  split
  · dsimp only
    split
    · exact .ite hs.modWindow.queueError hs.modWindow
    · exact hs.modWindow
  · exact hs

theorem Inv.errClear (hs : Inv s) {q : Nat} : Inv (s.errClear q) := by
  unfold State.errClear
  dsimp only
  split
  · exact hs.modWindow.mirror
  · exact hs.modWindow

theorem Inv.visit (hs : Inv s) {d p : Nat} {b : Qsb} : Inv (s.visit d p b) := by
  unfold State.visit
  dsimp only
  split
  · exact hs.modWindow.mirror
  · split
    · exact hs.modWindow.mirror.queueError
    · split
      · exact hs.modWindow.mirror
      · split
        · exact hs.modWindow.mirror.queueError
        · split
          · exact .ite hs.modWindow.mirror.modDie.queueError hs.modWindow.mirror.modDie
          · exact hs.modWindow.mirror.modDie.queueError
          · exact hs.modWindow.mirror.modDie.pageMiss
          · exact hs.modWindow.mirror.modDie.demanded
          · exact hs.modWindow.mirror.modDie

theorem Inv.walk (hs : Inv s) {d p : Nat} : Inv (s.walk d p) := .ite hs.modDie hs.modDie.visit

theorem Inv.giveImage (hs : Inv s) {p : Nat} {r : Byte} {job : Nat} {cores : List Nat} : Inv (s.giveImage p r job cores) :=
  hs.foldl fun _ _ ht => ht.modCore

theorem Inv.installPacket (hs : Inv s) {src : PktSrc} : Inv (s.installPacket src) := by
  unfold State.installPacket
  split
  · next e => exact hs.offer e
  · dsimp only
    split
    · exact hs
    · exact hs.pageMiss
    · exact hs.demanded
    · exact hs.packetError
    · refine .ite hs.packetError (.installEnds (.giveImage ?_))
      exact hs.take.modPart.update

theorem Inv.uninstallPacket (hs : Inv s) {src : PktSrc} : Inv (s.uninstallPacket src) :=
  hs.onPacket fun ht => by exact (ht.modPart.update).uninstallEnds

theorem Inv.copyPacket (hs : Inv s) {src : PktSrc} {tag : Nat} : Inv (s.copyPacket src tag) := by
  unfold State.copyPacket
  split
  · next e => exact hs.offer e
  · exact .ite hs.take.update.startJob hs

theorem Inv.nopPacket (hs : Inv s) {src : PktSrc} : Inv (s.nopPacket src) := hs.onPacket fun ht => ht.packetDone

theorem Inv.signalPacket (hs : Inv s) {src : PktSrc} : Inv (s.signalPacket src) :=
  hs.onPacket fun ht => .ite ht.modWindow.packetDone ht.packetError

theorem Inv.storeTried (hs : Inv s) {k : Packet} {chain : BitVec 16} {addr : DWord} {value : Option DWord} :
    Inv (s.storeTried k chain addr value) := by
  unfold State.storeTried
  dsimp only
  split
  · next e => exact (hs.frontStore.done e).packetDone
  · next e => exact (hs.frontStore.waits e).update
  · exact hs.packetError

theorem Inv.storePacket (hs : Inv s) {src : PktSrc} {kind : Nat} {value : Offer → Option DWord} :
    Inv (s.storePacket src kind value) := hs.onPacket fun ht => ht.storeTried

theorem Inv.storeAnswered (hs : Inv s) {q : Nat} {i : BitVec 32} {retry : Bool} : Inv (s.storeAnswered q i retry) := by
  unfold State.storeAnswered
  split
  · exact hs
  · split
    · exact .ite hs.update.storeTried hs.update.packetError
    · exact hs

/-! ### Partitions and panels -/

theorem Inv.requestsRead (hs : Inv s) {p : Nat} {v : BitVec 32} : Inv (s.requestsRead p v) := hs.modPart.issueReqs

theorem Inv.jobAnswered (hs : Inv s) {x : Nat × Nat} {retry : Bool} : Inv (s.jobAnswered x retry) := by
  unfold State.jobAnswered
  split
  · exact hs
  · split
    · exact hs
    · exact .ite hs (.ite hs.closeJob hs.update)

theorem Inv.frontAnswered (hs : Inv s) {w : FrontWait} {retry : Bool} : Inv (s.frontAnswered w retry) := by
  unfold State.frontAnswered
  split
  · exact .ite hs hs.queueError
  · exact .ite hs hs.queueError
  · exact hs.storeAnswered
  · split
    · exact .ite hs hs.recordDropped
    · exact hs
  · exact .ite hs hs.modLaunch

theorem Inv.reply (hs : Inv s) {p : Nat} {tag : BitVec 12} {retry : Bool} : Inv (s.reply p tag retry) := by
  unfold State.reply
  split
  · exact hs
  · exact (((hs.modPart.foldl fun _ _ ht => ht.modCore).foldl fun _ _ ht => ht.jobAnswered).foldl fun _ _ ht =>
      ht.frontAnswered).issueReqs

theorem Inv.readReplies {p k : Nat} (hs : Inv s) : Inv (s.readReplies p k) := by
  induction k generalizing s with
  | zero => exact hs
  | succ k ih =>
    unfold State.readReplies
    dsimp only
    split
    · exact hs
    · exact ih (.reply hs.modPart)

theorem Inv.published (hs : Inv s) {p : Nat} {v : BitVec 32} : Inv (s.published p v) := .ite hs.modPart.readReplies hs.modPart

theorem Inv.kernelReplies (hs : Inv s) {n : Nat} : Inv (s.kernelReplies n) := by
  unfold State.kernelReplies
  dsimp only
  split
  · split
    · exact hs.modCore.unpark.kernelCharge
    · exact hs
  · exact hs

theorem Inv.xlFlushed (hs : Inv s) {p : Nat} : Inv (s.xlFlushed p) := hs.modPart.ptcDrop

theorem Inv.occupy (hs : Inv s) {p panel : Nat} : Inv (s.occupy p panel) :=
  .foldl (hs.modDie_occ fun _ hx => aset_rising _ _ _ hx) fun _ _ ht => ht.modCore

theorem Inv.vacate (hs : Inv s) {panel : Nat} : Inv (s.vacate panel) := hs.modDie_occ fun _ hx => aerase_rising _ _ hx

theorem Inv.enabled (hs : Inv s) {p : Nat} {v : Bool} : Inv (s.enabled p v) :=
  .ite (hs.modPart.foldl fun _ _ ht => ht.occupy) hs.modPart

theorem Inv.setBit (hs : Inv s) {base panel : Nat} {v : Bool} : Inv (s.setBit base panel v) :=
  .ite (hs.remember (Memory.setByte_wf _ _ hs.memory)) hs

theorem Inv.setPanelBit (hs : Inv s) {p panel : Nat} {v : Bool} : Inv (s.setPanelBit p panel v) := hs.setBit

theorem Inv.resized (hs : Inv s) {p : Nat} {tag : BitVec 16} : Inv (s.resized p tag) := hs.modLaunch

theorem Inv.rehash (hs : Inv s) {p : Nat} {m : Msg} : Inv (s.rehash p m) := by
  unfold State.rehash
  split
  · exact hs.report
  · split
    · exact hs.report
    · exact hs.frontSend

theorem Inv.evictStart (hs : Inv s) {n p : Nat} {t : Trigger} : Inv (s.evictStart n p t) := by
  unfold State.evictStart
  dsimp only
  split
  · exact hs.modCore.rehash
  · exact hs.modCore.resized

theorem Inv.evictCore (hs : Inv s) {n p : Nat} : Inv (s.evictCore n p) := .ite hs (hs.foldl fun _ _ ht => ht.evictStart)

theorem Inv.abortGang (hs : Inv s) {l : Launch} {g : Nat} : Inv (s.abortGang l g) :=
  (hs.foldl fun _ _ ht => ht.modCore).modDie.modLaunch

theorem Inv.panelFlushed (hs : Inv s) {panel : Nat} : Inv (s.panelFlushed panel) :=
  (hs.foldl fun _ _ ht => ht.drain.land.releaseAll.modCore).update

theorem Inv.panelCleared (hs : Inv s) {panel : Nat} : Inv (s.panelCleared panel) := by
  refine .foldl (hs.remember ?_) fun _ _ ht => ht.modCore
  exact Memory.clear_wf _ _ (foldl_wf _ (fun _ _ h => Memory.clear_wf _ _ h) _ _ hs.memory)

theorem Inv.removeBegins (hs : Inv s) {p panel : Nat} : Inv (s.removeBegins p panel) :=
  .ite ((hs.foldl fun _ _ ht => ht.abortGang).foldl fun _ _ ht => ht.evictCore) (hs.foldl fun _ _ ht => ht.abortGang)

theorem Inv.removeEnds (hs : Inv s) {p panel : Nat} : Inv (s.removeEnds p panel) := by
  unfold State.removeEnds
  exact (Inv.ite (hs.foldl fun _ _ ht => ht.evictCore).panelFlushed.panelCleared.vacate hs).setPanelBit.modPart

theorem Inv.addBegins (hs : Inv s) {p panel : Nat} : Inv (s.addBegins p panel) :=
  (Inv.ite hs.setPanelBit.occupy hs.setPanelBit).update.foldl fun _ _ ht => ht.giveImage

/-- A panel command begun or ended changes no occupant. -/
theorem Inv.modHead (hs : Inv s) {d : Nat} {f : PanelCmd → Option PanelCmd} : Inv (s.modDie d fun x => x.modHead f) := by
  refine hs.modDie fun x => ?_
  unfold Die.modHead
  split <;> rfl

theorem Inv.panelStep (hs : Inv s) {d : Nat} : Inv (s.panelStep d) := by
  unfold State.panelStep
  split
  · exact hs
  · dsimp only
    split
    · exact hs
    · split
      · exact hs.modHead.removeBegins
      · exact .ite hs.removeEnds.modHead hs
      · exact .ite hs.modHead hs.modHead.addBegins
      · exact .ite hs.modHead hs
      · exact hs

theorem Inv.panelGiven (hs : Inv s) {d p panel : Nat} {op : PanelOp} : Inv (s.panelGiven d p panel op) :=
  .ite hs.modDie.panelStep hs.modDie

theorem Inv.panelCommand (hs : Inv s) {d p panel : Nat} {op : PanelOp} : Inv (s.panelCommand d p panel op) :=
  .ite hs.panelStep hs.panelGiven

theorem Inv.scrubbed (hs : Inv s) {d : Nat} : Inv (s.scrubbed d) := by
  unfold State.scrubbed
  refine .foldl ?_ fun _ _ ht => ht.storeAnswered
  split
  · exact hs.frameScrubbed
  · exact hs

theorem Inv.scrubGiven (hs : Inv s) {d : Nat} {v : BitVec 32} : Inv (s.scrubGiven d v) := hs.modDie

/-! ### Saving and restoring -/

theorem Inv.saveCore (hs : Inv s) {p n : Nat} : Inv (s.saveCore p n) := by
  unfold State.saveCore
  split
  · exact hs
  · exact hs.putWords.modCore

theorem Inv.noteAside (hs : Inv s) {p n : Nat} : Inv (s.noteAside p n) := hs.update

theorem Inv.savePanels (hs : Inv s) {p : Nat} {panels : List Nat} : Inv (s.savePanels p panels) :=
  hs.foldl fun _ _ ht => (ht.noteAside.panelFlushed.foldl fun _ _ hu => hu.saveCore).vacate

theorem Inv.reloadCode (hs : Inv s) {p n : Nat} {i : RoutineInfo} : Inv (s.reloadCode p n i) := hs.copyIn

theorem Inv.restoreCore (hs : Inv s) {p n : Nat} : Inv (s.restoreCore p n) := by
  unfold State.restoreCore
  split
  · exact hs
  · refine .foldl (.setCore ?_) fun _ _ ht => ht.reloadCode
    exact hs.remember (loadTcm_wf _ _ hs.memory)

theorem Inv.restorePanels (hs : Inv s) {p : Nat} {panels : List Nat} : Inv (s.restorePanels p panels) := by
  refine .foldl (.update ?_) fun _ _ ht => ht.modDie_occ fun _ hx => aset_rising _ _ _ hx
  exact hs.foldl fun _ _ ht => ht.foldl fun _ _ hu => hu.restoreCore

theorem Inv.saveStep (hs : Inv s) {p : Nat} : Inv (s.saveStep p) := by
  unfold State.saveStep
  split
  · exact .ite (.ite hs.savePanels.modPart.terminateNow hs.savePanels.modPart) hs
  · exact hs.modPart
  · exact hs

theorem Inv.restoreStep (hs : Inv s) {p : Nat} : Inv (s.restoreStep p) := by
  unfold State.restoreStep
  split
  · exact .ite hs.demanded hs
  · exact .ite (.ite (hs.foldl fun _ _ ht => ht.panelFlushed).restorePanels.modPart.readReplies (hs.foldl fun _ _ ht =>
      ht.panelFlushed).restorePanels.modPart) hs

theorem Inv.modGroup (hs : Inv s) {d g : Nat} {f : Group → Group} : Inv (s.modGroup d g f) := hs.modDie

theorem Inv.sliceStep (hs : Inv s) {d g : Nat} : Inv (s.sliceStep d g) := by
  have hleft {p : Option Nat} {held : List Nat} : Inv (match p with
      | some p => s.savePanels p held
      | none => s) := by
    split
    · exact hs.savePanels
    · exact hs
  have hback {t : State} (ht : Inv t) {q : Option Nat} {free : Nat → List Nat} : Inv (match q with
      | some q => if t.serves q then t.restorePanels q (free q) else t
      | none => t) := by
    split
    · exact .ite ht.restorePanels ht
    · exact ht
  have hread {t : State} (ht : Inv t) {q : Option Nat} : Inv (match q with
      | some q => if t.repliesMay q then t.readReplies q 65536 else t
      | none => t) := by
    split
    · exact .ite ht.readReplies ht
    · exact ht
  unfold State.sliceStep
  refine .ite hs (.ite hs (.ite hs.update.modGroup (.ite hs ?_)))
  dsimp only
  cases (((s.die d).group g).entry ((s.die d).group g).next).bind s.imagesHeld with
  | some f => exact hs.demanded
  | none => exact hread (.modGroup (hback hleft))

theorem Inv.saveLate (hs : Inv s) {d g : Nat} : Inv (s.saveLate d g) := by
  unfold State.saveLate
  dsimp only
  split
  · refine .sliceStep ?_
    refine hs.update.foldl fun _ _ ht => ?_
    split
    · exact .ite ht.piecesLand.endJob ht
    · exact ht
  · exact hs

end Sys2Proof.Claims
end

section
/-! PROOF. O58: errors, power, boot, registers and the remaining forms of instructions keep the invariant. -/

namespace Sys2Proof.Claims
open Sys2Proof.Machine
variable {s : State} {α : Type}

/-! ### Errors -/

theorem Inv.noteError (hs : Inv s) {d : Nat} {e : ErrInfo} : Inv (s.noteError d e) := hs.modDie.recordsDue

theorem Inv.countLasting (hs : Inv s) {d : Nat} : Inv (s.countLasting d) := hs.modDie

theorem Inv.transient (hs : Inv s) {d key : Nat} {t : State} (e : s.transient d key = some t) : Inv t := by
  unfold State.transient at e
  dsimp only at e
  split at e <;> cases e
  exact hs.modDie

/-- The retired-frame filter changes no occupant. -/
theorem Die.retire_occ {x y : Die} {mpa : Nat} (e : x.retire mpa = some y) : y.occ = x.occ := by
  unfold Die.retire at e
  dsimp only at e
  split at e
  · cases e
    rfl
  · split at e <;> cases e
    rfl

theorem Inv.retireFrame (hs : Inv s) {d mpa : Nat} : Inv (s.retireFrame d mpa).1 := by
  unfold State.retireFrame
  split
  · next e =>
    refine hs.modDie_occ (f := fun _ => _) fun _ _ => ?_
    rw [Die.retire_occ e]
    exact die_rising hs d
  · exact hs

theorem Inv.lose (hs : Inv s) {a : Nat} : Inv (s.lose a) := hs.stored

theorem Inv.loseBurst (hs : Inv s) {mpa : Nat} : Inv (s.loseBurst mpa) := .ite hs hs.lose.lose.lose.lose

theorem Inv.terminateAll (hs : Inv s) {l : List Nat} : Inv (s.terminateAll l) := hs.foldl fun _ _ ht => ht.terminate

theorem Inv.lastingWord (hs : Inv s) {d unit place mpa : Nat} : Inv (s.lastingWord d unit place mpa) :=
  hs.retireFrame.loseBurst.countLasting.terminateAll.noteError

theorem Inv.lastingClean (hs : Inv s) {d : Nat} {l : MscLine} : Inv (s.lastingClean d l) := hs.modDie.countLasting.noteError

theorem Inv.retireQueued (hs : Inv s) {panel : Nat} : Inv (s.retireQueued panel) := .ite hs hs.modDie

theorem Inv.lastingPanel (hs : Inv s) {panel : Nat} : Inv (s.lastingPanel panel) := hs.countLasting.noteError.retireQueued

theorem Inv.classified (hs : Inv s) {d key : Nat} {retryOk : Bool} {bad : State → State} (hbad : ∀ {t}, Inv t → Inv (bad t)) :
    Inv (s.classified d key retryOk bad) := by
  unfold State.classified
  split
  · split
    · next e => exact hs.transient e
    · exact hbad hs
  · exact hbad hs

theorem Inv.detected (hs : Inv s) {u : ErrUnit} {mpa place : Nat} {retryOk : Bool} : Inv (s.detected u mpa place retryOk) := by
  unfold State.detected
  split
  · split
    · exact hs.classified fun ht => ht.lastingWord
    · exact hs
  · split
    · exact hs.classified fun ht => ht.lastingWord
    · exact hs
  · split
    · dsimp only
      split
      · exact hs.classified fun ht => ht.lastingClean
      · exact hs
    · exact hs
  · exact .ite (hs.classified fun ht => ht.lose.lastingPanel) hs
  · exact .ite hs.lastingPanel hs

theorem Inv.walkNoted (hs : Inv s) {d : Nat} {w : WayWalk} : Inv (s.walkNoted d w) := hs.noteError

theorem Inv.quarantine (hs : Inv s) {d : Nat} {w : WayWalk} : Inv (s.quarantine d w) :=
  .ite hs.modDie.walkNoted hs.modDie.modDie

theorem Inv.lostLine (hs : Inv s) {d : Nat} {l : MscLine} {cls : Nat} {owner : Byte} {gone : List Nat} :
    Inv (s.lostLine d l cls owner gone) :=
  hs.terminateAll.retireFrame.loseBurst.countLasting.terminateAll.quarantine

theorem Inv.wayStep (hs : Inv s) {d : Nat} : Inv (s.wayStep d) := by
  unfold State.wayStep
  split
  · exact hs
  · split
    · exact hs.modDie
    · exact hs.modDie.walkNoted

theorem Inv.dirtyLost (hs : Inv s) {d line : Nat} : Inv (s.dirtyLost d line) := by
  unfold State.dirtyLost
  split
  · exact hs.lostLine
  · exact hs

theorem Inv.tagLost (hs : Inv s) {d line : Nat} : Inv (s.tagLost d line) := by
  unfold State.tagLost
  split
  · exact hs.lostLine
  · exact hs

theorem Inv.lineRetried (hs : Inv s) {d line : Nat} : Inv (s.lineRetried d line) := by
  unfold State.lineRetried
  split
  · exact hs.classified fun ht => ht.dirtyLost
  · exact hs

theorem Inv.tagRetried (hs : Inv s) {d line : Nat} : Inv (s.tagRetried d line) := by
  unfold State.tagRetried
  split
  · exact hs.classified fun ht => ht.tagLost
  · exact hs

theorem Inv.corrected (hs : Inv s) {d : Nat} : Inv (s.corrected d) := hs.modDie

theorem Inv.waysBack (hs : Inv s) {d : Nat} {ways : BitVec 16} : Inv (s.waysBack d ways) := hs.modDie

theorem Inv.retireEnds (hs : Inv s) {d : Nat} {c : PanelCmd} {cls : Nat} : Inv (s.retireEnds d c cls) := hs.modHead.noteError

theorem Inv.replaced (hs : Inv s) {d : Nat} {c : PanelCmd} : Inv (s.replaced d c) := by
  unfold State.replaced
  have ht : Inv (((s.panelFlushed (4096 * d + c.panel)).panelCleared (4096 * d + c.panel)).vacate (4096 * d + c.panel)) :=
    hs.panelFlushed.panelCleared.vacate
  refine .ite (.retireEnds (.modDie (.foldl (.foldl ht ?_) ?_))) (.ite (.addBegins (.modHead ?_)) (.retireEnds ?_))
  · exact fun _ _ hu => .ite hu.setPanelBit hu
  · exact fun _ _ hu => .ite hu.setBit hu
  · exact ht.modDie.foldl fun _ _ hu => hu.modCore
  · exact ht.modDie.foldl fun _ _ hu => hu.modCore

theorem Inv.retireStep (hs : Inv s) {panel : Nat} : Inv (s.retireStep panel) := by
  unfold State.retireStep
  dsimp only
  split
  · exact hs
  · refine .ite hs (.ite (.ite hs.modHead.removeBegins hs.modHead) (.ite (.ite (.replaced (.ite ?_ hs)) hs) ?_))
    · exact hs.foldl fun _ _ ht => ht.evictCore
    · exact .ite hs.retireEnds hs

theorem Inv.linkFails (hs : Inv s) {l : ErrLink} : Inv (s.linkFails l) := by
  unfold State.linkFails
  split
  · exact hs.update.countLasting.noteError
  · exact hs.update.countLasting.noteError

theorem Inv.flitError (hs : Inv s) {l : ErrLink} {retryOk : Bool} : Inv (s.flitError l retryOk) :=
  .ite hs (.ite (hs.update.classified fun ht => ht.linkFails) (.ite hs.update hs.update.linkFails))

/-! ### Power and clocks -/

theorem Inv.bootDetail (hs : Inv s) {detail : BitVec 16} : Inv (s.bootDetail detail) := hs.update

theorem Inv.bootFails (hs : Inv s) {code : Nat} {detail : BitVec 16} : Inv (s.bootFails code detail) := hs.bootDetail.update

theorem Inv.modRail (hs : Inv s) {n : Nat} {f : Rail → Rail} : Inv (s.modRail n f) := hs.update

theorem Inv.powerLost (hs : Inv s) {n : Nat} : Inv (s.powerLost n) := by
  have ht : Inv ((s.coreNos.filter fun k => decide (k < 1048576) && railCore (dieOfCore k) == n).foldl
      (fun s k => s.setCore k Core.reset) s) := hs.foldl fun _ _ hu => hu.setCore
  exact ⟨Memory.without_wf _ ht.memory, ht.cores, ht.focus, ht.holder.sublist (List.filter_sublist.map _), ht.occupant⟩

theorem Inv.railFaults (hs : Inv s) {n : Nat} : Inv (s.railFaults n) :=
  (hs.modRail.foldl fun _ _ ht => ht.modRail.powerLost).update.bootFails

theorem Inv.railEnable (hs : Inv s) {n : Nat} {v : Bool} : Inv (s.railEnable n v) :=
  .ite hs.modRail (.ite (.ite hs.modRail.powerLost hs) (.ite hs.modRail (.ite hs.railFaults hs.modRail)))

theorem Inv.railGood (hs : Inv s) {n : Nat} : Inv (s.railGood n) := .ite hs.modRail hs

theorem Inv.railLate (hs : Inv s) {n : Nat} : Inv (s.railLate n) := .ite hs.railFaults hs

theorem Inv.railFaulted (hs : Inv s) {n : Nat} : Inv (s.railFaulted n) := .ite hs.railFaults hs

theorem Inv.clockBegins (hs : Inv s) : Inv s.clockBegins := .ite hs hs.update

theorem Inv.clockRequested (hs : Inv s) {v : BitVec 2} : Inv (s.clockRequested v) := .ite hs.update hs.update.clockBegins

theorem Inv.clockChanges (hs : Inv s) : Inv s.clockChanges := .ite hs (hs.foldl fun _ _ ht => ht.modRail).update.clockBegins

theorem Inv.powerWindow (hs : Inv s) {estimate : Nat} : Inv (s.powerWindow estimate) := hs.update

/-! ### Boot and security -/

theorem Inv.extend (hs : Inv s) {i : Nat} {d : BitVec 256} : Inv (s.extend i d) := .ite hs.update hs.update

theorem Inv.servedTo {l : List SecReq} (hs : Inv s) : Inv (s.servedTo l) := by
  induction l generalizing s with
  | nil => exact hs.update
  | cons x l ih =>
    unfold State.servedTo
    split
    · next e =>
      cases e
      exact ih hs.extend
    · exact hs.update

theorem Inv.measExtended (hs : Inv s) {i : BitVec 3} : Inv (s.measExtended i) := .ite hs (.servedTo hs.update)

theorem Inv.locked (hs : Inv s) {bits : Byte} : Inv (s.locked bits) := hs.update

theorem Inv.fuseWritten (hs : Inv s) {go : Bool} {field : BitVec 6} {index : BitVec 16} :
    Inv (s.fuseWritten go field index) := .ite hs.update hs

theorem Inv.fuseBlows (hs : Inv s) : Inv s.fuseBlows := .ite hs.update hs

theorem Inv.fuseCommand (hs : Inv s) {field : BitVec 6} {index : BitVec 16} : Inv (s.fuseCommand field index) :=
  .ite (.ite hs.fuseBlows hs) hs.fuseWritten.fuseBlows

theorem Inv.fusesClosed (hs : Inv s) : Inv s.fusesClosed := hs.update

theorem Inv.moduleReset (hs : Inv s) : Inv s.moduleReset := by
  have hreset := Sys2Proof.Resets.reset_inv
  refine ⟨?_, hreset.cores, hreset.focus, hreset.holder, hreset.occupant⟩
  have hmem := (Memory.wf_iff _).mp hs.memory
  have hempty := (Memory.wf_iff _).mp hreset.memory
  exact (Memory.wf_iff _).mpr ⟨cellsWf_filter _ _ _ hmem.1, hempty.2⟩

theorem Inv.flintRuns (hs : Inv s) {d : Nat} {entry : BitVec 12} : Inv (s.flintRuns d entry) := hs.setFlint.modCore

theorem Inv.flintStarted (hs : Inv s) {d : Nat} {entry : BitVec 12} : Inv (s.flintStarted d entry) := .ite hs.flintRuns hs

theorem Inv.copyImage {img : Nat → Byte} {a loc n : Nat} (hs : Inv s) : Inv (s.copyImage img a loc n) := by
  induction n generalizing s a loc with
  | zero => exact hs
  | succ n ih => exact ih hs.stored

theorem Inv.imageStarts (hs : Inv s) {h : ImageHead} : Inv (s.imageStarts h) := by
  have ht : Inv (((s.extend 0 (digest (signedBytes s.romByte h))).extend 1 (digest (s.bootRecord h))).locked 3) :=
    hs.extend.extend.locked
  exact .flintRuns (.copyImage (.copyImage (.ite ht.update.update ht.update)))

theorem Inv.romStep (hs : Inv s) : Inv s.romStep := by
  unfold State.romStep
  split
  · exact hs
  · split
    · exact hs.railEnable.update
    · split
      · exact hs
      · split
        · dsimp only
          split
          · exact hs.bootFails.setFlint
          · exact hs.imageStarts
        · dsimp only
          split
          · exact hs.bootFails.setFlint
          · exact hs

theorem Inv.recovers (hs : Inv s) : Inv s.recovers := .ite hs.setFlint.update hs

theorem Inv.recoveryWritten (hs : Inv s) {off : Nat} {v : DWord} : Inv (s.recoveryWritten off v) := .ite hs.stored.written hs

theorem Inv.quoteEnds (hs : Inv s) : Inv s.quoteEnds := by
  have ht : Inv (s.servedTo (s.sec.queue.drop 1)) := hs.servedTo
  exact ht.update

theorem Inv.quoted (hs : Inv s) {t j : Nat} : Inv (s.quoted t j) := hs.update.quoteEnds

theorem Inv.quoteStep (hs : Inv s) {blow : BlowResult} : Inv (s.quoteStep blow) := by
  unfold State.quoteStep
  split
  · split
    · exact .ite hs.quoted (.ite hs.update.quoteEnds hs.update.quoted)
    · exact .ite hs.update.quoteEnds hs.update.quoted
  · split
    · exact .ite hs.quoted (.ite hs.update.quoteEnds hs.update)
    · exact .ite hs.update.quoteEnds hs.update

theorem Inv.quoteRequested (hs : Inv s) {mgmt : Bool} : Inv (s.quoteRequested mgmt) := .ite hs hs.update

theorem Inv.quoteServed (hs : Inv s) {blow : BlowResult} : Inv (s.quoteServed blow) := (Inv.ite hs.quoteRequested hs).quoteStep

/-! ### Branches -/

theorem Keeps.target {t : Int} : Keeps (target t) := by
  unfold Machine.target
  refine .bind .getC fun _ => ?_
  split
  · exact .pure
  · exact .ite .pure .raise

theorem Keeps.relTarget {off : Int} : Keeps (relTarget off) := .bind .getC fun _ => .target

theorem Keeps.branchEx {cond : DWord → DWord → Bool} {a b : Reg} {off : Int} : Keeps (branchEx cond a b off) :=
  .bind .relTarget fun _ => .bind .readReg fun _ => .bind .readReg fun _ => .bind .checkReg fun _ => .bind .checkReg fun _ =>
    .pure

theorem Keeps.jalEx {d : Reg} {off : BitVec 20} : Keeps (jalEx d off) :=
  .bind .relTarget fun _ => .bind .getC fun _ => .bind .writeData fun _ => .pure

theorem Keeps.jalrEx {d a : Reg} {imm : BitVec 15} : Keeps (jalrEx d a imm) :=
  .bind .getC fun _ => .bind .readClean fun _ => .bind .target fun _ => .bind .writeData fun _ => .pure

theorem Keeps.loopEx {a : Reg} {off : BitVec 15} : Keeps (loopEx a off) :=
  .bind .relTarget fun _ => .bind .readDest fun _ => .bind .checkReg fun _ => .ite .pure (.bind .writeData fun _ => .pure)

theorem Keeps.jumpEx {off : BitVec 11} : Keeps (jumpEx off) := .bind .relTarget fun _ => .pure

/-! ### Counters -/

theorem Keeps.ctrsetEx {k : BitVec 6} {a : Reg} : Keeps (ctrsetEx k a) :=
  .bind .readReg fun _ => .bind .access fun _ => .bind .loadPlace fun _ => .getS fun _ _ => .ite (.bind .modC fun _ => .pure)
    (.ite (.bind .tableReady fun _ => .bind .check fun _ => .bind .check fun _ => .bind .check fun _ => .bind .modC fun _ =>
      .pure) (.bind .check fun _ => .bind .check fun _ => .bind .check fun _ => .bind .modC fun _ => .pure))

theorem Keeps.ctrdecEx {k : BitVec 6} {a : Reg} : Keeps (ctrdecEx k a) :=
  .bind .readClean fun _ => .bind (.modS fun _ hs => hs.decrement) fun _ => .pure

theorem Keeps.ctraddEx {k : BitVec 6} {a : Reg} : Keeps (ctraddEx k a) :=
  .bind .readClean fun _ => .ite (.bind (.modS fun _ hs => hs.decrement) fun _ => .pure) (.bind .modC fun _ => .pure)

theorem Keeps.ctrgetEx {k : BitVec 6} {d : Reg} : Keeps (ctrgetEx k d) :=
  .bind .modC fun _ => .bind .getC fun _ => .bind .writeData fun _ => .pure

theorem Keeps.arriveEx {k : BitVec 6} {a b : Reg} : Keeps (arriveEx k a b) :=
  .bind .readReg fun _ => .bind .readReg fun _ => .bind .checkReg fun _ => .bind .checkReg fun _ => .getS fun _ _ =>
    .bind .check fun _ => .bind (.modS fun _ ht => ht.drain.update) fun _ => .pure

theorem Keeps.barlinkEx {k : BitVec 6} {a : Reg} : Keeps (barlinkEx k a) :=
  .bind .readClean fun _ => .getS fun _ _ => .bind .check fun _ => .bind .modC fun _ => .pure

theorem Inv.clearCounter (hs : Inv s) {n k : Nat} : Inv (s.clearCounter n k) := by
  unfold State.clearCounter
  exact (hs.foldl fun _ _ ht => ht.modCore).modCore

theorem Keeps.ctrclrEx {k : BitVec 6} : Keeps (ctrclrEx k) := .bind (.modS fun _ hs => hs.clearCounter) fun _ => .pure

/-! ### Duplex operations -/

theorem Inv.setDsd (hs : Inv s) {m i : Nat} {v : DWord} : Inv (s.setDsd m i v) := hs.agentStore

theorem Keeps.dsdAccess {a : Reg} {cap : Val} : Keeps (dsdAccess a cap) := by
  unfold Machine.dsdAccess
  refine .bind .checkReg fun _ => .bind .checkReg fun _ => .bind .checkReg fun _ => .bind .check fun _ => ?_
  refine .bind .check fun _ => .getS fun _ _ => ?_
  split
  · exact .raise
  · refine .bind .accFit fun _ => ?_
    split
    · refine .bind .accMap fun _ => ?_
      split
      · exact .bind .check fun _ => .bind .awaitScrub fun _ => .pure
      · exact .raise
    · exact .raise

theorem Keeps.atHome {m : Nat} : Keeps (atHome m) :=
  .getS fun _ _ => .ite .stallThen (.bind (.modS fun _ ht => ht.foldl fun _ _ hu => hu.releaseFor) fun _ => .bind .modC fun _ =>
    .chargeBy)

theorem Keeps.dpxRegs {a b : Reg} : Keeps (dpxRegs a b) :=
  .bind .readReg fun _ => .bind .readReg fun _ => .bind .checkReg fun _ => .bind .checkReg fun _ => .pure

theorem Inv.freeBlock (hs : Inv s) {p m entry : Nat} : Inv (s.freeBlock p m entry) :=
  .ite (.ite hs.setGuestWord.setGuestWord.setDsd hs.setGuestWord) hs

theorem Inv.freeLayer {p m layer k b : Nat} (hs : Inv s) : Inv (s.freeLayer p m layer k b) := by
  induction k generalizing s b with
  | zero => exact hs
  | succ k ih => exact ih hs.freeBlock

theorem Inv.freeFrom (hs : Inv s) {p m t : Nat} {cap : QWord} : Inv (s.freeFrom p m t cap) :=
  .ite hs (hs.foldl fun _ _ ht => ht.freeLayer)

theorem Inv.startRestore (hs : Inv s) {p m slot : Nat} {cap : QWord} : Inv (s.startRestore p m slot cap) := hs.startJob

theorem Inv.sendFlush (hs : Inv s) {p m t hems : Nat} : Inv (s.sendFlush p m t hems) := by
  unfold State.sendFlush
  exact hs.modDie

theorem Inv.hem (hs : Inv s) {p m t : Nat} {cap : QWord} : Inv (s.hem p m t cap) :=
  hs.setDsd.freeFrom.startRestore.setDsd.setDsd.setDsd.sendFlush

theorem Keeps.raiseDpx {α : Type} {c : Cause} {eval : DWord} {dsd : Option DWord} : Keeps (raiseDpx c eval dsd : Ex α) := .error

theorem Keeps.hemCore {p m t : Nat} {cap : Val} {dsd : Option DWord} : Keeps (hemCore p m t cap dsd) := by
  unfold Machine.hemCore
  refine .getS fun _ _ => .ite ?_ ?_
  · exact .raiseDpx
  · refine .ite ?_ ?_
    · exact .pure
    · refine .ite ?_ ?_
      · exact .raiseDpx
      · dsimp only
        split
        · exact .bind .error fun _ => .bind (.modS fun _ ht => ht.hem.update) fun _ => .pure
        · exact .bind (.modS fun _ ht => ht.hem.update) fun _ => .pure

theorem Keeps.hemWaits {m : Nat} (hs : Inv s) : Keeps (hemWaits s m) := .bind (.modS fun _ _ => hs.update) fun _ => .pure

theorem Keeps.hemEx {d a b : Reg} : Keeps (hemEx d a b) := by
  unfold Machine.hemEx
  refine .getS fun _ hs => .bind .dpxRegs fun _ => ?_
  split
  · exact .bind .dsdAccess fun _ => .bind .atHome fun _ => .bind .hemCore fun _ =>
      .ite (.getS fun _ _ => .bind .writeData fun _ => .pure) (.hemWaits hs)

theorem Keeps.dpxOp {op : State → Nat → DWord → DWord × State} {d a b : Reg} (hop : ∀ {s m n}, Inv s → Inv (op s m n).2) :
    Keeps (dpxOp op d a b) := by
  unfold Machine.dpxOp
  refine .bind .dpxRegs fun _ => .bind .dsdAccess fun _ => .bind .atHome fun _ => .getS fun _ hs => ?_
  exact .bind (.modS fun _ _ => hop hs) fun _ => .bind .writeData fun _ => .pure

theorem Inv.playadv (hs : Inv s) {m : Nat} {v : DWord} : Inv (playadv s m v).2 := hs.setDsd

theorem Inv.genadv (hs : Inv s) {m : Nat} {v : DWord} : Inv (genadv s m v).2 := by
  unfold Machine.genadv
  split
  · exact hs.setDsd
  · exact hs

theorem Inv.cmtadv (hs : Inv s) {m : Nat} {v : DWord} : Inv (cmtadv s m v).2 := hs.setDsd

theorem Inv.dpxget (hs : Inv s) {m : Nat} {v : DWord} : Inv (dpxget s m v).2 := hs

theorem Keeps.frameEx {d a b : Reg} : Keeps (frameEx d a b) := by
  unfold Machine.frameEx
  refine .getS fun _ hs => .bind .dpxRegs fun _ => ?_
  split
  · exact .bind .dsdAccess fun _ => .bind .access fun _ => .bind .loadPlace fun _ => .bind .atHome fun _ => .bind .chargeGmem
      fun _ => .getS fun _ _ =>
        .ite .raiseDpx (.ite .raiseDpx
          (.ite (.bind .hemCore fun _ => .ite (.getS fun _ _ => .bind (.modS fun _ hv => hv.setDsd.setDsd) fun _ =>
            .bind .writeData fun _ => .pure) (.hemWaits hs)) (.bind .pure fun _ =>
              .ite (.getS fun _ _ => .bind (.modS fun _ hv => hv.setDsd.setDsd) fun _ => .bind .writeData fun _ => .pure)
                (.hemWaits hs))))

theorem Keeps.ckptEx {d a b : Reg} : Keeps (ckptEx d a b) :=
  .bind .readReg fun _ => .bind .readReg fun _ => .bind .readReg fun _ => .bind .checkReg fun _ => .bind .checkReg fun _ =>
    .bind .checkReg fun _ => .bind .dsdAccess fun _ => .bind .checkReg fun _ => .bind .checkReg fun _ =>
      .bind .checkReg fun _ => .bind .atHome fun _ => .getS fun _ _ => .bind .check fun _ => .bind (.modS fun _ ht => ht.setDsd)
        fun _ => .bind .place fun _ => .pure

/-! ### Engine commands -/

theorem Keeps.engCap {r : Reg} {v : Val} {need : Need} : Keeps (engCap r v need) :=
  .bind .checkReg fun _ => .bind .checkReg fun _ => .checkReg

theorem Keeps.engPlace {e : EngSpec} {ch : BitVec 2} {src dst desc : Val} : Keeps (engPlace e ch src dst desc) :=
  .getS fun _ _ => .bind .check fun _ => .bind .check fun _ => .bind (.eachOk fun _ => .check) fun _ => .bind .check fun _ =>
    .bind .check fun _ => .bind .check fun _ => .bind .check fun _ => .bind .place fun _ => .pure

theorem Keeps.copyEx {fill : Bool} {d a b : Reg} {ch : BitVec 2} : Keeps (copyEx fill d a b ch) := by
  unfold Machine.copyEx
  refine .bind .rawRegs fun _ => ?_
  split
  · exact .bind .engCap fun _ => .bind .engCap fun _ => .bind .check fun _ => .bind .check fun _ => .bind .check fun _ =>
      .engPlace
  · exact .pure

theorem Keeps.rowsEx {scatter : Bool} {d a b : Reg} {ch : BitVec 2} : Keeps (rowsEx scatter d a b ch) := by
  unfold Machine.rowsEx
  refine .bind .rawRegs fun _ => ?_
  split
  · exact .bind .engCap fun _ => .bind .engCap fun _ => .bind .engCap fun _ => .bind .access fun _ => .bind .loadPlace fun _ =>
      .bind .checkReg fun _ => .bind .check fun _ => .bind .engPlace fun _ => .bind .chargeGmem fun _ => .pure
  · exact .pure

theorem Keeps.wmsetEx {ch : BitVec 2} {a b : Reg} : Keeps (wmsetEx ch a b) :=
  .bind .readReg fun _ => .bind .readReg fun _ => .bind .checkReg fun _ => .bind .checkReg fun _ => .bind .check fun _ =>
    .bind .check fun _ => .bind .check fun _ => .getS fun _ _ => .bind .modC fun _ => .pure

theorem Keeps.wmgetEx {d : Reg} {ch : BitVec 2} : Keeps (wmgetEx d ch) := .bind .getC fun _ => .bind .writeData fun _ => .pure

/-! ### Load and store forms -/

theorem Keeps.loadEx {d a : Reg} {sz : BitVec 3} {imm : BitVec 12} {alloc : Bool} : Keeps (loadEx d a sz imm alloc) :=
  .bind .readReg fun _ => .bind .loadVal fun _ => .bind .writeReg fun _ => .pure

theorem Keeps.storeEx {b a : Reg} {sz : BitVec 3} {imm : BitVec 12} {alloc : Bool} : Keeps (storeEx b a sz imm alloc) :=
  .bind .readReg fun _ => .bind .readReg fun _ => .bind .storeVal fun _ => .pure

theorem Keeps.storeG10 {x : Reg} {off : BitVec 6} : Keeps (storeG10 x off) := .storeEx

/-! ### Training -/

theorem Inv.setTrain (hs : Inv s) {b : TrainBlock} {t : Train} : Inv (s.setTrain b t) := hs.update

theorem Inv.opRuns (hs : Inv s) {b : TrainBlock} {op : Nat} {pass : Bool} {margin : BitVec 16} {errs : BitVec 32}
    {f : Train → Train} :
    Inv (s.opRuns b op pass margin errs f) := .ite hs.setTrain hs

theorem Inv.channelOnline (hs : Inv s) {c : Nat} : Inv (s.channelOnline c) :=
  .ite (.setTrain (hs.remember (Memory.clearChannel_wf _ hs.memory))) hs

theorem Inv.linkUp (hs : Inv s) {b : TrainBlock} : Inv (s.linkUp b) := by
  unfold State.linkUp
  split
  · exact .ite hs.setTrain.update hs
  · exact .ite (.ite hs.setTrain.update hs.setTrain) hs

theorem Inv.attemptFails (hs : Inv s) {b : TrainBlock} {fails : Nat} : Inv (s.attemptFails b fails) := by
  unfold State.attemptFails
  split
  · exact .ite hs.bootFails hs
  · exact hs.bootFails
  · exact .ite hs.update.bootDetail hs

theorem Inv.trainingEnds (hs : Inv s) {b : TrainBlock} : Inv (s.trainingEnds b) := by
  unfold State.trainingEnds
  dsimp only
  split
  · exact hs
  · split
    · exact .ite (.ite (hs.setTrain.foldl fun _ _ ht => ht.setTrain) hs.setTrain)
        (Inv.ite (hs.setTrain.foldl fun _ _ ht => ht.setTrain) hs.setTrain).attemptFails
    · exact hs.setTrain
    · exact hs

/-! ### Stage 1 -/

theorem Inv.setPhase (hs : Inv s) {k : Nat} : Inv (s.setPhase k) := hs.update

theorem Inv.flintLoaded (hs : Inv s) {d : Nat} : Inv (s.flintLoaded d) := hs.copyImage.flintStarted

theorem Inv.flintFailed (hs : Inv s) {d : Nat} : Inv (s.flintFailed d) := by
  unfold State.flintFailed
  split
  · exact hs.bootFails
  · exact hs.bootFails

theorem Inv.stageTrains (hs : Inv s) : Inv s.stageTrains := by
  unfold State.stageTrains
  dsimp only
  split
  · exact hs.flintLoaded
  · exact hs.flintFailed
  · exact .ite hs.setPhase hs

theorem Inv.stageStep (hs : Inv s) : Inv s.stageStep := by
  unfold State.stageStep
  split
  · exact hs
  · split
    · exact hs.setPhase
    · split
      · exact hs.railEnable
      · exact .ite hs.setPhase hs.clockRequested
    · exact hs.stageTrains
    · exact .ite hs.setPhase hs
    · exact .ite hs.fusesClosed (.ite hs (.ite hs.setPhase.update hs.clockRequested))
    · exact hs

theorem Inv.stagePanel (hs : Inv s) {panel : Nat} : Inv (s.stagePanel panel) := .ite hs.retireQueued hs

theorem Inv.stageImage (hs : Inv s) {off kind : Nat} : Inv (s.stageImage off kind) := by
  unfold State.stageImage
  split
  · exact hs
  · dsimp only
    split
    · exact hs.bootFails
    · refine .copyImage (.foldl (.update ?_) fun _ _ ht => ht.copyImage)
      exact hs.extend

theorem Inv.stageLoaded (hs : Inv s) : Inv s.stageLoaded := by
  refine .ite hs (.locked (.update (.copyImage ?_)))
  exact hs.extend

theorem Inv.stageTrained (hs : Inv s) {d : Nat} {b : TrainBlock} {arg : Byte} : Inv (s.stageTrained d b arg) :=
  .ite hs.setTrain hs

theorem Inv.flintTrains (hs : Inv s) {d : Nat} : Inv (s.flintTrains d) := .ite hs.putWords.setFlint hs

/-! ### Register writes -/

theorem Inv.partIdle (hs : Inv s) {p : Nat} {f : Part → Part} : Inv (s.partIdle p f) := .ite hs hs.modPart

theorem Inv.writePart (hs : Inv s) {p o : Nat} {v : DWord} : Inv (s.writePart p o v) := by
  unfold State.writePart
  split
  · exact hs.enabled
  · exact hs.partIdle
  · exact hs.modPart
  · exact hs.partIdle
  · exact hs.partIdle
  · exact hs.partIdle
  · exact hs.partIdle
  · exact hs.partIdle
  · exact hs.partIdle
  · exact hs.partIdle
  · exact .ite hs.bookFlushed hs
  · exact .ite hs.xlFlushed hs
  · exact hs.partIdle
  · exact hs.partIdle
  · exact hs.partIdle
  · exact hs.partIdle
  · exact hs.partIdle
  · exact hs.requestsRead
  · exact hs.partIdle
  · exact hs.partIdle.published
  · exact hs.partIdle
  · exact hs.partIdle
  · exact hs.partIdle
  · split
    · exact hs
    · split
      · exact hs.saveStep
      · exact hs.restoreStep
      · exact hs
  · exact hs.partIdle
  · exact .ite hs hs.modPart
  · exact hs.modPart
  · exact hs

theorem Inv.writePartVf (hs : Inv s) {p o : Nat} {v : DWord} : Inv (s.writePartVf p o v) := .ite hs.writePart hs

theorem Inv.writeQueue (hs : Inv s) {a : RegAgent} {q o : Nat} {v : DWord} : Inv (s.writeQueue a q o v) :=
  .ite hs.doorbell (.ite hs.errClear (.ite hs.modWindow hs))

theorem Inv.writeTrain (hs : Inv s) {b : TrainBlock} {o : Nat} {v : DWord} : Inv (s.writeTrain b o v) := by
  unfold State.writeTrain
  split
  · exact .ite hs hs.setTrain
  · split
    · exact hs.setTrain
    · exact hs

theorem Inv.writeSecurity (hs : Inv s) {a : RegAgent} {o : Nat} {v : DWord} : Inv (s.writeSecurity a o v) := by
  unfold State.writeSecurity
  split
  · exact .ite hs.measExtended (.ite hs hs.update)
  · exact .ite hs.update hs
  · exact hs.locked
  · exact .ite hs.fusesClosed hs
  · exact hs.fuseWritten
  · exact .ite hs.quoteRequested hs
  · exact hs.recovers
  · exact .ite hs.update hs
  · exact .ite hs.update hs
  · split
    · exact hs.update
    · exact hs.update
    · exact hs

theorem Inv.writeFlint (hs : Inv s) {o : Nat} {v : DWord} : Inv (s.writeFlint o v) := by
  unfold State.writeFlint
  dsimp only
  split
  · exact .ite (hs.remember (Memory.write_wf _ _ _ _ hs.memory)) hs
  · exact .ite hs.flintStarted hs

theorem Inv.writePower (hs : Inv s) {o : Nat} {v : DWord} : Inv (s.writePower o v) := by
  unfold State.writePower
  split
  · exact hs.clockRequested
  · exact hs.update
  · split
    · exact (Inv.ite hs.modRail hs).railEnable
    · exact hs

theorem Inv.writeGroup (hs : Inv s) {d g k : Nat} {v : DWord} : Inv (s.writeGroup d g k v) := hs.modGroup

theorem Inv.writeErrors (hs : Inv s) {d o : Nat} {v : DWord} : Inv (s.writeErrors d o v) := by
  unfold State.writeErrors
  split
  · exact hs.modDie
  · exact hs.modDie
  · exact hs.modDie
  · exact hs.waysBack
  · split
    · exact .ite hs.modDie hs
    · exact hs.writeGroup
    · exact hs

theorem Inv.waysWritten (hs : Inv s) {d : Nat} {n : BitVec 5} : Inv (s.waysWritten d n) := hs.modDie

theorem Inv.ownerWritten (hs : Inv s) {d k : Nat} {v : DWord} : Inv (s.ownerWritten d k v) := .ite hs hs.modDie

theorem Inv.writePanel (hs : Inv s) {d : Nat} {v : DWord} : Inv (s.writePanel d v) := by
  have hgiven (op : Option PanelOp) (p panel : Nat) : Inv (match op with
      | some op => s.panelGiven d p panel op
      | none => s) := by
    cases op with
    | none => exact hs
    | some op => exact hs.panelGiven
  exact hgiven _ _ _

theorem Inv.writeDie (hs : Inv s) {a : RegAgent} {d o : Nat} {v : DWord} : Inv (s.writeDie a d o v) := by
  unfold State.writeDie
  split
  · exact hs.writeTrain
  · split
    · exact hs.writeErrors
    · split
      · exact .ite hs.writePower hs
      · split
        · exact .ite hs.writeFlint hs
        · split
          · exact .ite hs.writeSecurity hs
          · split
            · exact hs.writePanel
            · exact hs.waysWritten
            · exact hs.modDie
            · exact hs.modDie.scrubGiven
            · split
              · exact hs.modDie
              · exact hs.ownerWritten
              · exact hs

theorem Inv.registerWritten (hs : Inv s) {a : RegAgent} {off : Nat} {v : DWord} : Inv (s.registerWritten a off v) := by
  unfold State.registerWritten
  split
  · split
    · exact hs.writePartVf
    · exact hs
    · exact hs.writePart
  · exact .ite hs hs.writeQueue
  · exact .ite hs hs.writeDie
  · exact hs

theorem Inv.postedWritten (hs : Inv s) {d off : Nat} {v : DWord} : Inv (s.postedWritten d off v) := by
  unfold State.postedWritten
  split
  · exact hs
  · exact .ite hs.update.registerWritten hs

theorem Inv.agentWrites (hs : Inv s) {a : RegAgent} {off : Nat} {v : DWord} : Inv (s.agentWrites a off v) := by
  unfold State.agentWrites
  split
  · exact hs.postedWritten
  · exact hs.registerWritten

/-! ### Repetitions -/

theorem Keeps.awaitRep : Keeps awaitRep := .bind .getC fun _ => .ite .stall .pure

theorem Keeps.repbEx {d a size : Reg} : Keeps (repbEx d a size) := by
  unfold Machine.repbEx
  refine .bind .awaitRep fun _ => .bind .rawRegs fun _ => ?_
  split
  · exact .bind .modC fun _ => .pure
  · exact .pure

theorem Keeps.repeEx : Keeps repeEx := by
  unfold Machine.repeEx
  refine .bind .getC fun _ => ?_
  split
  · exact .ite (.bind .modC fun _ => .pure) .raise
  · exact .raise

theorem Keeps.repwaitEx : Keeps repwaitEx := .bind .awaitRep fun _ => .bind .modC fun _ => .pure

/-! ### System forms -/

theorem Keeps.trapEx {c : Cause} {eval : DWord} : Keeps (trapEx c eval) := .raise

theorem Inv.eretDone (hs : Inv s) : Inv s.eretDone := by
  unfold State.eretDone
  dsimp only
  split
  · exact hs.releaseAtEnd.update.launchEngines.taskGone.update.dispose.kernelCharge
  · exact hs.releaseAtEnd.update.launchEngines.taskGone

theorem Keeps.eretEnds : Keeps eretEnds := .bind .modC fun _ => .bind (.modS fun _ hs => hs.eretDone) fun _ => .pure

theorem Keeps.eretEx : Keeps eretEx := by
  unfold Machine.eretEx
  refine .bind .denyCode fun _ => .bind .needKernel fun _ => .getS fun _ hs => .ite ?_ ?_
  · exact .stallThen
  · split
    · exact .ite .eretEnds .pure
    · split
      · exact .eretEnds
      · refine .bind .tableReady fun _ => .ite ?_ ?_
        · exact .stallThen
        · split
          · next e2 => exact .bind (.modS fun _ _ => hs.slateBegin e2) fun _ => .pure
          · exact .eretEnds

theorem Keeps.haltEx : Keeps haltEx :=
  .bind .denyCode fun _ => .bind .needKernel fun _ => .bind (.modS fun _ hs => hs.update.outOfService) fun _ => .pure

theorem Keeps.wfiEx : Keeps wfiEx := .bind .denyCode fun _ => .bind .needKernel fun _ => .bind .getC fun _ => .ite .pure .stall

theorem Keeps.clflEx {a : Reg} : Keeps (clflEx a) := by
  unfold Machine.clflEx
  refine .bind .denyCode fun _ => .bind .readReg fun _ => .bind .access fun _ => ?_
  dsimp only
  split
  · exact .ite (.bind (.modS fun _ hs => .ite hs.release hs) fun _ => .bind .chargeGmem fun _ => .pure)
      (.bind .chargeGmem fun _ => .pure)
  · exact .bind .chargeGmem fun _ => .pure

theorem Keeps.clinvEx : Keeps clinvEx :=
  .bind .denyCode fun _ => .bind .needKernel fun _ => .bind (.modS fun _ hs => hs.releaseAll) fun _ => .pure

theorem Keeps.xlinvEx {a : Reg} : Keeps (xlinvEx a) := by
  unfold Machine.xlinvEx
  refine .bind .denyCode fun _ => .bind .needKernel fun _ => .bind .readClean fun _ => .bind ?_ fun _ => ?_
  · refine .modS fun _ hs => ?_
    split
    · exact hs
    · exact hs.ptcDrop
  · exact .pure

theorem Keeps.csrCheck {n : Nat} {write : Bool} : Keeps (csrCheck n write) :=
  .bind .denyCode fun _ => .bind .getC fun _ => .bind .check fun _ => .check

theorem Keeps.csrrEx {d : Reg} {n : BitVec 10} : Keeps (csrrEx d n) :=
  .bind .csrCheck fun _ => .getS fun _ _ => .bind .writeData fun _ => .pure

theorem Keeps.csrwEx {f : DWord → DWord → DWord} {n : BitVec 10} {d : Reg} : Keeps (csrwEx f n d) :=
  .bind .csrCheck fun _ => .bind .readClean fun _ => .getS fun _ _ => .bind .modC fun _ => .pure

/-! ### Vectors -/

theorem Keeps.writeVec {d : Reg} {bits : QWord} {poison : Bool} : Keeps (writeVec d bits poison) :=
  .bind .writeReg fun _ => .pure

theorem Keeps.writeLanes {w : Nat} {d : Reg} {xs : List (Nat × Flags)} {poison : Bool} : Keeps (writeLanes w d xs poison) :=
  .bind .raiseFlags fun _ => .writeVec

theorem Keeps.vec2 {t : VType} {op : RMode → Nat → Nat → Nat × Flags} {d a b : Reg} : Keeps (vec2 t op d a b) :=
  .bind .readReg fun _ => .bind .readReg fun _ => .bind .getC fun _ => .writeLanes

theorem Keeps.vec1 {t : VType} {op : RMode → Nat → Nat × Flags} {d a : Reg} : Keeps (vec1 t op d a) :=
  .bind .readReg fun _ => .bind .getC fun _ => .writeLanes

theorem Keeps.vfmaEx {t : VType} {d a b : Reg} : Keeps (vfmaEx t d a b) :=
  .bind .readDest fun _ => .bind .readReg fun _ => .bind .readReg fun _ => .bind .getC fun _ => .writeLanes

theorem Keeps.vselEx {t : VType} {d a b : Reg} : Keeps (vselEx t d a b) :=
  .bind .readDest fun _ => .bind .readReg fun _ => .bind .readReg fun _ => .writeVec

theorem Keeps.vsplatEx {t : VType} {d a : Reg} : Keeps (vsplatEx t d a) := .bind .readReg fun _ => .writeVec

theorem Keeps.vextEx {t : VType} {d a b : Reg} : Keeps (vextEx t d a b) :=
  .bind .readReg fun _ => .bind .readReg fun _ => .writeVec

theorem Keeps.vinsEx {t : VType} {d a b : Reg} : Keeps (vinsEx t d a b) :=
  .bind .readDest fun _ => .bind .readReg fun _ => .bind .readReg fun _ => .writeVec

theorem Keeps.vshufEx {t : VType} {d a b : Reg} : Keeps (vshufEx t d a b) :=
  .bind .readReg fun _ => .bind .readReg fun _ => .writeVec

theorem Keeps.vrsumEx {t : VType} {d a : Reg} : Keeps (vrsumEx t d a) :=
  .bind .readReg fun _ => .bind .getC fun _ => .ite (.bind .raiseFlags fun _ => .writeVec) .writeVec

theorem Keeps.vrmaxEx {t : VType} {d a : Reg} : Keeps (vrmaxEx t d a) :=
  .bind .readReg fun _ => .ite (.bind .raiseFlags fun _ => .writeVec) .writeVec

theorem Keeps.vimaxEx {t : VType} {d a : Reg} : Keeps (vimaxEx t d a) := .bind .readReg fun _ => .writeVec

theorem Keeps.vcvtEx {t src : VType} {d a : Reg} : Keeps (vcvtEx t src d a) :=
  .bind .readReg fun _ => .bind .getC fun _ => .writeLanes

theorem Keeps.vdecEx {d a : Reg} {tblB : Bool} : Keeps (vdecEx d a tblB) :=
  .bind .readReg fun _ => .bind .getC fun _ => .writeVec

theorem Keeps.vencEx {d a : Reg} {tblB : Bool} : Keeps (vencEx d a tblB) :=
  .bind .readReg fun _ => .bind .getC fun _ => .writeLanes

theorem Keeps.vecFn {fn : Nat → Machine.Num → Machine.Num × Flags} {t : VType} {d a : Reg} : Keeps (vecFn fn t d a) := .vec1

/-! ### Fetching and inputs -/

theorem Inv.illegal (hs : Inv s) {eval : DWord} : Inv (s.illegal eval) := hs.takeTrap

theorem Inv.holding (hs : Inv s) {st : Stream} {bits : Nat} : Inv (s.holding st bits) := hs.update

theorem Inv.registerReadBy (hs : Inv s) {a : RegAgent} {off : Nat} : Inv (s.registerReadBy a off) := .ite hs.update hs

theorem Inv.configReadBy (hs : Inv s) {fn off : Nat} : Inv (s.configReadBy fn off) := .ite hs.update hs

theorem Inv.heated (hs : Inv s) {d : Nat} {v : BitVec 12} : Inv (s.heated d v) := hs.update

theorem Inv.turned (hs : Inv s) {n : Nat} {st : Stream} : Inv (s.turned n st) := hs.modCore

theorem Inv.tracked {t : State} (ht : Inv t) {i : Instr} : Inv (State.tracked t i s) := by
  unfold State.tracked
  refine .ite ht ?_
  exact ht.update

theorem Inv.ticked (hs : Inv s) {before : Nat} : Inv (s.ticked before) := hs.serviced.update

end Sys2Proof.Claims
end

section
/-! PROOF. O58: every instruction and event, the work that goes on by itself, and with them every step keep the invariant. -/

namespace Sys2Proof.Claims
open Sys2Proof.Machine
variable {s : State} {α : Type}

/-! ### Instructions and events -/

/-- Every state that an instruction or an event leaves keeps the invariant. -/
def OutKeeps : Out → Prop
  | .next s => Inv s
  | _ => True

theorem Inv.finish (hs : Inv s) {len : Nat} {m : Ex Flow} (hm : Keeps m) : OutKeeps (finish len m s) := by
  unfold Machine.finish
  split
  · next f t e => exact (hm.keeps hs e).complete
  · exact hs.takeTrap
  · exact hs.stalledOn
  · refine Inv.stalledOn ?_
    exact hs.update
  · exact hs.pageMiss.stalledOn
  · exact hs.demanded.stalledOn

/-- Every row of the table keeps the invariant: its operation does. -/
theorem Inv.exec (hs : Inv s) : ∀ i : Instr, OutKeeps (exec i s)
  | .add .. | .sub .. | .and .. | .or .. | .xor .. | .andn .. | .sll .. | .srl .. | .sra .. | .rol .. | .slt ..
  | .sltu .. | .min .. | .max .. | .minu .. | .maxu .. | .mul .. | .mulh .. | .mulhu .. | .div .. | .divu .. | .rem ..
  | .remu .. => hs.finish .alu2
  | .clz .. | .ctz .. | .popc .. => hs.finish .alu1
  | .sel .. => hs.finish .selEx
  | .mix .. | .addi .. | .andi .. | .ori .. | .xori .. | .slli .. | .srli .. | .srai .. | .roli .. | .slti ..
  | .sltiu .. => hs.finish .alu1
  | .li .. => hs.finish .constEx
  | .lis .. => hs.finish .lisEx
  | .ld .. | .ldna .. => hs.finish .loadEx
  | .st .. | .stna .. => hs.finish .storeEx
  | .amoadd .. | .amoand .. | .amoor .. | .amoxor .. | .amomin .. | .amomax .. | .amominu .. | .amomaxu ..
  | .amoswp .. | .amocas .. => hs.finish .amoEx
  | .scld .. | .scst .. | .scswp .. | .scadd .. => hs.finish .scEx
  | .fenceSl => hs.finish .fenceStores
  | .fenceAcq .. => hs.finish .fenceAcquire
  | .fenceRel .. => hs.finish .fenceRelease
  | .fenceAr .. => hs.finish .fenceBoth
  | .fenceEng => hs.finish .fenceMatrix
  | .beq .. | .bne .. | .blt .. | .bge .. | .bltu .. | .bgeu .. => hs.finish .branchEx
  | .jal .. => hs.finish .jalEx
  | .jalr .. => hs.finish .jalrEx
  | .loop .. => hs.finish .loopEx
  | .cgetbase .. | .cgetlen .. | .cgetperm .. | .cgettype .. | .cgetreg .. | .cgettag .. => hs.finish .inspectEx
  | .csetaddr .. | .cinc .. => hs.finish .moveEx
  | .csetbnd .. => hs.finish .csetbndEx
  | .candperm .. => hs.finish .candpermEx
  | .cseal .. => hs.finish .csealEx
  | .cunseal .. => hs.finish .cunsealEx
  | .cmov .. => hs.finish .cmovEx
  | .ctestsub .. => hs.finish .ctestsubEx
  | .cclrtag .. => hs.finish .cclrtagEx
  | .cinci .. => hs.finish .cinciEx
  | .csetbi .. => hs.finish .csetbiEx
  | .send .. => hs.finish .sendEx
  | .sendc .. => hs.finish .sendcEx
  | .sendk .. => hs.finish .sendkEx
  | .sendd .. => hs.finish .senddEx
  | .post .. => hs.finish .postEx
  | .mcast .. => hs.finish .mcastEx
  | .rread .. => hs.finish .rreadEx
  | .sende .. => hs.finish .sendeEx
  | .endTask => hs.finish .endEx
  | .abort => hs.finish .abortEx
  | .ctrset .. => hs.finish .ctrsetEx
  | .ctrdec .. => hs.finish .ctrdecEx
  | .ctradd .. => hs.finish .ctraddEx
  | .ctrget .. => hs.finish .ctrgetEx
  | .arrive .. => hs.finish .arriveEx
  | .barlink .. => hs.finish .barlinkEx
  | .ctrclr .. => hs.finish .ctrclrEx
  | .sbind .. => hs.finish .sbindEx
  | .qbind .. => hs.finish .qbindEx
  | .lbind .. => hs.finish .lbindEx
  | .unbind .. => hs.finish .unbindEx
  | .bstat .. => hs.finish .bstatEx
  | .repb .. => hs.finish .repbEx
  | .repe => hs.finish .repeEx
  | .repwait => hs.finish .repwaitEx
  | .vadd .. | .vsub .. | .vmul .. => hs.finish .vec2
  | .vfma .. => hs.finish .vfmaEx
  | .vmin .. | .vmax .. => hs.finish .vec2
  | .vabs .. | .vneg .. => hs.finish .vec1
  | .vand .. | .vor .. | .vxor .. | .vshl .. | .vshr .. | .vsra .. | .vceq .. | .vclt .. | .vcle .. => hs.finish .vec2
  | .vsel .. => hs.finish .vselEx
  | .vsplat .. => hs.finish .vsplatEx
  | .vext .. => hs.finish .vextEx
  | .vins .. => hs.finish .vinsEx
  | .vshuf .. => hs.finish .vshufEx
  | .vrsum .. => hs.finish .vrsumEx
  | .vrmax .. => hs.finish .vrmaxEx
  | .vcvt .. => hs.finish .vcvtEx
  | .vdec .. => hs.finish .vdecEx
  | .venc .. => hs.finish .vencEx
  | .vrcp .. | .vrsq .. | .vexp2 .. | .vlog2 .. => hs.finish .vecFn
  | .vimax .. => hs.finish .vimaxEx
  | .mma .. => hs.finish .mmaEx
  | .bload .. => hs.finish .bloadEx
  | .brot => hs.finish .brotEx
  | .mxwait => hs.finish .mxwaitEx
  | .mxspill => hs.finish .mxspillEx
  | .mxwt .. => hs.finish .mxwtEx
  | .accclr .. => hs.finish .accclrEx
  | .accadd .. => hs.finish .accaddEx
  | .accaddv .. => hs.finish .accaddvEx
  | .accfma .. => hs.finish .accfmaEx
  | .acccmb .. => hs.finish .acccmbEx
  | .accrnd .. => hs.finish .accrndEx
  | .accst .. => hs.finish .accstEx
  | .cpy .. => hs.finish .copyEx
  | .gather .. | .scatter .. => hs.finish .rowsEx
  | .fill .. => hs.finish .copyEx
  | .wmset .. => hs.finish .wmsetEx
  | .wmget .. => hs.finish .wmgetEx
  | .adopt .. => hs.finish .adoptEx
  | .shed .. => hs.finish .shedEx
  | .chnget .. => hs.finish .chngetEx
  | .fit .. => hs.finish .fitEx
  | .unpick .. => hs.finish .unpickEx
  | .charge .. => hs.finish .chargeEx
  | .chnset .. => hs.finish .chnsetEx
  | .lton .. => hs.finish .ltonEx
  | .ltoff => hs.finish .ltoffEx
  | .ltclk .. => hs.finish .ltclkEx
  | .ltchan .. => hs.finish .ltchanEx
  | .ltann => hs.finish .ltannEx
  | .ltnull .. => hs.finish .ltnullEx
  | .hem .. => hs.finish .hemEx
  | .playadv .. => hs.finish (.dpxOp fun ht => ht.playadv)
  | .frame .. => hs.finish .frameEx
  | .genadv .. => hs.finish (.dpxOp fun ht => ht.genadv)
  | .cmtadv .. => hs.finish (.dpxOp fun ht => ht.cmtadv)
  | .ckpt .. => hs.finish .ckptEx
  | .dpxget .. => hs.finish (.dpxOp fun ht => ht.dpxget)
  | .smparm .. => hs.finish .smparmEx
  | .smpinj .. => hs.finish .smpinjEx
  | .smpget .. => hs.finish .smpgetEx
  | .wset .. => hs.finish .wsetEx
  | .wget .. => hs.finish .wgetEx
  | .dtload .. => hs.finish .dtloadEx
  | .trap .. | .sysc .. => hs.finish (len := 2) .trapEx
  | .eret => hs.finish .eretEx
  | .csrr .. => hs.finish .csrrEx
  | .csrw .. | .csrset .. | .csrclr .. => hs.finish .csrwEx
  | .halt => hs.finish .haltEx
  | .bkpt => hs.finish (len := 2) .trapEx
  | .clfl .. => hs.finish .clflEx
  | .clinv => hs.finish .clinvEx
  | .xlinv .. => hs.finish .xlinvEx
  | .wfi => hs.finish .wfiEx
  | .hint => hs.finish .pure
  | .cMov .. => hs.finish .cmovEx
  | .cAddi .. => hs.finish .alu1
  | .cLi .. => hs.finish .constEx
  | .cAdd .. | .cSub .. | .cAnd .. => hs.finish .alu2
  | .cSlli .. => hs.finish .alu1
  | .cLdd .. => hs.finish .loadEx
  | .cStd .. => hs.finish .storeG10
  | .cBeqz .. | .cBnez .. => hs.finish .branchEx
  | .cJ .. => hs.finish .jumpEx
  | .cNop => hs.finish .pure
  | .cEnd => hs.finish .endEx
  | .cBkpt => hs.finish (len := 1) .trapEx
  | .cMxwait => hs.finish .mxwaitEx
  | .cRepwait => hs.finish .repwaitEx
  | .cHint => hs.finish .pure
  | .taskDispatch .. => hs.dispatchTask
  | .activeMessage .. | .countMessage .. | .codeMessage .. | .dataMessage .. | .systemMessage .. | .eventMessage ..
  | .clockMessage .. | .sampleMessage .. => hs.deliver
  | .routerSampleCombine .. => hs.combine
  | .refusalReceived .. => hs.refused
  | .retryTimer .. => hs.retry
  | .counterDecrement .. => hs.decrementArrives
  | .downwardFlip .. => hs.flipArrives
  | .queueAgeing .. => hs.age
  | .budgetExpiry .. => hs.budgetExpiry
  | .balancingRound .. => hs.balance
  | .storeBufferDrain .. => hs.drainStep
  | .directoryRequest .. => hs.sliceRequest
  | .remoteWordAccess .. => hs.remoteWord
  | .lineEviction .. => hs.evict
  | .scPresent .. => hs.scPresented
  | .scApply .. => hs.scApplied
  | .fittingWalk .. => hs.fittingWalked
  | .matrixEngineStep .. => hs.mxStep
  | .brotRotate .. => hs.rotate
  | .groupWatchdog .. => hs.watchdog
  | .streamerPiece .. => hs.streamerPiece
  | .unpickPresent .. => hs.unpickPresented
  | .unpickReceive .. => hs.unpickReceived
  | .unpickComplete .. => hs.unpickCompleted
  | .automaticRound .. => hs.round
  | .eventDispatch .. => hs.evDispatch
  | .zerolaEntry .. => hs.zerolaEntry
  | .rreadServe .. => hs.rreadServed
  | .hostAccess .. => hs.hostAccessed
  | .widx .. => hs.doorbell
  | .queueErrClear .. => hs.errClear
  | .walkerStep .. => hs.walk
  | .nop .. => hs.nopPacket
  | .install .. => hs.installPacket
  | .dispatch .. | .postPacket .. => hs.dispatchPacket
  | .copy .. => hs.copyPacket
  | .signal .. => hs.signalPacket
  | .write .. | .stamp .. => hs.storePacket
  | .uninstall .. => hs.uninstallPacket
  | .sendkRequest .. => hs.sendkArrives
  | .launchTaskSend .. => hs.taskSend
  | .coreInstall .. => hs.installNext
  | .launchComplete .. => hs.launchCompletes
  | .prqridx .. => hs.requestsRead
  | .rpwidx .. => hs.published
  | .kernelReply .. => hs.kernelReplies
  | .xlflush .. => hs.xlFlushed
  | .bookflush .. => hs.bookFlushed
  | .en .. => hs.enabled
  | .panelRemove .. | .panelAdd .. => hs.panelCommand
  | .save .. => hs.saveStep
  | .restore .. => hs.restoreStep
  | .sqwidx .. => hs.scrubGiven
  | .scrubEntry .. => hs.scrubbed
  | .waydisClear .. => hs.waysBack
  | .sliceExpiry .. => hs.sliceStep
  | .saveTimeout .. => hs.saveLate
  | .moduleReset => hs.moduleReset
  | .romImageCheck => hs.romStep
  | .recovgo => hs.recovers
  | .flintStart .. => hs.flintStarted
  | .measExtend .. => hs.measExtended
  | .mlock .. => hs.locked
  | .fusecmd .. => hs.fuseCommand
  | .fuselock => hs.fusesClosed
  | .qgo .. => hs.quoteServed
  | .railEn .. => hs.railEnable
  | .railPgoodTimeout .. => hs.railLate
  | .railFault .. => hs.railFaulted
  | .clkstateReq .. => hs.clockRequested
  | .clockChange => hs.clockChanges
  | .powerWindow .. => hs.powerWindow
  | .gddrInit .. | .catrain .. | .wckalign .. | .rdtrain .. | .wrtrain .. | .verify .. => hs.opRuns
  | .gddrOnline .. => hs.channelOnline
  | .eqTrain .. | .prbs .. | .deskew .. | .flitlock .. => hs.opRuns
  | .linkOnline .. => hs.linkUp
  | .trainingDone .. => hs.trainingEnds
  | .errorDetect .. => hs.detected
  | .cacheDirtyLineError .. => hs.dirtyLost
  | .ownerTagParityError .. => hs.tagLost
  | .panelRetirement .. => hs.retireStep
  | .linkFlitError .. => hs.flitError
  | .registerWrite .. => hs.agentWrites
  | .unreachable .. => hs.lostModule
  | .domainUnpick .. => hs.domainUnpicked
  | .failureReport .. => hs.reportArrives
  | .pgood .. => hs.railGood

/-! ### Work that goes on by itself -/

/-- The state that the module's own work leaves, where there is work, keeps the invariant. -/
def WorkKeeps : Option State → Prop
  | some s => Inv s
  | none => True

theorem WorkKeeps.ite {c : Prop} [Decidable c] {a b : Option State} (ha : WorkKeeps a) (hb : WorkKeeps b) :
    WorkKeeps (if c then a else b) := by
  split
  · exact ha
  · exact hb

theorem WorkKeeps.map {o : Option α} {f : α → State} (hf : ∀ a, Inv (f a)) : WorkKeeps (o.map f) := by
  cases o with
  | none => trivial
  | some a => exact hf a

theorem WorkKeeps.bind {o : Option α} {f : α → Option State} (hf : ∀ a, WorkKeeps (f a)) : WorkKeeps (o.bind f) := by
  cases o with
  | none => trivial
  | some a => exact hf a

theorem WorkKeeps.findSome {l : List α} {f : α → Option State} (hf : ∀ a, WorkKeeps (f a)) : WorkKeeps (l.findSome? f) := by
  induction l with
  | nil => trivial
  | cons a l ih =>
    have ha := hf a
    rw [List.findSome?_cons]
    cases e : f a with
    | none => exact ih
    | some t =>
      rw [e] at ha
      exact ha

theorem WorkKeeps.progress [DecidableEq α] {a b : α} (hs : Inv s) : WorkKeeps (progress a b s) := .ite trivial hs

theorem WorkKeeps.first {o : Option State} {l : List (Option State)} (ho : WorkKeeps o) (hl : WorkKeeps (firstSome l)) :
    WorkKeeps (firstSome (o :: l)) := by
  cases o with
  | none => exact hl
  | some t => exact ho

theorem Inv.storeWork (hs : Inv s) : WorkKeeps s.storeWork :=
  .ite hs.drainStep (.bind fun _ => .progress hs.drainStep)

theorem Inv.counterWork (hs : Inv s) : WorkKeeps s.counterWork := .ite hs.decrementArrives (.ite hs.flipArrives trivial)

theorem Inv.copyWork (hs : Inv s) {u : Sender} {slot i : Nat} : WorkKeeps (s.copyWork u slot i) := by
  unfold State.copyWork
  split
  · trivial
  · split
    · trivial
    · split
      · exact hs.refused
      · exact .ite hs.retry trivial
      · exact .progress hs.deliver

theorem Inv.messageWork (hs : Inv s) : WorkKeeps s.messageWork :=
  .findSome fun _ => .findSome fun _ => .findSome fun _ => hs.copyWork

theorem Inv.eventWork (hs : Inv s) : WorkKeeps s.eventWork := .findSome fun _ => .progress hs.evDispatch

theorem Inv.retryWork (hs : Inv s) : WorkKeeps s.retryWork := .ite (.map fun _ => hs.retry) trivial

theorem Inv.engineWork (hs : Inv s) : WorkKeeps s.engineWork := by
  refine .findSome fun _ => .ite trivial (.findSome fun _ => ?_)
  exact .first (.progress hs.streamerPiece) (.first (.progress hs.streamerPiece) trivial)

theorem Inv.matrixWork (hs : Inv s) : WorkKeeps s.matrixWork :=
  .findSome fun _ => .first (.progress hs.mxStep) (.first (.progress hs.rotate) trivial)

theorem Inv.scWork (hs : Inv s) : WorkKeeps s.scWork :=
  .first (.map fun _ => hs.scPresented) (.first (.findSome fun _ => .map fun _ => hs.scApplied) trivial)

theorem Inv.unpickWork (hs : Inv s) : WorkKeeps s.unpickWork := by
  refine .findSome fun _ => .ite (.progress hs.unpickPresented) ?_
  split
  · exact hs.unpickReceived
  · exact .ite hs.unpickCompleted trivial

theorem Inv.launchWork (hs : Inv s) : WorkKeeps s.launchWork := by
  refine .ite trivial (.first (.ite trivial hs.reportArrives) (.first ?_ (.first ?_ (.first ?_ trivial))))
  · refine .findSome fun _ => .findSome fun _ => ?_
    split
    · exact hs.sendkArrives
    · trivial
  · exact .findSome fun _ => .progress hs.taskSend
  · exact .findSome fun _ => .progress hs.launchCompletes

theorem Inv.bootWork (hs : Inv s) : WorkKeeps s.bootWork := by
  unfold State.bootWork
  split
  · exact hs.railGood
  · exact .ite hs.romStep trivial

theorem Inv.blockWork (hs : Inv s) : WorkKeeps s.blockWork := by
  unfold State.blockWork
  split
  · exact hs.postedWritten
  · exact .ite hs.fuseBlows (.ite trivial hs.quoteServed)

theorem Inv.wayWork (hs : Inv s) : WorkKeeps s.wayWork := .map fun _ => hs.wayStep

theorem Inv.work (hs : Inv s) : WorkKeeps s.work := by
  refine .first hs.bootWork (.first hs.blockWork (.first hs.storeWork (.first hs.counterWork (.first hs.messageWork ?_))))
  refine .first hs.eventWork (.first hs.scWork (.first hs.unpickWork (.first hs.matrixWork (.first hs.engineWork ?_))))
  exact .first hs.launchWork (.first hs.wayWork (.first hs.retryWork trivial))

/-! ### What a step comes to -/

/-- What a step comes to before it runs keeps the invariant. -/
def ActKeeps : Act → Prop
  | .run _ s => Inv s
  | .done s => Inv s

theorem ActKeeps.ite {c : Prop} [Decidable c] {a b : Act} (ha : ActKeeps a) (hb : ActKeeps b) : ActKeeps (if c then a else b) := by
  split
  · exact ha
  · exact hb

theorem Inv.control (hs : Inv s) : ActKeeps s.control := by
  unfold State.control
  split
  · exact hs.holding.illegal
  · split
    · exact hs.holding
    · exact hs.holding.illegal

theorem Inv.capture (hs : Inv s) {r : Rep} : ActKeeps (s.capture r) := by
  unfold State.capture
  split
  · exact hs.holding.illegal
  · refine .ite hs.holding (.ite hs.holding.illegal ?_)
    exact hs.holding.update

theorem Inv.bodyTurn (hs : Inv s) {r : Rep} : ActKeeps (s.bodyTurn r) := by
  unfold State.bodyTurn
  split
  · exact hs.update
  · dsimp only
    split
    · exact hs.holding
    · exact hs.holding.illegal

theorem Inv.coreTurn (hs : Inv s) : ActKeeps s.coreTurn := by
  unfold State.coreTurn
  refine .ite hs.update (.ite hs (.ite hs ?_))
  split
  · exact .ite hs.capture (.ite hs.bodyTurn hs.control)
  · exact hs.control

theorem Inv.entered (hs : Inv s) : ∀ x : Input, Inv (s.entered x)
  | .registerRead .. => hs.registerReadBy
  | .configRead .. => hs.configReadBy
  | .recoveryWrite .. => hs.recoveryWritten
  | .temperature .. => hs.heated
  | .corrected .. => hs.corrected
  | .lineRetried .. => hs.lineRetried
  | .tagRetried .. => hs.tagRetried
  | .peerAck .. => hs.peerAcked
  | .wayStep .. => hs.wayStep
  | .earlyLoad .. => .ite hs.earlyLoaded hs
  | .latchRead .. => .ite hs.latchRead hs
  | .turn .. => hs.turned
  | .stage => hs.stageStep
  | .stagePanel .. => hs.stagePanel
  | .stageImage .. => hs.stageImage
  | .stageLoaded => hs.stageLoaded
  | .flintTrains .. => hs.flintTrains
  | .stageTrain .. => hs.stageTrained

theorem Inv.agentTurn (hs : Inv s) : ∀ a : Agent, ActKeeps (s.agentTurn a)
  | .event _ => .ite hs.update hs
  | .core _ => (Inv.focusOn hs.update).coreTurn
  | .input x => hs.entered x

theorem Inv.freeTurn (hs : Inv s) : ActKeeps s.freeTurn := by
  unfold State.freeTurn
  split
  · next t e =>
    have hwork : WorkKeeps (if s.waiting then s.work else none) := .ite hs.work trivial
    rw [e] at hwork
    exact Inv.update hwork
  · exact hs.agentTurn _

theorem Inv.act (hs : Inv s) : ActKeeps s.act := by
  unfold State.act
  split
  · exact Inv.agentTurn hs.update _
  · exact hs.freeTurn

/-- Where an act leads, a state that keeps the invariant. -/
theorem Inv.step (hs : Inv s) : OutKeeps (step s) := by
  have hact := hs.act
  unfold Machine.step
  split
  · next e =>
    rw [e] at hact
    exact Inv.ticked hact
  · next i t e =>
    rw [e] at hact
    have hexec : OutKeeps (Machine.exec i t) := Inv.exec hact i
    split
    · next eexec =>
      rw [eexec] at hexec
      exact (Inv.tracked hexec).ticked
    · exact hexec

end Sys2Proof.Claims

open Sys2Proof.Claims in
/-- Settles O58: no operation of the model breaks the invariant (`Inv.step`). Memory is written by operations that keep its form, a
line is added where nothing holds it, and a panel's occupant is entered or removed by panel number. -/
theorem stepKeepsInv : Obligations.StepKeepsInv := by
  unfold Obligations.StepKeepsInv
  intro s t hs hstep
  have hout := hs.step
  rw [hstep] at hout
  exact hout
end
